-- ==== Sys2Proof/Word.lean ====
section
/-!
DEFINITION. The word types of the model (00_scope.md R6, R8): bytes, the unsigned words of 16, 32 and 64 bits,
and the 128-bit instruction word of R193.
-/

namespace Sys2Proof

/-- Eight bits: the unit of device memory and of a Granary (R8). -/
abbrev Byte := BitVec 8

/-- A 32-bit word. An FP32 value is carried as its binary32 encoding (R45). -/
abbrev Word32 := BitVec 32

/-- A 64-bit word. -/
abbrev Word64 := BitVec 64

/-- A Pelov instruction word (R193, R194). -/
abbrev InstrWord := BitVec 128

end Sys2Proof
end

