-- ==== Sys2Proof/Syntax.lean ====
section
/-!
DEFINITION. The commands of the block: one constructor of `Instr` for each row of spec/opcode_table.json, with the
row's operands. A quantity the device measures, or that arrives from outside, is an operand; everything else a row
needs is read from the state.
-/

namespace Sys2Proof

/-- A logical croft of an open job: the job's position (01_croft_anatomy.md R37) and the logical croft number (R36). -/
structure CroftRef where
  job : Fin 64
  n   : Fin 256
deriving DecidableEq, Repr

/-- The nine unit queues of a sequencer (01_croft_anatomy.md R21). -/
inductive QueueId where
  | mill (i : Fin 4)
  | drain
  | sampler
  | field
  | move
  | mesh
deriving DecidableEq, Repr

/-- A unit that runs one instruction at a time (01_croft_anatomy.md R12, R23). -/
inductive UnitId where
  | mill (i : Fin 4)
  | drain (i : Fin 4)
  | row (i : Fin 4)
  | field
  | move
  | mesh
deriving DecidableEq, Repr

/-- A halo record (06_lattice_field.md R178): VERSION holds the sweep in [62:0] and the class in [63]. -/
structure HaloRec where
  version : Word64
  source  : Word32
  states  : BitVec 128
deriving DecidableEq, Repr

/-- A handshake record (06_lattice_field.md R179): the sender's identity and edge laid out as SOURCE of R178, its
SWEEPS, its S, the CRC-32 of its edge bonds and its whole boundary (colour 0 in [127:0], colour 1 in [255:128]). -/
structure Handshake where
  source   : Word32
  sweeps   : Word64
  s        : Byte
  crc      : Word32
  boundary : BitVec 256
deriving DecidableEq, Repr

/-- A word that a check found uncorrectable (13_checking_replay_test.md R378, R394). -/
inductive WordLoc where
  | device (addr : Nat)
  | granary (offset : Nat)
  | bank (mill : Fin 4) (offset : Nat)
  | context (offset : Nat)
  | journal (offset : Nat)
deriving DecidableEq, Repr

/-- The checks that lead to a step replay (13_checking_replay_test.md R372), as SLOT_ERRORS tells them apart (R397). -/
inductive CheckKind where
  | residue
  | duplicate
  | parity
  | uncorrectable (w : WordLoc) (again : Bool)
deriving DecidableEq, Repr

/-- Who waits for acknowledgements from the mesh (08_mesh_and_memory.md R257): a unit of a croft, or a command in flight of the
hub. -/
inductive AckWaiter where
  | croft (c : CroftRef)
  | command (id : Nat)
deriving DecidableEq, Repr

/-- A remote semaphore signal (07_croft_instruction_set.md R210): its source and its target, each a logical device
and a logical croft of the job. -/
structure RemoteSig where
  job      : Fin 64
  srcDev   : Nat
  srcCroft : Fin 256
  tgtDev   : Nat
  tgtCroft : Fin 256
  sem      : Fin 32
  count    : BitVec 16
deriving DecidableEq, Repr

/-- Who makes a barrier arrival at this device's Square (07_croft_instruction_set.md R217, 09_fohal_scale_out.md
R283): a logical croft of this device, or the subtree of another logical device with its combined count, for a numbered barrier
or for the implicit one of R285. -/
inductive Arriver where
  | croft (n : Fin 256)
  | subtree (dev : Nat) (arrivals : Nat) (implicit : Bool)
deriving DecidableEq, Repr

/-- The direction of a message on the tree of logical devices (09_fohal_scale_out.md R283); a release for a numbered barrier or
for the implicit one of R285. -/
inductive TreeDir where
  | up (implicit : Bool)
  | down (tRel : Nat) (implicit : Bool)
deriving DecidableEq, Repr

/-- What a patrol read found (08_mesh_and_memory.md R254, 13_checking_replay_test.md R379). -/
inductive ScrubResult where
  | clean
  | corrected (words : Nat)
  | uncorrectable (addr : Nat)
deriving DecidableEq, Repr

/-- A memory repair (13_checking_replay_test.md R387). -/
inductive RepairKind where
  | row
  | lane
  | exhausted
deriving DecidableEq, Repr

/-- What ends a port's activity in DETECT, TRAIN, MEASURE or RETRAIN (09_fohal_scale_out.md R265, R266): detection
done; training done at full (`true`) or nominal rate; losses in 0.1 dB and round trip in units of 2^-6 ns. -/
inductive PhaseResult where
  | detected
  | trained (fullRate : Bool)
  | measured (loss : List Nat) (rtt : Nat)
deriving DecidableEq, Repr

/-- A link-state record (09_fohal_scale_out.md R270): for each port its state and its partner's fabric address, and
the devices the record declares lost (R296). The manual does not say how a device learns whose time source is valid (R281):
here the record says it of its device (DESIGN CHOICE, log 93). -/
structure LinkState where
  deviceId   : Word64
  address    : Nat
  generation : Nat
  ports      : List (Nat × Nat)
  lost       : List Nat
  timeSource : Bool
deriving DecidableEq, Repr

/-- A door of the dictionary that carries Birsiler messages (11_object_dictionary.md): a management session or the
local mailbox. -/
inductive Door where
  | session (k : Fin 16)
  | mailbox
deriving DecidableEq, Repr

/-- The staging blocks (11_object_dictionary.md R349). -/
inductive Block where
  | management
  | fabric
  | ethernet
  | well
  | determinism
deriving DecidableEq, Repr

/-- The result a test's patterns give (13_checking_replay_test.md R389, R397). -/
inductive TestOutcome where
  | pass
  | fail
  | patternInvalid
deriving DecidableEq, Repr

/-- What comes in by PCIe: a request (10_queues_and_hub.md R326), or the report of a correctable or an uncorrectable error
(R325). -/
inductive PcieReq where
  | read (addr : Nat) (bytes : Nat)
  | write (addr : Nat) (data : List Byte)
  | error (correctable : Bool)
deriving DecidableEq, Repr

/-- What the client of a management handshake offers, and where it sends it (11_object_dictionary.md R333, R334): whether the
signature of its certificate verifies, whether it comes by IPv6, the
address and the UDP port, and the cipher suites, groups and signature schemes by their TLS numbers. -/
structure DtlsOffer where
  signed     : Bool
  ipv6       : Bool
  dest       : BitVec 128
  port       : BitVec 16
  suites     : List (BitVec 16)
  groups     : List (BitVec 16)
  signatures : List (BitVec 16)
deriving DecidableEq, Repr

/-- One poll of a board regulator on PMBus (16_power_clocks_thermal.md R452): the raw words read, and whether the packet error codes of
the reads are right. -/
structure PmbusRec where
  address : Nat
  vout    : BitVec 16
  iout    : BitVec 16
  temp    : BitVec 16
  status  : BitVec 16
  pecGood : Bool
deriving DecidableEq, Repr

/-- A board regulator as a scan finds it (R452): its address, VOUT_MODE and CAPABILITY. -/
structure PmbusFound where
  address    : Nat
  mode       : Byte
  capability : Byte
deriving DecidableEq, Repr

/-- How far Watch comes with the fuse bits of a request (15_boot_firmware_security.md R424): the bits that blow, one after the other,
and whether the next one fails to; without a failure the request goes on later where it stopped. -/
structure FuseRun where
  bits  : Nat
  fails : Bool
deriving DecidableEq, Repr

/-- TMS and the level of TRST_N (`true` while it is low) at an edge of TCK (17_package_balls_electrical.md R466). -/
structure TapPins where
  tms  : Bool
  trst : Bool
deriving DecidableEq, Repr

/-- What power-up measured of the memories (08_mesh_and_memory.md R255): the stacks that trained, and for each
LPDDR5X subsystem its installed bytes and its training state; and the row repairs left in units 0..35
(13_checking_replay_test.md R387, R397); and the slots whose generators fail the checks that run beside it
(15_boot_firmware_security.md R427 step 7). -/
structure MemTraining where
  hbmTrained : BitVec 12
  lpddr      : List (Nat × Fin 3)
  left       : List Nat
  badSlots   : List (Fin 80)
deriving DecidableEq, Repr

/-- A message between devices on CTRL, REPLY or HALO (09_fohal_scale_out.md R277), MESH.PUT data, contributions and plain halo
records apart. The job of a message is not in its bytes (log 22). -/
inductive FabricMsg where
  /-- A remote signal (R210). -/
  | signal (s : RemoteSig)
  /-- Arrivals of a subtree at a job-scope barrier, on their way to the parent (R283). -/
  | arrivals (implicit : Bool) (num : Fin 16) (parties : Nat) (dev : Nat) (count : Nat)
  /-- The release time of a job-scope barrier on its way down (R283). -/
  | release (implicit : Bool) (num : Fin 16) (tRel : Nat)
  /-- A link-state record (R270). -/
  | linkState (r : LinkState)
  /-- A collective refusal (R292). -/
  | refuse (collId : Word32) (dst step chunk seg : Nat) (attempt : Fin 4)
  /-- A collective acceptance (R277): the contribution of a step to a logical device is taken. -/
  | accept (collId : Word32) (dst step chunk seg : Nat)
  /-- A job halted elsewhere by a fault that halts it on every device (R226, R292, R299): the fault record, and the collective
  whose command carries it. -/
  | halt (code step : Nat) (detail : Word64) (coll : Option Word32)
  /-- The begin or end of an emergency at a logical device (16_power_clocks_thermal.md R449). -/
  | notice (dev : Nat) (begins : Bool)
  /-- The acknowledgement of a remote write under its tag (R278). -/
  | ack (tag : Nat)
  /-- A handshake for an edge of a Field (R179). -/
  | handshake (croft : Fin 256) (edge : Fin 4) (h : Handshake)
deriving DecidableEq, Repr

/-- A part of the package mesh that may fail (08_mesh_and_memory.md R249, R230): the router of a node, or the hub port on it. -/
inductive MeshPart where
  | router
  | hubPort
deriving DecidableEq, Repr

/-- What a scrub of a Granary row finds (01_croft_anatomy.md R19, 13_checking_replay_test.md R379): the number of words with
single-bit errors, and the Granary offsets of the uncorrectable words. -/
structure ScrubFound where
  corrected : Nat
  lost      : List Nat
deriving DecidableEq, Repr

/-- A flit as it arrives (09_fohal_scale_out.md R260, R269, R298): its bytes, the symbols corrected on each lane, the codewords found
uncorrectable that begin with it (a codeword carries two flits and a half), and what its sender knows of its message and the
flit does not say (log 22): the job it belongs to, by its position here, and whether that job's flits take ADAPTIVE routes. -/
structure FlitArrival where
  flit     : BitVec 2048
  fec      : List Nat
  bad      : Fin 3
  job      : Option (Fin 64)
  adaptive : Bool
deriving DecidableEq, Repr

/-- What a time exchange finds beside the offset (09_fohal_scale_out.md R281, R282): whether the error is below 1.0 ns, and whether
an IEEE 1588 source on an 800GbE port of this device is valid. -/
structure TimeFound where
  good : Bool
  ptp  : Bool
deriving DecidableEq, Repr

/-- The last three bytes of an SMBus write block (11_object_dictionary.md R346): an offset and a count. -/
structure SmbusSpan where
  offset : BitVec 16
  count  : Byte
deriving DecidableEq, Repr

/-- A release of RESET_IN_N (15_boot_firmware_security.md R427, R420): the strap pins as sampled, and what a board agent programmed
into the flashes while the reset was asserted: flash, offset and bytes. -/
structure ResetRelease where
  straps     : Fin 4
  programmed : List (Fin 2 × Nat × List Byte)
deriving DecidableEq, Repr

/-- The commands, in the order of spec/opcode_table.json. -/
inductive Instr where
  /-- CTRL_NOP (R195). -/
  | ctrlNop (c : CroftRef)
  /-- CTRL_SETA (R199). -/
  | ctrlSeta (c : CroftRef)
  /-- CTRL_ADDA (R199). -/
  | ctrlAdda (c : CroftRef)
  /-- CTRL_SETC (R199). -/
  | ctrlSetc (c : CroftRef)
  /-- CTRL_ADDC (R199). -/
  | ctrlAddc (c : CroftRef)
  /-- CTRL_LOOP (R199). -/
  | ctrlLoop (c : CroftRef)
  /-- CTRL_JUMP (R199). -/
  | ctrlJump (c : CroftRef)
  /-- CTRL_CINIT (R31). -/
  | ctrlCinit (c : CroftRef)
  /-- CTRL_CSAVE (R32). -/
  | ctrlCsave (c : CroftRef)
  /-- CTRL_CREST (R120). -/
  | ctrlCrest (c : CroftRef)
  /-- CTRL_END (R223). -/
  | ctrlEnd (c : CroftRef)
  /-- SYNC_CHK (R214). -/
  | syncChk (c : CroftRef)
  /-- SYNC_WAIT (R209). -/
  | syncWait (c : CroftRef)
  /-- SYNC_SIG (R209). -/
  | syncSig (c : CroftRef)
  /-- SYNC_FENCE (R211). -/
  | syncFence (c : CroftRef)
  /-- SYNC_BAR (R217). -/
  | syncBar (c : CroftRef)
  /-- MILL_MM (R56). -/
  | millMm (c : CroftRef)
  /-- DRAIN_RED (R80). -/
  | drainRed (c : CroftRef)
  /-- DRAIN_EMIT (R87). -/
  | drainEmit (c : CroftRef)
  /-- SAMP_BERN (R138). -/
  | sampBern (c : CroftRef)
  /-- SAMP_GIBBS (R147). -/
  | sampGibbs (c : CroftRef)
  /-- SAMP_GUMB (R142). -/
  | sampGumb (c : CroftRef)
  /-- SAMP_TAKE (R144). -/
  | sampTake (c : CroftRef)
  /-- SAMP_MASK (R139). -/
  | sampMask (c : CroftRef)
  /-- SAMP_FILL (R140). -/
  | sampFill (c : CroftRef)
  /-- FIELD_LOAD (R173). -/
  | fieldLoad (c : CroftRef)
  /-- FIELD_SWEEP (R176). -/
  | fieldSweep (c : CroftRef)
  /-- FIELD_SNAP (R189). -/
  | fieldSnap (c : CroftRef)
  /-- FIELD_READ (R190). -/
  | fieldRead (c : CroftRef)
  /-- MOVE_DMA (R204). -/
  | moveDma (c : CroftRef)
  /-- MOVE_ZERO (R204). -/
  | moveZero (c : CroftRef)
  /-- MESH_PUT (R205). -/
  | meshPut (c : CroftRef)
  /-- MESH_MCAST (R205). -/
  | meshMcast (c : CroftRef)
  /-- INSTRUCTION_START (R196): the head of queue `q` of croft `c`. -/
  | instructionStart (c : CroftRef) (q : QueueId)
  /-- INSTRUCTION_COMPLETION (R196): the instruction running on unit `u` of croft `c`. -/
  | instructionCompletion (c : CroftRef) (u : UnitId)
  /-- FIELD_PHASE_END (R176). -/
  | fieldPhaseEnd (c : CroftRef)
  /-- FIELD_SWEEP_END (R185). -/
  | fieldSweepEnd (c : CroftRef)
  /-- SNAPSHOT_COMMIT (R187). -/
  | snapshotCommit (c : CroftRef)
  /-- HALO_RECORD (R178). -/
  | haloRecord (c : CroftRef) (r : HaloRec)
  /-- HALO_HANDSHAKE (R179): the record received on edge `e` (0 north, 1 east, 2 south, 3 west). -/
  | haloHandshake (c : CroftRef) (e : Fin 4) (h : Handshake)
  /-- HALO_STALL (R182). -/
  | haloStall (c : CroftRef)
  /-- FIELD_ERROR_ROLLBACK (R188): `storage` when the error lay in coupling, bias or schedule storage. -/
  | fieldErrorRollback (c : CroftRef) (storage : Bool)
  /-- CHECK_ERROR_REPLAY (R374). -/
  | checkErrorReplay (c : CroftRef) (k : CheckKind)
  /-- SYNC_TIMEOUT (R212). -/
  | syncTimeout (c : CroftRef)
  /-- REMOTE_SIGNAL (R210). -/
  | remoteSignal (sig : RemoteSig)
  /-- BARRIER_ARRIVAL (R217): `jobScope` is SCOPE. -/
  | barrierArrival (j : Fin 64) (jobScope : Bool) (bar : Fin 16) (parties : Nat) (who : Arriver)
  /-- BARRIER_RELEASE (R283). -/
  | barrierRelease (j : Fin 64) (jobScope : Bool) (bar : Fin 16)
  /-- BARRIER_FORWARD (R283). -/
  | barrierForward (j : Fin 64) (bar : Fin 16) (dir : TreeDir)
  /-- LANE_POSITIONING_DONE (R115): sets 0..3 are the sampler rows, 4 is the Field set. -/
  | lanePositioningDone (c : CroftRef) (set : Fin 5)
  /-- ISLAND_PARK (R34). -/
  | islandPark (slot : Fin 80)
  /-- ISLAND_RESUME (R34). -/
  | islandResume (slot : Fin 80)
  /-- MAP_CHANGED (R39): the bindings Bailiff installs together, each a logical croft and a slot. -/
  | mapChanged (j : Fin 64) (binds : List (Fin 256 × Fin 80))
  /-- CROFT_SWITCH (R41): the slot's logical croft is saved and `into` takes the slot. -/
  | croftSwitch (slot : Fin 80) (into : CroftRef)
  /-- CROFT_MOVE (R381): `readable` is false when the old slot's state cannot be read (R382). -/
  | croftMove (c : CroftRef) (readable : Bool)
  /-- GENERATOR_CHECK (R123): with a slot, step 4 on that slot with its outcome; without, steps 1 to 3. -/
  | generatorCheck (slot : Option (Fin 80)) (lanesGood : Bool)
  /-- GRANARY_FORCED_SCRUB (R19, R379): what the row scrubbed holds. -/
  | granaryForcedScrub (slot : Fin 80) (bank : Fin 64) (found : ScrubFound)
  /-- GRANARY_ROW_REPAIR (R385). -/
  | granaryRowRepair (slot : Fin 80) (bank : Fin 64) (row : Fin 32768)
  /-- PATROL_SCRUB (R254): units 0..11 are the stacks, 12..35 the subsystems; `passEnd` ends a pass. -/
  | patrolScrub (unit : Fin 36) (res : ScrubResult) (passEnd : Bool)
  /-- MEMORY_REPAIR (R387). -/
  | memoryRepair (unit : Fin 36) (k : RepairKind)
  /-- UNFIT (R295). -/
  | unfit
  /-- AGE_MEASURE (R386): the two oscillator frequencies in kHz. -/
  | ageMeasure (slot : Fin 80) (agedKhz : Nat) (refKhz : Nat)
  /-- AGE_RETIRE (R386). -/
  | ageRetire (slot : Fin 80)
  /-- AGE_NO_SPARE (R386). -/
  | ageNoSpare (slot : Fin 80)
  /-- ROUTER_FAILURE (R249): the part that failed, and its node. -/
  | routerFailure (part : MeshPart) (node : Fin 12 × Fin 10)
  /-- MULTICAST_ACCEPTANCE (R245): for the MESH.MCAST of croft `c`, the last acceptance still missing. -/
  | multicastAcceptance (c : CroftRef)
  /-- WRITE_ACKNOWLEDGEMENT (R196): for the transfer of the move unit (`false`) or the mesh unit (`true`). -/
  | writeAcknowledgement (c : CroftRef) (mesh : Bool)
  /-- MESH_ACK_TIMEOUT (R257): of a croft, its move unit (`false`) or its mesh unit (`true`); a command has one wait. -/
  | meshAckTimeout (w : AckWaiter) (mesh : Bool)
  /-- SUBMISSION_DOORBELL (R308). -/
  | submissionDoorbell (q : Fin 16384) (v : Word32)
  /-- COMPLETION_DOORBELL (R308). -/
  | completionDoorbell (q : Fin 16384) (v : Word32)
  /-- QUEUE_ENABLE (R306): a write of CONFIG whose ENABLE bit is 1. -/
  | queueEnable (q : Fin 16384) (config : Word32)
  /-- QUEUE_DISABLE (R306): a write of CONFIG whose ENABLE bit is 0. -/
  | queueDisable (q : Fin 16384) (config : Word32)
  /-- REGISTER_WRITE (R303): a store of 1, 2, 4 or 8 bytes, by the logarithm of its size, to an address of the hub. -/
  | registerWrite (addr : Word64) (size : Fin 4) (value : Word64)
  /-- QUEUE_FETCH (R309). -/
  | queueFetch (q : Fin 16384)
  /-- LAUNCH (R221): the command in flight with this number. -/
  | launch (id : Nat)
  /-- COPY (R316). -/
  | copy (id : Nat)
  /-- MULTICAST (R316). -/
  | multicast (id : Nat)
  /-- COLLECTIVE (R286). -/
  | collective (id : Nat)
  /-- MODEL_LOAD (R153). -/
  | modelLoad (id : Nat)
  /-- FIELD_RUN (R316). -/
  | fieldRun (id : Nat)
  /-- FENCE (R316). -/
  | fence (id : Nat)
  /-- TIMESTAMP (R316). -/
  | timestamp (id : Nat)
  /-- LEDGER_CLOSE (R364): `canSign` is false when Watch cannot sign (R368). -/
  | ledgerClose (id : Nat) (canSign : Bool)
  /-- COMMAND_START (R318). -/
  | commandStart (id : Nat)
  /-- COMMAND_COMPLETION (R321). -/
  | commandCompletion (id : Nat)
  /-- CONTRIBUTION (R292): header, data and digest of R290 as received for the collective of job `j`. -/
  | contribution (j : Fin 64) (header : BitVec 256) (data : List Byte) (digest : BitVec 128)
  /-- REFUSE (R292): the refused contribution's receiver, step, chunk, segment and attempt. -/
  | refuse (j : Fin 64) (collId : Word32) (dst : Nat) (step : Nat) (chunk : Nat) (seg : Nat) (attempt : Fin 4)
  /-- COLL_TIMEOUT (R293). -/
  | collTimeout (j : Fin 64)
  /-- FOHAL_FLIT (R262): `lost` when a codeword was uncorrectable (R261). -/
  | fohalFlit (port : Fin 12) (arrival : FlitArrival) (lost : Bool)
  /-- NAK (R263): the expected SEQ it names. -/
  | nak (port : Fin 12) (seq : BitVec 16)
  /-- LANE_SPARED (R269). -/
  | laneSpared (port : Fin 12) (lane : Fin 9)
  /-- PORT_SIGNAL_DETECT (R265). -/
  | portSignalDetect (port : Fin 12)
  /-- PORT_PHASE_DONE (R265). -/
  | portPhaseDone (port : Fin 12) (r : PhaseResult)
  /-- PORT_STATE_TIMEOUT (R265). -/
  | portStateTimeout (port : Fin 12)
  /-- CAPABILITY_RECORD (R268). -/
  | capabilityRecord (port : Fin 12) (rec : BitVec 512)
  /-- RTT_REMEASURE (R266). -/
  | rttRemeasure (port : Fin 12) (rtt : Nat)
  /-- LEAVE (R296). -/
  | leave (port : Fin 12)
  /-- LINK_STATE_RECORD (R270). -/
  | linkStateRecord (r : LinkState)
  /-- ROUTES_UPDATED (R270). -/
  | routesUpdated
  /-- MESSAGE_RESTART (R279). -/
  | messageRestart (tag : Word32)
  /-- TIME_EXCHANGE (R281): the followed time less this device's time, in ns. -/
  | timeExchange (offset : Int) (found : TimeFound)
  /-- EMERGENCY_NOTICE (R449): from logical device `dev` of job `j`; `begins` or ends. -/
  | emergencyNotice (j : Fin 64) (dev : Nat) (begins : Bool)
  /-- READ (R337). -/
  | read (d : Door) (msg : List Byte)
  /-- WRITE (R338). -/
  | write (d : Door) (msg : List Byte)
  /-- INFO (R339). -/
  | info (d : Door) (msg : List Byte)
  /-- DTLS_HANDSHAKE (R333, R334): the SHA-384 of the client's end-entity certificate, and what the client offers. -/
  | dtlsHandshake (fingerprint : BitVec 384) (offer : DtlsOffer)
  /-- SESSION_IDLE_CLOSE (R333). -/
  | sessionIdleClose (k : Fin 16)
  /-- MAILBOX_GO (R345): a write of MB_CONTROL with GO = 1. -/
  | mailboxGo (value : Word32)
  /-- MAILBOX_DONE_CLEAR (R345): a write of MB_CONTROL with DONE = 1. -/
  | mailboxDoneClear (value : Word32)
  /-- SMBUS_READ (R346): the target address, the six bytes of the write block, and whether its PEC is right. -/
  | smbusRead (addr : BitVec 7) (index : BitVec 16) (sub : Byte) (span : SmbusSpan) (pecGood : Bool)
  /-- COMMIT (R348). -/
  | commit (d : Door) (msg : List Byte)
  /-- COMMIT_APPLIED (R348). -/
  | commitApplied (b : Block)
  /-- SHADOW_WRITE (R347). -/
  | shadowWrite (d : Door) (msg : List Byte)
  /-- ROLE_ENTRY_WRITE (R334). -/
  | roleEntryWrite (d : Door) (msg : List Byte)
  /-- POWER_LIMIT_WRITE (R445). -/
  | powerLimitWrite (d : Door) (msg : List Byte)
  /-- TRACE_ENABLE_WRITE (R435). -/
  | traceEnableWrite (d : Door) (msg : List Byte)
  /-- WELL_ENABLE_WRITE (R414). -/
  | wellEnableWrite (d : Door) (msg : List Byte)
  /-- TEST_REQUEST (R388). -/
  | testRequest (d : Door) (msg : List Byte)
  /-- TEST_START (R389). -/
  | testStart
  /-- TEST_DONE (R389). -/
  | testDone (r : TestOutcome)
  /-- TEST_WAIT_EXPIRY (R389). -/
  | testWaitExpiry
  /-- IMAGE_STAGE (R430). -/
  | imageStage (d : Door) (msg : List Byte)
  /-- ACTIVATE (R431). -/
  | activate (d : Door) (msg : List Byte)
  /-- ACTIVATION_SWITCH (R432): one core of the class switches; `signing` says that a ledger signature is in progress. -/
  | activationSwitch (signing : Bool)
  /-- ACTIVATION_TIMEOUT (R433). -/
  | activationTimeout
  /-- CONFIRM (R424), with how far the fuse bits blow. -/
  | confirm (d : Door) (msg : List Byte) (run : FuseRun)
  /-- REVOKE_KEY (R425): `run` as for CONFIRM. -/
  | revokeKey (d : Door) (msg : List Byte) (run : FuseRun)
  /-- POWER_REQUEST_STANDBY (R443). -/
  | powerRequestStandby (d : Door) (msg : List Byte)
  /-- POWER_REQUEST_READY (R443). -/
  | powerRequestReady (d : Door) (msg : List Byte)
  /-- POWER_DOWN (R443). -/
  | powerDown
  /-- GET_VERSION (R369): the SPDM request message written to SPDM_REQUEST. -/
  | getVersion (d : Door) (req : List Byte)
  /-- GET_CAPABILITIES (R369). -/
  | getCapabilities (d : Door) (req : List Byte)
  /-- NEGOTIATE_ALGORITHMS (R369). -/
  | negotiateAlgorithms (d : Door) (req : List Byte)
  /-- GET_DIGESTS (R369). -/
  | getDigests (d : Door) (req : List Byte)
  /-- GET_CERTIFICATE (R369). -/
  | getCertificate (d : Door) (req : List Byte)
  /-- CHALLENGE (R369). -/
  | challenge (d : Door) (req : List Byte)
  /-- GET_MEASUREMENTS (R370). -/
  | getMeasurements (d : Door) (req : List Byte)
  /-- UNSUPPORTED_REQUEST (R369). -/
  | unsupportedRequest (d : Door) (req : List Byte)
  /-- ETH_TAIL_WRITE (R324): transmit (`true`) or receive ring `ring` of `port`. -/
  | ethTailWrite (port : Fin 4) (tx : Bool) (ring : Fin 64) (v : Word32)
  /-- ETH_FRAME_RECEIVE (R323): the frame without its FCS, the receive hash and ring its distribution chose, the FCS as received, and its
timestamp. -/
  | ethFrameReceive (port : Fin 4) (ring : Fin 64) (hash : Word32) (frame : List Byte) (fcs : Word32) (tsValid : Bool) (tsFrac : BitVec 16)
  /-- ETH_FRAME_TRANSMIT_DONE (R324). -/
  | ethFrameTransmitDone (port : Fin 4) (ring : Fin 64) (tsFrac : BitVec 16)
  /-- PCIE_INBOUND (R326). -/
  | pcieInbound (r : PcieReq)
  /-- SEED_CSR_READ (R413). -/
  | seedCsrRead (hart : Fin 32)
  /-- WELL_BLOCK_TESTED (R401, R402): the raw bits of a cell that make a block, the first first. -/
  | wellBlockTested (cell : Fin 4) (raw : List Bool)
  /-- WELL_GENERATE (R403). -/
  | wellGenerate
  /-- WELL_TRIM_UPDATE (R400): the count of ones in the last 4,096 raw bits. -/
  | wellTrimUpdate (cell : Fin 4) (ones : Nat)
  /-- WELL_CELL_SETTLED (R405): the trim settled, or failed to within 10 ms. -/
  | wellCellSettled (cell : Fin 4) (settled : Bool)
  /-- WELL_CALIBRATION (R409): the count of ones in the 4,096 raw bits measured. -/
  | wellCalibration (cell : Fin 4) (ones : Nat)
  /-- WELL_DELIVERY (R410). -/
  | wellDelivery
  /-- EVENT_AGGREGATE_FLUSH (R395). -/
  | eventAggregateFlush
  /-- RESET_IN_N_ASSERT (R467). -/
  | resetInNAssert
  /-- RESET_IN_N_RELEASE (R427, R420). -/
  | resetInNRelease (release : ResetRelease)
  /-- DREMOS_LOAD (R429): the image bytes as fetched, or none when they cannot be. -/
  | dremosLoad (image : Option (List Byte))
  /-- VAUX_OUT_OF_RANGE (R439). -/
  | vauxOutOfRange
  /-- POWER_UP_SEQUENCE (R442). -/
  | powerUpSequence (m : MemTraining)
  /-- POWER_FAIL (R444): a power fault, or the loss of PWR_GOOD_IN. -/
  | powerFail (lostPwrGood : Bool)
  /-- SUPPLY_OUT_OF_RANGE (R449). -/
  | supplyOutOfRange
  /-- POWER_EVALUATION (R446): P and P1 in mW, and whether level 10 with P above the limit has lasted 1 ms. -/
  | powerEvaluation (p : Nat) (p1 : Nat) (overForMs : Bool)
  /-- TJ_SAMPLE (R448): the 112 junction sensors and the 12 stack sensors, in 0.1 °C. -/
  | tjSample (tj : List Int) (hbm : List Int)
  /-- EMERGENCY_CLEAR (R449): the power emergency (`false`) or the thermal one (`true`). -/
  | emergencyClear (thermal : Bool)
  /-- THERMTRIP (R450). -/
  | thermtrip (sensor : Fin 112)
  /-- PMBUS_POLL (R452): the responders' words; an address missing from the list did not answer. -/
  | pmbusPoll (recs : List PmbusRec)
  /-- PMBUS_SCAN (R353, R452): the addresses that answered, each with its VOUT_MODE and CAPABILITY. -/
  | pmbusScan (found : List PmbusFound)
  /-- PMB_ALERT_N (R461): the poll it causes. -/
  | pmbAlertN (recs : List PmbusRec)
  /-- RAIL_MEASUREMENT (R353): the two inputs in mV, and each rail in mV and mA. -/
  | railMeasurement (vin : Nat) (vaux : Nat) (rails : List (Nat × Nat))
  /-- REFCLK_LOSS (R453). -/
  | refclkLoss
  /-- CLOCK_LOST (R453). -/
  | clockLost
  /-- REFCLK_RETURN (R453). -/
  | refclkReturn
  /-- DROOP_STRETCH (R454): a droop begins, or 16 cc have passed since the rail recovered. -/
  | droopStretch (slot : Fin 80) (begins : Bool)
  /-- PPS_IN_EDGE (R455): the time of the edge in units of 0.5 ns of device time. -/
  | ppsInEdge (at2 : Nat)
  /-- PPS_OUT_SECOND (R455): PPS_OUT rises, or falls 100 µs later. -/
  | ppsOutSecond (rise : Bool)
  /-- VAUX_IN_RANGE (R441). -/
  | vauxInRange
  /-- ETH_LINK_CHANGE (R323): the new value of ETH_LINK. -/
  | ethLinkChange (port : Fin 4) (code : Fin 5)
  /-- MGMT_LINK_CHANGE (R333). -/
  | mgmtLinkChange (up : Bool)
  /-- PCIE_LINK_CHANGE (R325): rate in GT/s, width and FLIT mode; all zero when the link goes down. -/
  | pcieLinkChange (rate : Byte) (width : Byte) (flit : Bool)
  /-- PPS_IN_ABSENT (R455). -/
  | ppsInAbsent
  /-- TAP_TCK_EDGE (R436): a rising or falling edge of TCK with TMS, TDI and the boundary cell sampled. -/
  | tapTckEdge (rising : Bool) (tms : TapPins) (tdi : Bool)
  /-- TRST_N_ASSERT (R466). -/
  | trstNAssert
deriving DecidableEq, Repr

end Sys2Proof
end

