-- ==== Sys2Proof/Config.lean ====
section
/-!
DEFINITION. What one device fixes and the manual does not state, and the free values of the model.
Every constant here has no body, so nothing can be proved about a particular value of it.
-/

namespace Sys2Proof.Config

/-- Rinnawen's JEP106 bank and identity code, the MANUFACTURER field of IDCODE (15_boot_firmware_security.md R436):
'Fixed', with no value stated. -/
opaque jep106 : BitVec 11

/-- A weight of the ball in a row and a column (17_package_balls_electrical.md R461, R462): the manual states the groups of balls with
their names, numbers and quadrants, and not which ball carries which signal. The balls take the signals in the order of this weight. -/
opaque ballWeight : Nat → Nat → Nat

/-- The kinds and names that OD B002.01 TRACE_KINDS publishes (13_checking_replay_test.md R392, R397). -/
opaque traceKinds : Unit → List (BitVec 16 × List Byte)

/-- The identities and names of OD C002.01 EVENT_NAMES beyond those that the manual gives (R395, R397). -/
opaque moreEvents : Unit → List (BitVec 16 × List Byte)

/-- The 12 data bytes and the kind of a trace record (13_checking_replay_test.md R392): the manual publishes the
kinds in TRACE_KINDS and gives no meaning to any. The argument is twice the model's draw counter, and one more for the second record of a command. -/
opaque traceData : Nat → BitVec 112

/-- TARGET and the message bytes of a message between devices under its end-to-end sequence (09_fohal_scale_out.md R260, R277,
R279): 'message-specific', and the manual gives no layout. -/
opaque encodeMsg : Word32 → FabricMsg → Word64 × List Byte

/-- The message that TARGET and the message bytes received on a channel spell, with its end-to-end sequence. -/
opaque decodeMsg : Nat → Word64 → List Byte → Option (Word32 × FabricMsg)

/-- TARGET of a flit of halo records, and of a collective contribution (R260: 'message-specific'). -/
opaque haloTarget : Word64

/-- See `haloTarget`. -/
opaque collTarget : Word64

/-- Whether a MESH.PUT to another device meets a running program of its target when it starts (07_croft_instruction_set.md R222): by
the job's handle, the logical device and croft, the destination, the length and the elapsed time. This device does not hold the
other device's programs. -/
opaque remoteProgram : Word32 → Nat → Nat → Nat → Nat → Nat → Bool

/-- The delay, in 2^-6 ns, of the cable of a hop on the way from one fabric address to another (09_fohal_scale_out.md R280), for a
cable that this device does not measure. -/
opaque cableTicks : Nat → Nat → Nat → Nat

/-- Whether the port that a message between two fabric addresses leaves by (`false`) or arrives by (`true`) at a device other than
this one is on the south ring die (R280). -/
opaque southPort : Nat → Nat → Bool → Bool

/-- Whether the way between two fabric addresses crosses the mesh of its intermediate device of a number (R280). -/
opaque crossesMesh : Nat → Nat → Nat → Bool

/-- A byte of the Granary of a logical croft that no launch of its job has named (08_mesh_and_memory.md R246: it has none yet),
by the job's handle, the croft and the offset. -/
opaque freshByte : Word32 → Nat → Nat → Byte

/-- The severity of an event record whose severity the manual does not state (13_checking_replay_test.md R395). -/
opaque eventSeverity : Nat → Fin 4

/-- The reference ratio that the fuse AGE_REF of a slot records, in units of 2^-40 (15_boot_firmware_security.md R423):
the manual gives the field's width and no scale. -/
opaque ageRatio : BitVec 24 → Nat

/-- The device certificate chain of OD 9020.01 (11_object_dictionary.md R355), which the manufacturer stores: its leaf carries the public
key it is applied to, X then Y (15_boot_firmware_security.md R426). -/
opaque certChain : List Byte → List Byte

/-- The transcript of a DTLS handshake that the device's CertificateVerify signs (11_object_dictionary.md R333; RFC 9147): by the
client's fingerprint and the draw counter. It hangs on the bytes of the handshake, which the model does not hold. -/
opaque dtlsTranscript : BitVec 384 → Nat → List Byte

/-- The 64 KiB mask ROM of Watch, by offset (15_boot_firmware_security.md R416): the manual gives no contents. -/
opaque maskRom : Fin 65536 → Byte

/-- Where the body of the monitor goes in HBM3E (15_boot_firmware_security.md R427 step 8): the manual gives no address. -/
opaque monitorAt : Nat

/-- Whether the buffer of a REDUCE_SCATTER's result, or of an ALLGATHER's source, holds the device's own chunk alone
(true), or all E elements with the chunk in its place (09_fohal_scale_out.md R286; 10_queues_and_hub.md R315): the manual
does not say. The argument is KIND. -/
opaque collCompact : Nat → Bool

/-- Whether a higher trim of a Well cell gives more ones (14_entropy_well.md R400): the manual states no direction. -/
opaque trimUp : Bool

/-- The cells of the boundary-scan register (15_boot_firmware_security.md R436): the manual does not describe it. -/
opaque boundaryCells : Nat

/-- The ENUM code of a port's rate in OD 4803 PORT_LANES, full (true) or nominal (09_fohal_scale_out.md R298): the manual
names no codes. -/
opaque portRate : Bool → BitVec 16

/-- The flits of one transfer granted on a virtual channel at a node that lies on its route (08_mesh_and_memory.md R231, R232, R250): by
the draw counter, the node's identity and the channel. The manual does not say how a transfer is cut into requests and flits. -/
opaque grantedFlits : Nat → Nat → Nat → Nat

/-- Which register of the root port's block, by its offset, is the base (false) or the limit (true) of which inbound
window (10_queues_and_hub.md R326): the manual gives no layout of that block. -/
opaque pcieWindowAt : Nat → Option (Fin 8 × Bool)

/-- A register of an interrupt file (10_queues_and_hub.md R303; the IMSIC of the RISC-V AIA), of machine level or not: the one that
makes an identity pending, which takes it with its bytes reversed or not; delivery, threshold, the words of 32 pending and of 32
enabled identities, and the top identity, a write of which claims it. -/
inductive IrqReg where
  | post (machine reversed : Bool)
  | delivery (machine : Bool)
  | threshold (machine : Bool)
  | pending (machine : Bool) (word : Fin 64)
  | enabled (machine : Bool) (word : Fin 64)
  | top (machine : Bool)
deriving DecidableEq, Repr

/-- Which register stands at which offset of an interrupt file's page (R303, log 99): the manual gives one page for the two levels of a
core and no layout of it. -/
opaque irqRegister : Nat → Option IrqReg

/-- A byte of the dictionary store of a flash, by the values it holds (11_object_dictionary.md R332, 15_boot_firmware_security.md R418):
its layout is not stated. -/
opaque storeByte : Nat → List (List Byte) → Nat → Byte

/-- The key of the Toeplitz hash of received frames, its first bit the highest (10_queues_and_hub.md R323): not stated. -/
opaque hashKey : BitVec 320

/-- The receive ring that a hash chooses, modulo the rings of its port (R323): not stated. -/
opaque hashRing : Word32 → Nat

/-- The events the manual names without an identity (R391 to R395, and the chapters that log them). -/
inductive NamedEvent where
  | laneSpared | portHalfWidth | linkJoin | linkLeave | routesUpdated | topologyMismatch | bundleMismatch
  | fabricAddrConflict | digestMismatch | barrierLate | timeUnsynced | regulatorMissed | regulatorStatus
  | ethRingRange | pcieInboundBlocked | slotUnderTest | pcieCorrectable | pcieUncorrectable
deriving DecidableEq, Repr

/-- The identity of an event that the manual names without one; EVENT_NAMES publishes it. -/
opaque eventIdentity : NamedEvent → BitVec 12

/-- The name in EVENT_NAMES of an event that the manual describes without one. -/
opaque eventText : NamedEvent → List Byte

/-- A free 64-bit value, for a value the manual leaves unstated while the machine goes on. The argument is the
model's draw counter. -/
opaque freeValue : Nat → Word64

end Sys2Proof.Config
end

