-- ==== Sys2Proof/Machine/Bits.lean ====
section
/-!
DEFINITION. Bit fields, byte order, sign extension, saturation and cyclic redundancy checks (00_scope.md R6, R8).
-/

namespace Sys2Proof.Machine

/-- Bits [lo + w - 1 : lo] of `v` (R6). -/
def bitsOf (v lo w : Nat) : Nat := v / 2 ^ lo % 2 ^ w

/-- Bit `i` of `v` (R6). -/
def bitOf (v i : Nat) : Bool := v.testBit i

/-- The two's complement reading of the low `w` bits of `v`. -/
def signedOf (w v : Nat) : Int :=
  let u := v % 2 ^ w
  if 2 ^ w ≤ 2 * u then (u : Int) - 2 ^ w else u

/-- The low `w` bits of an integer, as an unsigned number. -/
def wrapInt (w : Nat) (i : Int) : Nat := (i % (2 ^ w : Int)).toNat

/-- The `n` low bytes of `v`, least significant first (R8). -/
def leBytes : Nat → Nat → List Byte
  | 0, _ => []
  | n + 1, v => BitVec.ofNat 8 v :: leBytes n (v / 256)

/-- The number whose bytes, least significant first, are `bs` (R8). -/
def leNat : List Byte → Nat
  | [] => 0
  | b :: t => b.toNat + 256 * leNat t

/-- The `n` low bytes of `v`, most significant first. -/
def beBytes (n v : Nat) : List Byte := (leBytes n v).reverse

/-- The number whose bytes, most significant first, are `bs`. -/
def beNat (bs : List Byte) : Nat := leNat bs.reverse

/-- The bytes of `bs` from `off` on, `n` of them, padded with zeros. -/
def slice (bs : List Byte) (off n : Nat) : List Byte :=
  (List.range n).map fun i => bs.getD (off + i) 0

/-- The little-endian number of `n` bytes at `off` (R8). -/
def leAt (bs : List Byte) (off n : Nat) : Nat := leNat (slice bs off n)

/-- `bs` with the bytes at `off` replaced by `v`; bytes beyond the end are dropped. -/
def spliceBytes (bs : List Byte) (off : Nat) (v : List Byte) : List Byte :=
  (List.range bs.length).map fun i => if off ≤ i ∧ i < off + v.length then v.getD (i - off) 0 else bs.getD i 0

/-- A list with element `i` mapped. -/
def modifyAt {α : Type} (l : List α) (i : Nat) (f : α → α) : List α :=
  match l, i with
  | [], _ => []
  | a :: t, 0 => f a :: t
  | a :: t, i + 1 => a :: modifyAt t i f

/-- A counter of `w` bits that saturates (13_checking_replay_test.md R391). -/
def satAdd (w a b : Nat) : Nat := min (a + b) (2 ^ w - 1)

/-- Rounding up a quotient. -/
def ceilDiv (a b : Nat) : Nat := (a + b - 1) / b

/-- The smallest multiple of `m` not below `a`. -/
def roundUp (a m : Nat) : Nat := ceilDiv a m * m

/-- The natural numbers `a ≤ i < a + n`. -/
def rangeFrom (a n : Nat) : List Nat := (List.range n).map (a + ·)

/-- The smallest of a list of fault codes, if any (07_croft_instruction_set.md R227). -/
def lowest : List Nat → Option Nat
  | [] => none
  | c :: t => match lowest t with
    | none => some c
    | some d => some (min c d)

/-- A fault code when its condition holds. -/
def when_ (c : Bool) (code : Nat) : List Nat := if c then [code] else []

/-- One step of a CRC-32 with the IEEE 802.3 polynomial, reflected. -/
def crc32Byte (crc : Nat) (b : Byte) : Nat :=
  (List.range 8).foldl (fun c _ => if c % 2 = 1 then (c / 2) ^^^ 0xEDB88320 else c / 2) (crc ^^^ b.toNat)

/-- CRC-32, IEEE 802.3 polynomial (06_lattice_field.md R179, 09_fohal_scale_out.md R260, 15_boot_firmware_security.md R419). -/
def crc32 (bs : List Byte) : Word32 := BitVec.ofNat 32 (bs.foldl crc32Byte 0xFFFFFFFF ^^^ 0xFFFFFFFF)

/-- One step of CRC-16/CCITT-FALSE. -/
def crc16Byte (crc : Nat) (b : Byte) : Nat :=
  (List.range 8).foldl (fun c _ => if c / 32768 % 2 = 1 then (c * 2 % 65536) ^^^ 0x1021 else c * 2 % 65536)
    (crc ^^^ (b.toNat * 256))

/-- CRC-16/CCITT-FALSE (13_checking_replay_test.md R393). -/
def crc16 (bs : List Byte) : BitVec 16 := BitVec.ofNat 16 (bs.foldl crc16Byte 0xFFFF)

/-- `bytesOf n v`: the bytes of a bit vector of 8 n bits, lowest first. -/
def bytesOf {w : Nat} (v : BitVec w) : List Byte := leBytes (w / 8) v.toNat

end Sys2Proof.Machine
end

