-- ==== Sys2Proof/Machine/Crypto.lean ====
section
/-!
DEFINITION. The published functions the manual names: SHA-384 (FIPS 180-4), HMAC-SHA-384 (FIPS 198-1), AES-256
(FIPS 197), GHASH (SP 800-38D), and ECDSA on P-384 (FIPS 186-5) with the nonce of RFC 6979
(12_determinism_and_ledger.md R364, R368; 09_fohal_scale_out.md R291; 14_entropy_well.md R403; 15_boot_firmware_security.md
R420, R426). The manual cites these standards; their text is PRESUMED from the standards (log 16).
-/

namespace Sys2Proof.Machine

/-- The constants K of SHA-512: 64 fraction bits of the cube roots of the first 80 primes. -/
def sha512K : List Word64 :=
  [0x428A2F98D728AE22, 0x7137449123EF65CD, 0xB5C0FBCFEC4D3B2F, 0xE9B5DBA58189DBBC,
   0x3956C25BF348B538, 0x59F111F1B605D019, 0x923F82A4AF194F9B, 0xAB1C5ED5DA6D8118,
   0xD807AA98A3030242, 0x12835B0145706FBE, 0x243185BE4EE4B28C, 0x550C7DC3D5FFB4E2,
   0x72BE5D74F27B896F, 0x80DEB1FE3B1696B1, 0x9BDC06A725C71235, 0xC19BF174CF692694]
    ++ [0xE49B69C19EF14AD2, 0xEFBE4786384F25E3, 0x0FC19DC68B8CD5B5, 0x240CA1CC77AC9C65,
      0x2DE92C6F592B0275, 0x4A7484AA6EA6E483, 0x5CB0A9DCBD41FBD4, 0x76F988DA831153B5,
      0x983E5152EE66DFAB, 0xA831C66D2DB43210, 0xB00327C898FB213F, 0xBF597FC7BEEF0EE4,
      0xC6E00BF33DA88FC2, 0xD5A79147930AA725, 0x06CA6351E003826F, 0x142929670A0E6E70]
    ++ [0x27B70A8546D22FFC, 0x2E1B21385C26C926, 0x4D2C6DFC5AC42AED, 0x53380D139D95B3DF,
      0x650A73548BAF63DE, 0x766A0ABB3C77B2A8, 0x81C2C92E47EDAEE6, 0x92722C851482353B,
      0xA2BFE8A14CF10364, 0xA81A664BBC423001, 0xC24B8B70D0F89791, 0xC76C51A30654BE30,
      0xD192E819D6EF5218, 0xD69906245565A910, 0xF40E35855771202A, 0x106AA07032BBD1B8]
    ++ [0x19A4C116B8D2D0C8, 0x1E376C085141AB53, 0x2748774CDF8EEB99, 0x34B0BCB5E19B48A8,
      0x391C0CB3C5C95A63, 0x4ED8AA4AE3418ACB, 0x5B9CCA4F7763E373, 0x682E6FF3D6B2B8A3,
      0x748F82EE5DEFB2FC, 0x78A5636F43172F60, 0x84C87814A1F0AB72, 0x8CC702081A6439EC,
      0x90BEFFFA23631E28, 0xA4506CEBDE82BDE9, 0xBEF9A3F7B2C67915, 0xC67178F2E372532B]
    ++ [0xCA273ECEEA26619C, 0xD186B8C721C0C207, 0xEADA7DD6CDE0EB1E, 0xF57D4F7FEE6ED178,
      0x06F067AA72176FBA, 0x0A637DC5A2C898A6, 0x113F9804BEF90DAE, 0x1B710B35131C471B,
      0x28DB77F523047D84, 0x32CAAB7B40C72493, 0x3C9EBE0A15C9BEBC, 0x431D67C49C100D4C,
      0x4CC5D4BECB3E42B6, 0x597F299CFC657E2A, 0x5FCB6FAB3AD6FAEC, 0x6C44198C4A475817]

/-- The initial value of SHA-384: 64 fraction bits of the square roots of the ninth to sixteenth primes. -/
def sha384Iv : List Word64 :=
  [0xCBBB9D5DC1059ED8, 0x629A292A367CD507, 0x9159015A3070DD17, 0x152FECD8F70E5939,
   0x67332667FFC00B31, 0x8EB44A8768581511, 0xDB0C2E0D64F98FA7, 0x47B5481DBEFA4FA4]

/-- Rotation to the right. -/
def rotr (x : Word64) (n : Nat) : Word64 := x.rotateRight n

/-- The next word of a message schedule whose words stand newest first. -/
def shaNext (w : List Word64) : Word64 :=
  let a := w.getD 14 0
  let b := w.getD 1 0
  w.getD 15 0 + (rotr a 1 ^^^ rotr a 8 ^^^ (a >>> 7)) + w.getD 6 0 + (rotr b 19 ^^^ rotr b 61 ^^^ (b >>> 6))

/-- The message schedule of a block. -/
def shaSchedule (block : List Byte) : List Word64 :=
  let w0 := (List.range 16).map fun i => BitVec.ofNat 64 (beNat (slice block (8 * i) 8))
  ((List.range 64).foldl (fun w _ => shaNext w :: w) w0.reverse).reverse

/-- The eight working variables of SHA-512. -/
structure ShaVars where
  a : Word64
  b : Word64
  c : Word64
  d : Word64
  e : Word64
  f : Word64
  g : Word64
  h : Word64
deriving DecidableEq, Repr

/-- One round of SHA-512. -/
def shaRound (v : ShaVars) (k w : Word64) : ShaVars :=
  let s1 := rotr v.e 14 ^^^ rotr v.e 18 ^^^ rotr v.e 41
  let ch := (v.e &&& v.f) ^^^ (~~~v.e &&& v.g)
  let t1 := v.h + s1 + ch + k + w
  let s0 := rotr v.a 28 ^^^ rotr v.a 34 ^^^ rotr v.a 39
  let maj := (v.a &&& v.b) ^^^ (v.a &&& v.c) ^^^ (v.b &&& v.c)
  { a := t1 + s0 + maj, b := v.a, c := v.b, d := v.c, e := v.d + t1, f := v.e, g := v.f, h := v.g }

/-- One block of SHA-512. -/
def shaBlock (s : ShaVars) (block : List Byte) : ShaVars :=
  let r := (sha512K.zip (shaSchedule block)).foldl (fun v p => shaRound v p.1 p.2) s
  { a := s.a + r.a, b := s.b + r.b, c := s.c + r.c, d := s.d + r.d
    e := s.e + r.e, f := s.f + r.f, g := s.g + r.g, h := s.h + r.h }

/-- The padded message. -/
def shaPad (msg : List Byte) : List Byte :=
  let l := msg.length
  let z := (128 - (l + 17) % 128) % 128
  msg ++ [0x80#8] ++ List.replicate z 0 ++ beBytes 16 (8 * l)

/-- Blocks of 128 bytes; the fuel is their number. -/
def blocksOf (n : Nat) : Nat → List Byte → List (List Byte)
  | 0, _ => []
  | fuel + 1, l => l.take n :: blocksOf n fuel (l.drop n)

/-- SHA-384 (FIPS 180-4): 48 bytes. -/
def sha384 (msg : List Byte) : List Byte :=
  let p := shaPad msg
  let iv := sha384Iv
  let v0 : ShaVars := ⟨iv.getD 0 0, iv.getD 1 0, iv.getD 2 0, iv.getD 3 0, iv.getD 4 0, iv.getD 5 0, iv.getD 6 0, iv.getD 7 0⟩
  let r := (blocksOf 128 (p.length / 128) p).foldl shaBlock v0
  [r.a, r.b, r.c, r.d, r.e, r.f].flatMap fun x => beBytes 8 x.toNat

/-- Bytes XOR a constant. -/
def xorByte (bs : List Byte) (k : Byte) : List Byte := bs.map fun b => b ^^^ k

/-- HMAC-SHA-384 (FIPS 198-1). -/
def hmac384 (key msg : List Byte) : List Byte :=
  let k0 := if 128 < key.length then sha384 key else key
  let k := k0 ++ List.replicate (128 - k0.length) 0
  sha384 (xorByte k 0x5C ++ sha384 (xorByte k 0x36 ++ msg))

/-- Multiplication by x in GF(2^8) of AES. -/
def gmul2 (a : Nat) : Nat := if 128 ≤ a then (2 * a % 256) ^^^ 0x1B else 2 * a

/-- Multiplication in GF(2^8) of AES. -/
def gmul (a b : Nat) : Nat :=
  ((List.range 8).foldl (fun (s : Nat × Nat) i => ((if b.testBit i then s.1 ^^^ s.2 else s.1), gmul2 s.2)) (0, a)).1

/-- The inverse a^254 in GF(2^8), 0 for 0. -/
def ginv (a : Nat) : Nat :=
  let a2 := gmul a a
  let a4 := gmul a2 a2
  let a8 := gmul a4 a4
  let a16 := gmul a8 a8
  let a32 := gmul a16 a16
  let a64 := gmul a32 a32
  let a128 := gmul a64 a64
  gmul a128 (gmul a64 (gmul a32 (gmul a16 (gmul a8 (gmul a4 a2)))))

/-- The AES S-box. -/
def aesSbox : Array Nat :=
  ((List.range 256).map fun a =>
    let b := ginv a
    let r := fun (n : Nat) => (b * 2 ^ n % 256) + b / 2 ^ (8 - n)
    b ^^^ r 1 ^^^ r 2 ^^^ r 3 ^^^ r 4 ^^^ 0x63).toArray

/-- A byte through the S-box. -/
def subByte (a : Nat) : Nat := aesSbox.getD a 0

/-- The AES-256 round keys: 60 words of four bytes. -/
def aesExpand (key : List Byte) : Array (List Nat) :=
  let w0 := ((List.range 8).map fun i => (slice key (4 * i) 4).map (·.toNat)).toArray
  ((List.range 52).foldl (fun (s : Array (List Nat) × Nat) n =>
    let i := 8 + n
    let t := s.1.getD (i - 1) []
    let sub := t.map subByte
    let t' := if i % 8 = 0 then
        let rot := sub.drop 1 ++ sub.take 1
        (rot.zipIdx).map fun p => if p.2 = 0 then p.1 ^^^ s.2 else p.1
      else if i % 8 = 4 then sub else t
    (s.1.push (List.zipWith (fun a b => a ^^^ b) (s.1.getD (i - 8) []) t'), if i % 8 = 0 then gmul2 s.2 else s.2))
    (w0, 1)).1

/-- The state with a round key added. -/
def addRoundKey (st : List Nat) (w : Array (List Nat)) (r : Nat) : List Nat :=
  List.zipWith (fun a b => a ^^^ b) st ((List.range 4).flatMap fun c => w.getD (4 * r + c) [])

/-- ShiftRows on a column-major state. -/
def shiftRows (st : List Nat) : List Nat :=
  (List.range 16).map fun i => st.getD ((i + 4 * (i % 4)) % 16) 0

/-- MixColumns on a column-major state. -/
def mixColumns (st : List Nat) : List Nat :=
  (List.range 16).map fun i =>
    let c := i / 4 * 4
    let g := fun (k : Nat) => st.getD (c + (i + k) % 4) 0
    gmul2 (g 0) ^^^ gmul2 (g 1) ^^^ g 1 ^^^ g 2 ^^^ g 3

/-- AES-256 encryption of one 16-byte block (FIPS 197). -/
def aes256 (key block : List Byte) : List Byte :=
  let w := aesExpand key
  let s0 := addRoundKey (block.map (·.toNat)) w 0
  let s := (List.range 13).foldl (fun s r => addRoundKey (mixColumns (shiftRows (s.map subByte))) w (r + 1)) s0
  (addRoundKey (shiftRows (s.map subByte)) w 14).map fun v => BitVec.ofNat 8 v

/-- Multiplication in GF(2^128) of GHASH, blocks as big-endian numbers. -/
def ghashMul (x y : Nat) : Nat :=
  ((List.range 128).foldl (fun (s : Nat × Nat) i =>
    ((if x.testBit (127 - i) then s.1 ^^^ s.2 else s.1),
      if s.2 % 2 = 1 then (s.2 / 2) ^^^ (0xE1 * 2 ^ 120) else s.2 / 2)) (0, y)).1

/-- GHASH over 16-byte blocks; the last is padded with zeros (SP 800-38D). -/
def ghash (h : Nat) (bs : List Byte) : Nat :=
  (blocksOf 16 (ceilDiv bs.length 16) bs).foldl (fun y b => ghashMul (y ^^^ beNat (slice b 0 16)) h) 0

/-- The AES-256-GCM tag over additional data alone, with a 12-byte nonce (GMAC of SP 800-38D). -/
def gmac256 (key nonce aad : List Byte) : List Byte :=
  let h := beNat (aes256 key (List.replicate 16 0))
  let padded := aad ++ List.replicate ((16 - aad.length % 16) % 16) 0
  let s := ghash h (padded ++ beBytes 8 (8 * aad.length) ++ beBytes 8 0)
  beBytes 16 (s ^^^ beNat (aes256 key (nonce ++ [0, 0, 0, 1])))

/-- a^n mod m, over `fuel` bits of n. -/
def powMod (m : Nat) : Nat → Nat → Nat → Nat
  | 0, _, _ => 1
  | fuel + 1, a, n =>
    let r := powMod m fuel (a * a % m) (n / 2)
    if n % 2 = 1 then r * a % m else r

/-- The inverse modulo a prime of at most 384 bits. -/
def invMod (m a : Nat) : Nat := powMod m 384 a (m - 2)

/-- The P-384 field prime. -/
def p384P : Nat := 2 ^ 384 - 2 ^ 128 - 2 ^ 96 + 2 ^ 32 - 1
/-- The order of the P-384 base point. -/
def p384N : Nat :=
  0xFFFFFFFFFFFFFFFFFFFFFFFFFFFFFFFFFFFFFFFFFFFFFFFFC7634D81F4372DDF581A0DB248B0A77AECEC196ACCC52973
/-- The P-384 base point. -/
def p384G : Nat × Nat :=
  (0xAA87CA22BE8B05378EB1C71EF320AD746E1D3B628BA79B9859F741E082542A385502F25DBF55296C3A545E3872760AB7,
   0x3617DE4A96262C6F5D9E98BF9292DC29F8F41DBD289A147CE9DA3113B5F0B8C00A60B1CE1D7E819D7A431D7C90EA0E5F)

/-- A point; none is the point at infinity. -/
abbrev EcPoint := Option (Nat × Nat)

/-- Subtraction modulo p. -/
def subMod (m a b : Nat) : Nat := (a + m - b % m) % m

/-- Point addition on P-384. -/
def ecAdd (p q : EcPoint) : EcPoint :=
  match p, q with
  | none, q => q
  | p, none => p
  | some (x1, y1), some (x2, y2) =>
    let m := p384P
    if x1 = x2 ∧ (y1 + y2) % m = 0 then none
    else
      let l := if x1 = x2 then (3 * x1 * x1 + (m - 3)) % m * invMod m (2 * y1 % m) % m
        else subMod m y2 y1 * invMod m (subMod m x2 x1) % m
      let x3 := subMod m (l * l) (x1 + x2)
      some (x3, subMod m (l * subMod m x1 x3) y1)

/-- A point in Jacobian coordinates: X, Y, Z stand for the affine X / Z^2, Y / Z^3; Z = 0 is the point at infinity. -/
structure JacPoint where
  x : Nat
  y : Nat
  z : Nat
deriving DecidableEq, Repr

/-- The point at infinity. -/
def JacPoint.zero : JacPoint := ⟨1, 1, 0⟩

/-- Doubling on P-384, whose coefficient a is -3. -/
def JacPoint.double (p : JacPoint) : JacPoint :=
  let m := p384P
  let zz := p.z * p.z % m
  let yy := p.y * p.y % m
  let b := p.x * yy % m
  let a := 3 * subMod m p.x zz * (p.x + zz) % m
  let x3 := subMod m (a * a) (8 * b)
  ⟨x3, subMod m (a * subMod m (4 * b) x3) (8 * yy * yy), 2 * p.y * p.z % m⟩

/-- The sum with an affine point. -/
def JacPoint.plus (p : JacPoint) (q : Nat × Nat) : JacPoint :=
  let m := p384P
  if p.z = 0 then ⟨q.1, q.2, 1⟩
  else
    let zz := p.z * p.z % m
    let h := subMod m (q.1 * zz) p.x
    let r := subMod m (q.2 * (p.z * zz % m)) p.y
    if h = 0 then (if r = 0 then p.double else JacPoint.zero)
    else
      let hh := h * h % m
      let v := p.x * hh % m
      let hhh := h * hh % m
      let x3 := subMod m (r * r) (hhh + 2 * v)
      ⟨x3, subMod m (r * subMod m v x3) (p.y * hhh), p.z * h % m⟩

/-- The affine point. -/
def JacPoint.affine (p : JacPoint) : EcPoint :=
  if p.z = 0 then none
  else
    let i := invMod p384P p.z
    let ii := i * i % p384P
    some (p.x * ii % p384P, p.y * (i * ii % p384P) % p384P)

/-- Scalar multiplication over `fuel` bits of k, the highest first. -/
def jacMul : Nat → Nat → Nat × Nat → JacPoint
  | 0, _, _ => JacPoint.zero
  | fuel + 1, k, q =>
    if k = 0 then JacPoint.zero
    else
      let r := (jacMul fuel (k / 2) q).double
      if k % 2 = 1 then r.plus q else r

/-- Scalar multiplication over `fuel` bits of k. -/
def ecMul (fuel k : Nat) (p : EcPoint) : EcPoint := p.bind fun q => (jacMul fuel k q).affine

/-- The public key of a private key, x then y, 48 bytes each, big-endian. -/
def ecPublic (d : Nat) : List Byte :=
  match ecMul 384 d (some p384G) with
  | some (x, y) => beBytes 48 x ++ beBytes 48 y
  | none => List.replicate 96 0

/-- The nonce of RFC 6979 for P-384 with SHA-384: the first candidate in 1 .. n - 1 within `fuel` attempts. -/
def rfc6979 : Nat → List Byte → List Byte → Nat
  | 0, _, _ => 1
  | fuel + 1, k, v =>
    let v := hmac384 k v
    let c := beNat v
    if 1 ≤ c ∧ c < p384N then c
    else
      let k := hmac384 k (v ++ [0])
      rfc6979 fuel k (hmac384 k v)

/-- The nonce for a private key and a digest (RFC 6979 section 3.2). -/
def ecNonce (d : Nat) (h1 : List Byte) : Nat :=
  let seed := beBytes 48 d ++ beBytes 48 (beNat h1 % p384N)
  let v := List.replicate 48 1#8
  let k := List.replicate 48 0#8
  let k := hmac384 k (v ++ [0] ++ seed)
  let v := hmac384 k v
  let k := hmac384 k (v ++ [1] ++ seed)
  let v := hmac384 k v
  rfc6979 8 k v

/-- ECDSA P-384 with SHA-384: r then s, 48 bytes each, big-endian (R368). -/
def ecSign (d : Nat) (msg : List Byte) : List Byte :=
  let h := sha384 msg
  let k := ecNonce d h
  match ecMul 384 k (some p384G) with
  | none => List.replicate 96 0
  | some (x, _) =>
    let r := x % p384N
    let s := invMod p384N k * (beNat h + r * d) % p384N
    beBytes 48 r ++ beBytes 48 s

/-- ECDSA P-384 verification of a 96-byte signature under a 96-byte public key (R420). -/
def ecVerify (pub sig msg : List Byte) : Bool :=
  let x := beNat (slice pub 0 48)
  let y := beNat (slice pub 48 48)
  let r := beNat (slice sig 0 48)
  let s := beNat (slice sig 48 48)
  let m := p384P
  let b := 0xB3312FA7E23EE7E4988E056BE3F82D19181D9C6EFE8141120314088F5013875AC656398D8A2ED19D2A85C8EDD3EC2AEF
  let onCurve := decide (x < m) && decide (y < m) && (y * y % m == (x * x * x + (m - 3) * x + b) % m)
  if !onCurve || r = 0 || s = 0 || p384N ≤ r || p384N ≤ s then false
  else
    let w := invMod p384N s
    let u1 := beNat (sha384 msg) * w % p384N
    let u2 := r * w % p384N
    match ecAdd (ecMul 384 u1 (some p384G)) (ecMul 384 u2 (some (x, y))) with
    | none => false
    | some (vx, _) => vx % p384N == r

end Sys2Proof.Machine
end

