-- ==== Sys2Proof/Machine/Lanes.lean ====
section
/-!
DEFINITION. Lane generators (04_lane_generators.md): transition and output (R102), seed expansion (R105), the
characteristic polynomial and jumps over GF(2) ("Skip-ahead"), and the state of a lane at an output count (R107, R115).
A polynomial over GF(2) is a natural number whose bit i is the coefficient of x^i.
-/

namespace Sys2Proof.Machine

/-- A generator's state (s0, s1) (R102). -/
abbrev Gen := Word64 × Word64

/-- step() of R102: family A is `false`, family B is `true`. -/
def genStep (fam : Bool) (g : Gen) : Gen :=
  let a := if fam then 55 else 24
  let b := if fam then 14 else 16
  let c := if fam then 36 else 37
  let t := g.1 ^^^ g.2
  (g.1.rotateLeft a ^^^ t ^^^ (t <<< b), t.rotateLeft c)

/-- scr() of R102: the output of a state. -/
def genOut (g : Gen) : Word64 := (g.1 + g.2).rotateLeft 17 + g.1

/-- `n` transitions. -/
def genSteps (fam : Bool) : Nat → Gen → Gen
  | 0, g => g
  | n + 1, g => genSteps fam n (genStep fam g)

/-- mix64 of R105. -/
def mix64 (z : Word64) : Word64 :=
  let z := (z ^^^ (z >>> 31)) * 0x8F3A61D5C2B74E19#64
  let z := (z ^^^ (z >>> 29)) * 0xD14C9A2736E8B5F3#64
  z ^^^ (z >>> 32)

/-- expand(SEED, FAMILY) of R105. -/
def expand (seed : Word64) (fam : Bool) : Gen :=
  let w := 0x5DE3A97C184B62F1#64
  let z := seed + w * (if fam then 3 else 2)
  (mix64 z, mix64 (z + w))

/-- A polynomial over GF(2). -/
abbrev Poly := Nat

/-- Bit 0 of s0 before each of `n` steps ("Skip-ahead" step 1), the first step's bit first. -/
def genBits (fam : Bool) : Nat → Gen → List Bool
  | 0, _ => []
  | n + 1, g => g.1.getLsbD 0 :: genBits fam n (genStep fam g)

/-- The state of the Berlekamp-Massey loop of "Skip-ahead". -/
structure BmState where
  c : Poly
  b : Poly
  l : Nat
  m : Nat
  /-- The bits seen so far, the newest in bit 0. -/
  seen : Nat
deriving DecidableEq, Repr

/-- The parity of the set bits of a number below 2^n. -/
def parity (n v : Nat) : Bool := (List.range n).foldl (fun a i => a != v.testBit i) false

/-- One iteration of bm() of "Skip-ahead" at index `i` with bit `d`. With the bits stored newest first, bit k of
`seen` after the push is s[i - k]. -/
def bmStep (st : BmState) (i : Nat) (bit : Bool) : BmState :=
  let seen := 2 * st.seen + bit.toNat
  let d := parity (st.l + 1) (st.c &&& seen)
  if !d then { st with m := st.m + 1, seen := seen }
  else if 2 * st.l ≤ i then
    { c := st.c ^^^ (st.b * 2 ^ st.m), b := st.c, l := i + 1 - st.l, m := 1, seen := seen }
  else { st with c := st.c ^^^ (st.b * 2 ^ st.m), m := st.m + 1, seen := seen }

/-- bm() of "Skip-ahead". -/
def bm (bits : List Bool) : Poly :=
  (bits.zipIdx.foldl (fun st p => bmStep st p.2 p.1) ⟨1, 1, 0, 1, 0⟩).c

/-- The characteristic polynomial p(x) of a family: the reciprocal of the connection polynomial. -/
def charPoly (fam : Bool) : Poly :=
  let c := bm (genBits fam 256 (1, 0))
  (List.range 129).foldl (fun a i => if c.testBit (128 - i) then a + 2 ^ i else a) 0

/-- a * x mod p, for a of degree below 128. -/
def polyShift (p a : Poly) : Poly := if (2 * a).testBit 128 then (2 * a) ^^^ p else 2 * a

/-- a * b mod p: carry-less multiplication followed by reduction. -/
def mulmod (p a b : Poly) : Poly :=
  ((List.range 128).foldl (fun (s : Poly × Poly) i =>
    ((if b.testBit i then s.1 ^^^ s.2 else s.1), polyShift p s.2)) (0, a)).1

/-- J_k = x^(2^k) mod p (R115). -/
def jumpPoly (p : Poly) : Nat → Poly
  | 0 => 2
  | k + 1 => mulmod p (jumpPoly p k) (jumpPoly p k)

/-- J_0 .. J_(n-1) in order. -/
def jumpPolys (p : Poly) (n : Nat) : List Poly :=
  ((List.range n).foldl (fun (s : List Poly × Poly) _ => (s.2 :: s.1, mulmod p s.2 s.2)) ([], 2)).1.reverse

/-- jump() of "Skip-ahead": the sum of the stepped copies whose coefficients are 1. -/
def jump (fam : Bool) (j : Poly) (g : Gen) : Gen :=
  ((List.range 128).foldl (fun (s : Gen × Gen) i =>
    ((if j.testBit i then (s.1.1 ^^^ s.2.1, s.1.2 ^^^ s.2.2) else s.1), genStep fam s.2)) ((0, 0), g)).1

/-- A generator at exponent `e` (R107), by the jumps of R115. -/
def genAt (fam : Bool) (js : List Poly) (s : Gen) (e : Nat) : Gen :=
  js.zipIdx.foldl (fun g p => if e.testBit p.2 then jump fam p.1 g else g) s

/-- The generators of a set of `size` members at a seed, family, first lane and output count (R115). -/
def positionGens (seed : Word64) (fam : Bool) (first count size : Nat) : List Gen :=
  let s := expand seed fam
  let js := jumpPolys (charPoly fam) 98
  (List.range size).map fun i => genAt fam js s ((first + i) * 2 ^ 64 + count)

/-- The number of generators of a lane set: sampler rows 0..3 hold 64, the Field holds 1,024 (R101). -/
def setSize (set : Nat) : Nat := if set < 4 then 64 else 1024

/-- The logical number of a set's first lane for logical device `d` and logical croft `c` (R106). -/
def firstLane (d c set : Nat) : Nat :=
  (d * 256 + c) * 2048 + (if set < 4 then set * 64 else 1024)

/-- The start-up trace of R123 step 4 holds for both families. -/
def checkTrace : List Nat × List Nat :=
  let outs := fun (fam : Bool) (n : Nat) => (List.range n).map fun i => (genOut (genSteps fam i (1, 0))).toNat
  (outs false 3, outs true 2)

end Sys2Proof.Machine
end

