-- ==== Sys2Proof/Machine/Memory.lean ====
section
/-!
DEFINITION. Byte memories as sparse lists of cells in one canonical form: addresses strictly rising, and no cell that
holds what an unlisted address reads as. A Granary is cleared to zero before its first use (07_croft_instruction_set.md
R221), so there an unlisted byte reads 0 by the manual; for device memory the manual states no contents after
power-up and the model takes 0 (DESIGN CHOICE, log 2).
-/

namespace Sys2Proof.Machine

/-- A byte memory. -/
abbrev Cells := List Host.Cell

/-- What an address that no cell lists reads as (log 2). -/
def unlisted : Byte := 0

/-- The byte at `a`. -/
def readByte : Cells → Nat → Byte
  | [], _ => unlisted
  | (k, v) :: t, a => if a = k then v else readByte t a

/-- The memory with the byte at `a` replaced. -/
def writeByte : Cells → Nat → Byte → Cells
  | [], a, b => if b = unlisted then [] else [(a, b)]
  | (k, v) :: t, a, b =>
    if a < k then (if b = unlisted then (k, v) :: t else (a, b) :: (k, v) :: t)
    else if a = k then (if b = unlisted then t else (a, b) :: t)
    else (k, v) :: writeByte t a b

/-- `n` bytes from `a` up. -/
def readBytes (m : Cells) (a n : Nat) : List Byte := (List.range n).map fun i => readByte m (a + i)

/-- The memory with the bytes from `a` up replaced. -/
def writeBytes : Cells → Nat → List Byte → Cells
  | m, _, [] => m
  | m, a, b :: t => writeBytes (writeByte m a b) (a + 1) t

/-- The memory with `n` bytes from `a` up zeroed. -/
def clearBytes (m : Cells) (a n : Nat) : Cells := m.filter fun c => c.1 < a || a + n ≤ c.1

/-- The little-endian number of `n` bytes at `a` (00_scope.md R8). -/
def readLe (m : Cells) (a n : Nat) : Nat := leNat (readBytes m a n)

/-- Writes an `n`-byte little-endian number at `a` (00_scope.md R8). -/
def writeLe (m : Cells) (a n v : Nat) : Cells := writeBytes m a (leBytes n v)

/-- The canonical form: addresses strictly rising, no cell at its unlisted value. -/
def Cells.wf (m : Cells) : Bool :=
  match m with
  | [] => true
  | (k, v) :: t => v != unlisted && t.all (fun c => k < c.1) && Cells.wf t

end Sys2Proof.Machine
end

