-- ==== Sys2Proof/Machine/CroftState.lean ====
section
/-!
DEFINITION. The state of a logical croft and of its units (01_croft_anatomy.md R12 to R32; 02_mill_arithmetic.md R72;
04_lane_generators.md R101, R117; 06_lattice_field.md; 07_croft_instruction_set.md R197, R206, R214).
-/

namespace Sys2Proof.Machine

/-- GEN_BLOCK of a chain context (R117, R118). -/
structure GenBlock where
  bound     : Bool
  family    : Bool
  set       : BitVec 2
  row       : BitVec 2
  seed      : Word64
  count     : Word64
  firstLane : BitVec 34
deriving DecidableEq, Repr

/-- A chain context (R28, R29, R30). -/
structure Ctx where
  valid       : Bool
  comp        : Bool
  kind        : BitVec 2
  tiles       : BitVec 24
  chain       : BitVec 16
  rowMax      : Word32
  expHi       : Word32
  expLo       : Word32
  redMax      : Word32
  redMaxIdx   : BitVec 24
  redMin      : Word32
  redMinIdx   : BitVec 24
  drawBest    : Word32
  drawBestIdx : BitVec 24
  lastClass   : Byte
  cls         : Byte
  drawCount   : Word64
  sweeps      : Word64
  gen         : GenBlock
deriving DecidableEq, Repr

/-- An address register (R197). -/
structure AddrReg where
  base   : BitVec 26
  stride : BitVec 26
deriving DecidableEq, Repr

/-- A lane set (R101): its position and the states of its generators. `ready` is false while the set is being
positioned (R115) or its free states are not delivered (R110). -/
structure LaneSet where
  seed   : Word64
  family : Bool
  first  : BitVec 34
  count  : Nat
  gens   : List Gen
  ready  : Bool
deriving DecidableEq, Repr

/-- The sticky flags of a tile (R75). -/
structure TileFlags where
  ovf       : Bool
  invalid   : Bool
  boundVoid : Bool
  cancel    : Bool
deriving DecidableEq, Repr

/-- One accumulator bank entry (R58, R68) with what R71 tracks of it: E_max, and whether its values stayed finite. An
integer entry is the 48-bit value sign-extended; a plain entry is FP32 in [31:0]; a compensated entry has the high
part in [31:0] and the low part in [63:32]. -/
structure Entry where
  raw    : Word64
  eMax   : Option Int
  finite : Bool
deriving DecidableEq, Repr

/-- An open tile (R72, R73) with its mode, group and pass counters (R65) and flags. -/
structure Tile where
  num     : Nat
  m       : Nat
  isInt   : Bool
  comp    : Bool
  g       : Nat
  entries : List Entry
  groups  : Nat
  passes  : Nat
  flags   : TileFlags
deriving DecidableEq, Repr

/-- An instruction in a unit queue (R21, R198): its place in the order of issue, its program index, its word, the
address registers it names as they stood at issue (IA, WA, ISA, WSA), and for a sampler instruction with SRC = DRAIN
the matched DRAIN.RED (R126). -/
structure Issued where
  seq     : Nat
  index   : Nat
  word    : InstrWord
  regs    : List AddrReg
  matched : Option Nat
deriving DecidableEq, Repr

/-- An instruction running on a unit: its descriptor as read at the start (R78, R127), the mesh or move data having
landed, and for a handed-over tile the rows. -/
structure Running where
  ins    : Issued
  desc   : List Byte
  landed : Bool
deriving DecidableEq, Repr

/-- Rows a drain handed over to its sampler row (R96, R126): the DRAIN.RED they come from and the IDX_BASE. -/
structure HandRows where
  seq     : Nat
  idxBase : Nat
  rows    : List (List Word32)
deriving DecidableEq, Repr

/-- The hand-over side of one drain (R126): the unmatched DRAIN.RED with its M, and the buffered rows. -/
structure HandOver where
  unmatched : Option (Nat × Nat)
  buffer    : List HandRows
deriving DecidableEq, Repr

/-- A remote signal pending in the step (R210). -/
structure PendSig where
  dev   : Nat
  croft : Fin 256
  sem   : Fin 32
  count : BitVec 16
deriving DecidableEq, Repr

/-- The flag counts that enter the job ledger (R365). -/
structure Tally where
  ovf       : Nat
  invalid   : Nat
  boundVoid : Nat
  cancel    : Nat
  emptyDraw : Nat
deriving DecidableEq, Repr

/-- The step record and the journaled state at the last step boundary (R214, R111), the flag counts among it. -/
structure StepRec where
  pc    : Nat
  areg  : List AddrReg
  cnt   : List Word32
  sems  : List (BitVec 16)
  lanes : List LaneSet
  ctxs  : List Ctx
  banks : List (List Tile)
  hand  : List HandOver
  tally : Tally
deriving DecidableEq, Repr

/-- A snapshot of a Field run that is latched and not yet committed (R184, R186, R187). -/
structure Snap where
  sweep     : Nat
  states    : Array Bool
  eInt      : Int
  laneCount : Nat
  best      : Array Bool
  bestE     : Int
  bestSweep : Word64
deriving DecidableEq, Repr

/-- The snapshot registers (R187): the committed slot, and what it was taken with. -/
structure SnapRegs where
  slot      : Nat
  sweep     : Nat
  laneCount : Nat
  eInt      : Int
  best      : Array Bool
  bestE     : Int
  bestSweep : Word64
deriving DecidableEq, Repr

/-- A halo record held in the halo store (R180), or a version of the loaded history (R177), whose sweep then counts
from W_h. -/
structure HaloHeld where
  edge   : Fin 4
  cls    : Bool
  sweep  : Int
  states : BitVec 128
deriving DecidableEq, Repr

/-- A run recorded for the FIELD section of the ledger (R367). -/
structure FieldRunRec where
  ctx       : Nat
  sweeps    : Word64
  rollbacks : Nat
  hash      : List Byte
deriving DecidableEq, Repr

/-- The Field (R157 to R191). `schedAddr` is none until a schedule has been loaded; `fencedOn` is the slot that was fenced
for the run's Field errors (R384); `askedAt` the elapsed time at which the handshakes of the run went out (R294). `phase` is the phase of the sweep in progress to be run next (0, 1), or 2 when both have
run and the sweep's end is due. `image` is the model image of R171 as loaded; `states` holds true for +1. -/
structure FieldSt where
  loaded     : Bool
  ctx        : Nat
  image      : Array Byte
  sched      : List Word64
  states     : Array Bool
  modelAddr  : Nat
  schedAddr  : Option Nat
  snapAddr   : Nat
  eInt       : Int
  bestE      : Int
  bestSweep  : Word64
  best       : Array Bool
  synced     : Bool
  wh         : Nat
  history    : List HaloHeld
  store      : List HaloHeld
  handshakes : List (Option Handshake)
  incoming   : List (Option Handshake)
  askedAt    : Option Nat
  phase      : Nat
  target     : Nat
  firstSweep : Bool
  pending    : List Snap
  committed  : Option SnapRegs
  rollbacks  : Nat
  errors     : Nat
  fencedOn   : Option (Fin 80)
  prior      : Array Bool
  priorE     : Int
deriving DecidableEq, Repr

/-- What the sequencer of a croft is doing. -/
inductive SeqState where
  /-- No program runs. -/
  | stopped
  /-- Issuing, or holding the instruction at `pc` when `held` is set. -/
  | running
  /-- At SYNC.BAR after its step check, the arrival not yet counted or the release awaited (R217). -/
  | barrier (jobScope : Bool) (bar : Nat) (parties : Nat) (arrived : Bool)
  /-- A FIELD_RUN: the Reeve's Rinnawen program occupies the croft (R316). -/
  | reeve
  /-- Stopped by the halt of its job (R226). -/
  | halted
deriving DecidableEq, Repr

/-- Registers and position of a sequencer (R193, R197, R206, R213). `semOwn` holds for each semaphore the additions
less the subtractions that the present step itself made (R215). `held` marks an instruction at `pc` that was issued
and cannot go on yet (R22, R207, R209, R211, R214); `claimed` that its header wait was met (R207).
`fieldDone` counts the FIELD instructions issued in the step, and `fieldSkip` those that a replayed step issues again
and that the Field, which is not replayed, already has (R374, R377, log 18). `replaying` holds from a replay to the next
boundary (R377); `opening` marks a launch whose boundary no slot has counted yet (R212, R213). -/
structure Sequencer where
  state      : SeqState
  held       : Bool
  claimed    : Bool
  loadOffset : Nat
  count      : Nat
  pc         : Nat
  areg       : List AddrReg
  cnt        : List Word32
  sems       : List (BitVec 16)
  semOwn     : List Int
  step       : Nat
  inStep     : Nat
  fieldDone  : Nat
  fieldSkip  : Nat
  nextSeq    : Nat
  signals    : List PendSig
  replaying  : Bool
  opening    : Bool
deriving DecidableEq, Repr

/-- The units of a croft: nine queues in the order of `QueueId`, and what runs on each unit (R21, R23). -/
structure Units where
  queues : List (List Issued)
  mill   : List (Option Running)
  drain  : List (Option Running)
  row    : List (Option Running)
  field  : Option Running
  move   : Option Running
  mesh   : Option Running
deriving DecidableEq, Repr

/-- One weight register of every cell of a Mill (R54): the weight rows and scales of a pass as bytes, those not listed being
zero; and the instruction and pass they were loaded for, none before the first load. -/
structure WeightSet where
  owner  : Option (Nat × Nat)
  rows   : List (List Byte)
  scales : List Byte
deriving DecidableEq, Repr

/-- Registers that hold zeros (log 3). -/
def WeightSet.zero : WeightSet := ⟨none, [], []⟩

/-- The active and the shadow weight registers of a Mill (R54). -/
structure MillRegs where
  active : WeightSet
  shadow : WeightSet
deriving DecidableEq, Repr

/-- Both registers before the first load. -/
def MillRegs.zero : MillRegs := ⟨.zero, .zero⟩

/-- A logical croft of an open job (R36, R40). `home` is the slot a croft shares in turn with another (R41, R380) while it is
off it, and `vacated` the slot it left with no replacement found. `poison` holds the poisoned Granary words, `lost` those of the banks, the
context store and the journal (R378). `report` gathers CFLAGS [4:0] and PARTIAL of the running command
(R320); `replays` counts for the ledger. -/
structure Croft where
  job      : Fin 64
  n        : Fin 256
  slot     : Option (Fin 80)
  home     : Option (Fin 80)
  vacated  : Option (Fin 80)
  granary  : Cells
  poison   : List Nat
  lost     : List WordLoc
  ctxs     : List Ctx
  seq      : Sequencer
  units    : Units
  weights  : List MillRegs
  banks    : List (List Tile)
  hand     : List HandOver
  lanes    : List LaneSet
  field    : FieldSt
  record   : StepRec
  report   : BitVec 8
  tally    : Tally
  runs     : List FieldRunRec
  replays  : Nat
  failures : Nat
  fencedBy : List (Fin 80)
  paused   : Bool
deriving DecidableEq, Repr

/-- The parameters of an open job (R312, R313) with what R5 counts among them. -/
structure JobParams where
  handle    : Word32
  jpb       : List Byte
  openAddr  : Nat
  cls       : BitVec 2
  seed      : Word64
  family    : Bool
  laneFree  : Bool
  compat    : Bool
  adaptive  : Bool
  staleness : Nat
  ldev      : Nat
  crofts    : Nat
  devices   : Nat
  det       : Bool
  plainSum  : Bool
  bundle    : Nat
  openTime  : Nat
deriving DecidableEq, Repr

end Sys2Proof.Machine
end

