-- ==== Sys2Proof/Machine/Float.lean ====
section
/-!
DEFINITION. Exact values, rounding and the number formats (02_mill_arithmetic.md R44 to R48, R51, R59, R62, R63;
03_drain_and_reductions.md R81, R83, R91 to R93). Values are exact dyadic numbers; a rounding is explicit and last.
-/

namespace Sys2Proof.Machine

/-- The value of a float encoding (R45): NaN, an infinity, or (-1)^neg * m * 2^e. A zero has m = 0. -/
inductive Fval where
  | nan
  | inf (neg : Bool)
  | fin (neg : Bool) (m : Nat) (e : Int)
deriving DecidableEq, Repr

/-- The shape of a float format (R45): exponent and fraction bits, and whether it has infinities. -/
structure FloatShape where
  eb : Nat
  mb : Nat
  hasInf : Bool
  hasNan : Bool
deriving DecidableEq, Repr

/-- The bias 2^(eb-1) - 1 of a format; E2M1 has bias 1 by the same formula (R45). -/
def FloatShape.bias (f : FloatShape) : Int := 2 ^ (f.eb - 1) - 1

/-- E2M1 (R45). -/
def shapeE2M1 : FloatShape := ⟨2, 1, false, false⟩
/-- E4M3 (R45). -/
def shapeE4M3 : FloatShape := ⟨4, 3, false, true⟩
/-- E5M2 (R45). -/
def shapeE5M2 : FloatShape := ⟨5, 2, true, true⟩
/-- BF16 (R45). -/
def shapeBF16 : FloatShape := ⟨8, 7, true, true⟩
/-- FP16 (R45). -/
def shapeFP16 : FloatShape := ⟨5, 10, true, true⟩
/-- FP32 (R45). -/
def shapeFP32 : FloatShape := ⟨8, 23, true, true⟩

/-- The value an encoding of a format stands for (R45). -/
def FloatShape.decode (f : FloatShape) (raw : Nat) : Fval :=
  let neg := bitOf raw (f.eb + f.mb)
  let e := bitsOf raw f.mb f.eb
  let fr := bitsOf raw 0 f.mb
  let top := 2 ^ f.eb - 1
  if f.hasInf ∧ e = top then (if fr = 0 then .inf neg else .nan)
  else if f.hasNan ∧ ¬ f.hasInf ∧ e = top ∧ fr = 2 ^ f.mb - 1 then .nan
  else if e = 0 then .fin neg fr (1 - f.bias - f.mb)
  else .fin neg (2 ^ f.mb + fr) (e - f.bias - f.mb)

/-- The value of an FP32 encoding (R45). -/
def fpVal (x : Word32) : Fval := shapeFP32.decode x.toNat

/-- floor(log2 (num / den)) for positive `num` and `den`. -/
def ratLog2 (num den : Nat) : Int :=
  let e0 : Int := (Nat.log2 num : Int) - Nat.log2 den
  let below := if 0 ≤ e0 then num < den * 2 ^ e0.toNat else num * 2 ^ (-e0).toNat < den
  if below then e0 - 1 else e0

/-- The quotient num / (den * 2^q), as a whole part and a remainder over a divisor. -/
def ratQuot (num den : Nat) (q : Int) : Nat × Nat × Nat :=
  let n := if 0 ≤ q then num else num * 2 ^ (-q).toNat
  let d := if 0 ≤ q then den * 2 ^ q.toNat else den
  (n / d, n % d, d)

/-- Round to nearest, ties to even, of a quotient and its remainder (R59, R92). -/
def rneQuot (t : Nat × Nat × Nat) : Nat :=
  if 2 * t.2.1 > t.2.2 ∨ (2 * t.2.1 = t.2.2 ∧ t.1 % 2 = 1) then t.1 + 1 else t.1

/-- The exponent of the last place of num / den in a format that keeps subnormals (R45). -/
def FloatShape.lastPlace (f : FloatShape) (num den : Nat) : Int :=
  max (ratLog2 num den - f.mb) (1 - f.bias - f.mb)

/-- The exponent field and fraction of the magnitude k * 2^q with q a last place of the format; k may be 2^(mb+1).
The field may exceed what the format holds. -/
def FloatShape.fields (f : FloatShape) (k : Nat) (q : Int) : Nat × Nat :=
  if k < 2 ^ f.mb then (0, k)
  else if k < 2 ^ (f.mb + 1) then ((q + f.mb + f.bias).toNat, k - 2 ^ f.mb)
  else ((q + 1 + f.mb + f.bias).toNat, (k - 2 ^ (f.mb + 1)) / 2)

/-- Whether an exponent field and fraction pass the largest finite value of the format (R45). -/
def FloatShape.tooBig (f : FloatShape) (ef : Nat × Nat) : Bool :=
  let top := 2 ^ f.eb - 1
  if f.hasInf then top ≤ ef.1
  else if f.hasNan then top < ef.1 || (ef.1 == top && ef.2 == 2 ^ f.mb - 1)
  else top < ef.1

/-- The encoding of the largest finite magnitude (R45, R48). -/
def FloatShape.maxRaw (f : FloatShape) : Nat :=
  if f.hasInf then (2 ^ f.eb - 2) * 2 ^ f.mb + (2 ^ f.mb - 1)
  else if f.hasNan then (2 ^ f.eb - 1) * 2 ^ f.mb + (2 ^ f.mb - 2)
  else (2 ^ f.eb - 1) * 2 ^ f.mb + (2 ^ f.mb - 1)

/-- The format's positive NaN that a conversion gives (R48, R63, R92). E2M1 has none and takes +0. -/
def FloatShape.nanRaw (f : FloatShape) : Nat :=
  if f.hasInf then (2 ^ f.eb - 1) * 2 ^ f.mb + 2 ^ (f.mb - 1)
  else if f.hasNan then 2 ^ (f.eb + f.mb) - 1
  else 0

/-- The sign bit of a format. -/
def FloatShape.signRaw (f : FloatShape) (neg : Bool) : Nat := if neg then 2 ^ (f.eb + f.mb) else 0

/-- The encoding of a rounded magnitude k * 2^q, saturating where the format has no infinity (R48); the flag says
that the magnitude passed the largest finite value. -/
def FloatShape.pack (f : FloatShape) (neg : Bool) (k : Nat) (q : Int) : Nat × Bool :=
  let ef := f.fields k q
  if f.tooBig ef then
    (f.signRaw neg + (if f.hasInf then (2 ^ f.eb - 1) * 2 ^ f.mb else f.maxRaw), true)
  else (f.signRaw neg + ef.1 * 2 ^ f.mb + ef.2, false)

/-- Round a rational magnitude to the format, ties to even, subnormals kept (R59, R92). -/
def FloatShape.roundRat (f : FloatShape) (neg : Bool) (num den : Nat) : Nat × Bool :=
  if num = 0 then (f.signRaw neg, false)
  else
    let q := f.lastPlace num den
    f.pack neg (rneQuot (ratQuot num den q)) q

/-- A dyadic magnitude m * 2^e as numerator and denominator. -/
def dyRat (m : Nat) (e : Int) : Nat × Nat :=
  if 0 ≤ e then (m * 2 ^ e.toNat, 1) else (m, 2 ^ (-e).toNat)

/-- rn32 of an exact value with its overflow flag (R59, R63): NaN is 0x7FC0_0000. -/
def rn32Ovf : Fval → Word32 × Bool
  | .nan => (0x7FC00000#32, false)
  | .inf neg => (if neg then 0xFF800000#32 else 0x7F800000#32, false)
  | .fin neg m e =>
    let r := shapeFP32.roundRat neg (dyRat m e).1 (dyRat m e).2
    (BitVec.ofNat 32 r.1, r.2)

/-- rn32: IEEE 754 roundTiesToEven to binary32 (R59). -/
def rn32 (v : Fval) : Word32 := (rn32Ovf v).1

/-- rn32 of a rational number (R88, R90, R133). -/
def rn32Rat (neg : Bool) (num den : Nat) : Word32 := BitVec.ofNat 32 (shapeFP32.roundRat neg num den).1

/-- The negated value. -/
def Fval.neg : Fval → Fval
  | .nan => .nan
  | .inf s => .inf (!s)
  | .fin s m e => .fin (!s) m e

/-- Whether the value is NaN. -/
def Fval.isNan : Fval → Bool
  | .nan => true
  | _ => false

/-- Whether the value is an infinity. -/
def Fval.isInf : Fval → Bool
  | .inf _ => true
  | _ => false

/-- Whether the value is a zero of either sign. -/
def Fval.isZero : Fval → Bool
  | .fin _ 0 _ => true
  | _ => false

/-- Whether the value is a number. -/
def Fval.isFinite : Fval → Bool
  | .fin _ _ _ => true
  | _ => false

/-- The sign bit of the value (NaN counts as positive). -/
def Fval.isNeg : Fval → Bool
  | .nan => false
  | .inf s => s
  | .fin s _ _ => s

/-- A signed integer times a power of two, with +0 for zero. -/
def ofDy (m : Int) (e : Int) : Fval := .fin (m < 0) m.natAbs e

/-- The signed mantissa of a value taken at exponent `e`, which must not exceed the value's own. -/
def Fval.mantAt (e : Int) : Fval → Int
  | .fin s m e' => (if s then -1 else 1) * (m * 2 ^ (e' - e).toNat : Int)
  | _ => 0

/-- The exponent of a finite value (0 for the others). -/
def Fval.exp : Fval → Int
  | .fin _ _ e => e
  | _ => 0

/-- The exact product; infinity times zero is NaN (R62). -/
def Fval.mul : Fval → Fval → Fval
  | .nan, _ => .nan
  | _, .nan => .nan
  | .inf a, y => if y.isZero then .nan else .inf (a != y.isNeg)
  | x, .inf b => if x.isZero then .nan else .inf (x.isNeg != b)
  | .fin a m e, .fin b n f => .fin (a != b) (m * n) (e + f)

/-- Whether a product is infinity times zero (R62, R81). -/
def Fval.mulInvalid (x y : Fval) : Bool := (x.isInf && y.isZero) || (x.isZero && y.isInf)

/-- The exact sum, IEEE 754 signs of zero; infinities of opposite sign give NaN (R62, R63). -/
def Fval.add : Fval → Fval → Fval
  | .nan, _ => .nan
  | _, .nan => .nan
  | .inf a, .inf b => if a = b then .inf a else .nan
  | .inf a, _ => .inf a
  | _, .inf b => .inf b
  | .fin a m e, .fin b n f =>
    if m = 0 ∧ n = 0 then .fin (a && b) 0 (min e f)
    else
      let q := min e f
      ofDy (Fval.mantAt q (.fin a m e) + Fval.mantAt q (.fin b n f)) q

/-- Whether a sum is of infinities of opposite sign (R62, R81). -/
def Fval.addInvalid (x y : Fval) : Bool := x.isInf && y.isInf && (x.isNeg != y.isNeg)

/-- FP32 addition: rn32(a + b) (R59). -/
def fadd (a b : Word32) : Word32 := rn32 ((fpVal a).add (fpVal b))
/-- FP32 subtraction: rn32(a - b) (R68). -/
def fsub (a b : Word32) : Word32 := rn32 ((fpVal a).add (fpVal b).neg)
/-- FP32 multiplication: rn32(a * b) (R88). -/
def fmul (a b : Word32) : Word32 := rn32 ((fpVal a).mul (fpVal b))
/-- FP32 fused multiply-add: rn32(a * b + c) (R81, R140, R142). -/
def ffma (a b c : Word32) : Word32 := rn32 (((fpVal a).mul (fpVal b)).add (fpVal c))

/-- two_sum of R68. -/
def twoSum (a b : Word32) : Word32 × Word32 :=
  let h := fadd a b
  let bb := fsub h a
  (h, fadd (fsub a (fsub h bb)) (fsub b bb))

/-- Whether an FP32 encoding is NaN. -/
def isNan32 (x : Word32) : Bool := (fpVal x).isNan

/-- The exact comparison a < b of two values that are not NaN; zeros are equal. -/
def Fval.lt : Fval → Fval → Bool
  | .nan, _ => false
  | _, .nan => false
  | .inf a, .inf b => a && !b
  | .inf a, _ => a
  | _, .inf b => !b
  | x, y => decide (Fval.mantAt (min x.exp y.exp) x < Fval.mantAt (min x.exp y.exp) y)

/-- IEEE 754 a < b on FP32 encodings; false with a NaN (R82, R142). -/
def flt (a b : Word32) : Bool := (fpVal a).lt (fpVal b)

/-- The place of a non-NaN FP32 encoding in the total order of R83: -0 below +0. -/
def ordKey (x : Word32) : Int :=
  let mag : Int := (x.toNat % 2 ^ 31 : Nat)
  if bitOf x.toNat 31 then -mag - 1 else mag

/-- The order of R83 for MAX: NaN above +infinity, all NaN tied. -/
def maxKey (x : Word32) : Int := if isNan32 x then 2 ^ 32 else ordKey x
/-- The order of R83 for MIN: NaN below -infinity, all NaN tied. -/
def minKey (x : Word32) : Int := if isNan32 x then -2 ^ 32 else ordKey x

/-- floor(m * 2^e). -/
def floorDy (m : Int) (e : Int) : Int := if 0 ≤ e then m * 2 ^ e.toNat else m / 2 ^ (-e).toNat

/-- The floor of a finite value. -/
def Fval.floor (v : Fval) : Int := floorDy (Fval.mantAt v.exp v) v.exp

/-- tree_sum of R85: the fixed pairwise order over 64 values. The fuel counts the levels. -/
def treeSum : Nat → List Word32 → Word32
  | 0, l => l.getD 0 0
  | n + 1, l => treeSum n ((List.range (l.length / 2)).map fun k => fadd (l.getD (2 * k) 0) (l.getD (2 * k + 1) 0))

/-- A 4-bit Mill operand format (R44). -/
inductive OpFmt where
  | s4
  | u4
  | s8
  | u8
  | e2m1
  | e4m3
  | e5m2
  | bf16
  | fp16
  | fp32
deriving DecidableEq, Repr

/-- The format a code names; codes 0xA to 0xF are reserved (R44). -/
def opFmt (code : Nat) : Option OpFmt :=
  match code with
  | 0x0 => some .s4
  | 0x1 => some .u4
  | 0x2 => some .s8
  | 0x3 => some .u8
  | 0x4 => some .e2m1
  | 0x5 => some .e4m3
  | 0x6 => some .e5m2
  | 0x7 => some .bf16
  | 0x8 => some .fp16
  | 0x9 => some .fp32
  | _ => none

/-- The width of a format in bits (R44). -/
def OpFmt.width : OpFmt → Nat
  | .s4 | .u4 | .e2m1 => 4
  | .s8 | .u8 | .e4m3 | .e5m2 => 8
  | .bf16 | .fp16 => 16
  | .fp32 => 32

/-- Whether a format is an integer format (R44). -/
def OpFmt.isInt : OpFmt → Bool
  | .s4 | .u4 | .s8 | .u8 => true
  | _ => false

/-- The float shape of a format; unused for the integer formats. -/
def OpFmt.shape : OpFmt → FloatShape
  | .e2m1 => shapeE2M1
  | .e4m3 => shapeE4M3
  | .e5m2 => shapeE5M2
  | .bf16 => shapeBF16
  | .fp16 => shapeFP16
  | _ => shapeFP32

/-- The value of an element (R44, R45, R46). R63 speaks of signs of zero, and an integer has none: its 0 is taken as +0, so that a product
with a negative element is -0 (DESIGN CHOICE, log 103). -/
def OpFmt.decode (f : OpFmt) (raw : Nat) : Fval :=
  match f with
  | .s4 => ofDy (signedOf 4 raw) 0
  | .u4 => .fin false (raw % 16) 0
  | .s8 => ofDy (signedOf 8 raw) 0
  | .u8 => .fin false (raw % 256) 0
  | _ => f.shape.decode raw

/-- Element `n` of a packed row: two 4-bit elements share a byte, wider ones are little-endian (R47). -/
def elemRaw (w : Nat) (row : List Byte) (n : Nat) : Nat :=
  if w = 4 then bitsOf (row.getD (n / 2) 0).toNat (4 * (n % 2)) 4 else leAt row (n * (w / 8)) (w / 8)

/-- Packs elements of `w` bits into bytes (R47, R8). -/
def packElems (w : Nat) (xs : List Nat) : List Byte :=
  leBytes ((xs.length * w + 7) / 8) ((xs.zipIdx).foldl (fun a p => a + (p.1 % 2 ^ w) * 2 ^ (w * p.2)) 0)

/-- The range of an integer target as smallest and largest value (R44, R91). -/
def intRange (code : Nat) : Int × Int :=
  match code with
  | 0x0 => (-8, 7)
  | 0x1 => (0, 15)
  | 0x2 => (-128, 127)
  | 0x3 => (0, 255)
  | _ => (-(2 ^ 31), 2 ^ 31 - 1)

/-- The width in bits of an integer target. -/
def intWidth (code : Nat) : Nat :=
  match code with
  | 0x0 => 4
  | 0x1 => 4
  | 0x2 => 8
  | 0x3 => 8
  | _ => 32

/-- Whether an output code is an integer format (R91). -/
def outIsInt (code : Nat) : Bool := code ≤ 3 || code == 0xA

/-- The outcome of a conversion: encoding, OVF, INVALID (R92). -/
structure Conv where
  raw : Nat
  ovf : Bool
  invalid : Bool
deriving DecidableEq, Repr

/-- A signed magnitude clamped into an integer target (R48). A value below the range of an unsigned target is taken
to pass the target's range and sets OVF (DEDUCED, log 14). -/
def clampInt (code : Nat) (neg : Bool) (k : Nat) : Conv :=
  let r := intRange code
  let v : Int := if neg then -(k : Int) else k
  if v < r.1 then ⟨wrapInt (intWidth code) r.1, true, false⟩
  else if r.2 < v then ⟨wrapInt (intWidth code) r.2, true, false⟩
  else ⟨wrapInt (intWidth code) v, false, false⟩

/-- Conversion of NaN and infinities (R48, R92). -/
def convSpecial (code : Nat) (v : Fval) : Conv :=
  let sh := ((opFmt code).getD .fp32).shape
  match v with
  | .nan => if outIsInt code then ⟨0, false, true⟩ else ⟨sh.nanRaw, false, !sh.hasNan⟩
  | .inf neg =>
    if outIsInt code then
      ⟨wrapInt (intWidth code) (if neg then (intRange code).1 else (intRange code).2), true, false⟩
    else if sh.hasInf then ⟨sh.signRaw neg + (2 ^ sh.eb - 1) * 2 ^ sh.mb, false, false⟩
    else ⟨sh.signRaw neg + sh.maxRaw, true, false⟩
  | .fin _ _ _ => ⟨0, false, false⟩

/-- Conversion with SR = 0: to nearest, ties to even (R92). -/
def convRne (code : Nat) (x : Word32) : Conv :=
  if code = 0x9 then ⟨x.toNat, false, false⟩
  else match fpVal x with
  | .fin neg m e =>
    let nd := dyRat m e
    if outIsInt code then clampInt code neg (rneQuot (ratQuot nd.1 nd.2 0))
    else
      let r := ((opFmt code).getD .fp32).shape.roundRat neg nd.1 nd.2
      ⟨r.1, r.2, false⟩
  | v => convSpecial code v

/-- The last place used by stochastic rounding and the largest representable multiple not above the value
(R93). Above the largest finite value the spacing is that of the top binade. -/
def srGrid (sh : FloatShape) (num den : Nat) : Int × Nat :=
  let topE : Int := (if sh.hasInf then (2 ^ sh.eb - 2 : Int) else 2 ^ sh.eb - 1) - sh.bias - sh.mb
  let q := min (sh.lastPlace num den) topE
  let k := (ratQuot num den q).1
  let kMax := if sh.hasInf then 2 ^ (sh.mb + 1) - 1 else if sh.hasNan then 2 ^ (sh.mb + 1) - 2 else 2 ^ (sh.mb + 1) - 1
  (q, if q = topE then min k kMax else k)

/-- Stochastic choice between `lo` and `lo + 1` last places: hi if u < f, with f = floor(2^16 (a - lo)/(hi - lo))
(R93). -/
def srPick (num den : Nat) (q : Int) (lo : Nat) (u : Nat) : Nat :=
  let n := if 0 ≤ q then num else num * 2 ^ (-q).toNat
  let d := if 0 ≤ q then den * 2 ^ q.toNat else den
  let f := 2 ^ 16 * (n - lo * d) / d
  if u < f then lo + 1 else lo

/-- Conversion with SR = 1 (R93); `u` is bits [63:48] of the lane's output. -/
def convSr (code : Nat) (x : Word32) (u : Nat) : Conv :=
  match fpVal x with
  | .fin neg m e =>
    let nd := dyRat m e
    if outIsInt code then
      let r := intRange code
      let cap := if neg then (-r.1).toNat else r.2.toNat
      let lo := min (ratQuot nd.1 nd.2 0).1 cap
      clampInt code neg (srPick nd.1 nd.2 0 lo u)
    else
      let sh := ((opFmt code).getD .fp32).shape
      if nd.1 = 0 then ⟨sh.signRaw neg, false, false⟩
      else
        let g := srGrid sh nd.1 nd.2
        let r := sh.pack neg (srPick nd.1 nd.2 g.1 g.2 u) g.1
        ⟨r.1, r.2, false⟩
  | v => convSpecial code v

/-- The width in bits of an output element (R91); RAW and NONE have none of their own. -/
def outWidth (code : Nat) : Nat :=
  if code = 0xA then 32 else match opFmt code with
  | some f => f.width
  | none => 0

end Sys2Proof.Machine
end

