-- ==== Sys2Proof/Machine/Tables.lean ====
section
/-!
DEFINITION. The five function tables of 1,025 FP32 entries (03_drain_and_reductions.md R88; 05_dense_sampling.md R133 to
R136). The exponential table is exact integer arithmetic. The others evaluate a series in fixed point with 200 fraction
bits and round once; that the series error never crosses a rounding boundary is UNVERIFIED by proof (log 13).
-/

namespace Sys2Proof.Machine

/-- Fraction bits of the fixed-point series. -/
def fixP : Nat := 200

/-- One in fixed point. -/
def fixOne : Nat := 2 ^ fixP

/-- floor(2^(23 + k / 1,024)), found bit by bit from the comparison of 1,024th powers. -/
def expFloor (k : Nat) : Nat :=
  (List.range 23).reverse.foldl
    (fun m b => if (m + 2 ^ b) ^ 1024 ≤ 2 ^ (23 * 1024 + k) then m + 2 ^ b else m) (2 ^ 23)

/-- T[k]: the binary32 value nearest to 2^(k / 1,024) (R88). -/
def expTable (k : Nat) : Word32 :=
  if 1024 ≤ k then 0x40000000#32
  else
    let m := expFloor k
    let m' := if (2 * m + 1) ^ 1024 < 2 ^ (24 * 1024 + k) then m + 1 else m
    BitVec.ofNat 32 (126 * 2 ^ 23 + m')

/-- The sum of the series whose next term after `t` (the n-th) is `next n t`, `fuel` terms. -/
def fixSeries (next : Nat → Int → Int) : Nat → Nat → Int → Int
  | 0, _, _ => 0
  | fuel + 1, n, t => t + fixSeries next fuel (n + 1) (next n t)

/-- e^(-1/64) in fixed point. -/
def expNeg64 : Nat := (fixSeries (fun n t => -(t / (64 * (n + 1)))) 48 0 fixOne).toNat

/-- TS[k] = rn32(1 / (1 + e^(-k/64))) (R133). -/
def logisticTable (k : Nat) : Word32 :=
  let e := (List.range k).foldl (fun a _ => a * expNeg64 / fixOne) fixOne
  rn32Rat false fixOne (fixOne + e)

/-- ln(a / b) in fixed point for 1 ≤ a / b ≤ 2, by the series of 2 artanh((a - b) / (a + b)). -/
def lnFix (a b : Nat) : Nat :=
  let z := (a - b) * fixOne / (a + b)
  let z2 := z * z / fixOne
  ((List.range 70).foldl (fun (p : Nat × Nat) i => (p.1 + p.2 / (2 * i + 1), p.2 * z2 / fixOne)) (0, z)).1 * 2

/-- TL[k] = rn32(log2(1 + k/1,024)) (R134). -/
def log2Table (k : Nat) : Word32 := rn32Rat false (lnFix (1024 + k) 1024) (lnFix 2 1)

/-- TG[0] = 1.0 and TG[k] = rn32(-ln(1 - k/2,048) * 2,048 / k) (R135). -/
def gumbelTable (k : Nat) : Word32 :=
  if k = 0 then 0x3F800000#32 else rn32Rat false (lnFix 2048 (2048 - k) * 2048) (k * fixOne)

/-- arctan(1 / n) in fixed point. -/
def atanInv (n : Nat) : Int :=
  ((List.range 100).foldl (fun (p : Int × Int) (i : Nat) =>
    (p.1 + (if i % 2 = 0 then p.2 / (2 * i + 1) else -(p.2 / (2 * i + 1))), p.2 / (n * n))) (0, (fixOne : Int) / n)).1

/-- pi in fixed point, by Machin's formula. -/
def piFix : Int := 16 * atanInv 5 - 4 * atanInv 239

/-- TC[k] = rn32(cos(pi k / 2,048)), TC[1,024] = +0 (R136). -/
def cosTable (k : Nat) : Word32 :=
  if 1024 ≤ k then 0#32
  else
    let x := piFix * k / 2048
    let x2 := x * x / fixOne
    let c := fixSeries (fun n t => -(t * x2 / fixOne / ((2 * n + 1) * (2 * n + 2)))) 48 0 fixOne
    rn32Rat false c.toNat fixOne

/-- The 4,100 bytes of a table as the dictionary publishes it (R88, R137). -/
def tableBlob (t : Nat → Word32) : List Byte := (List.range 1025).flatMap fun k => leBytes 4 (t k).toNat

end Sys2Proof.Machine
end

