-- ==== Sys2Proof/Machine/Transforms.lean ====
section
/-!
DEFINITION. The bit-exact transforms: rexp (03_drain_and_reductions.md R88), bern_th, rlog2, expo, gumbel and normal
(05_dense_sampling.md R133 to R136), and the values taken from a generator output (04_lane_generators.md R113).
-/

namespace Sys2Proof.Machine

/-- rn32(T[k] + rn32(r * rn32(T[k+1] - T[k]))): the interpolation step of R88. -/
def interp (t : Nat → Word32) (k : Nat) (r : Word32) : Word32 := fadd (t k) (fmul r (fsub (t (k + 1)) (t k)))

/-- rn32(log2 e) (R88). -/
def log2e : Word32 := 0x3FB8AA3B#32

/-- rn32(ln 2) (R133). -/
def ln2 : Word32 := 0x3F317218#32

/-- 2^n times a value. -/
def Fval.scale (v : Fval) (n : Int) : Fval :=
  match v with
  | .fin s m e => .fin s m (e + n)
  | w => w

/-- The drain's exponential (R88). -/
def rexp (d : Word32) : Word32 :=
  match fpVal d with
  | .nan => 0x7FC00000#32
  | .inf true => 0#32
  | .inf false => 0x7F800000#32
  | .fin _ _ _ =>
    let t := fpVal (fmul d log2e)
    if t.lt (.fin true 160 0) then 0#32
    else if Fval.lt (.fin false 128 0) t then 0x7F800000#32
    else
      let n := t.floor
      let x := (t.add (ofDy (-n) 0)).scale 10
      let k := x.floor
      let r := rn32 (x.add (ofDy (-k) 0))
      let v := interp expTable k.toNat r
      rn32 ((fpVal v).scale n)

/-- |x| of an FP32 encoding. -/
def fabs (x : Word32) : Word32 := x &&& 0x7FFFFFFF#32

/-- The Bernoulli threshold (R133): an integer from 2 to 2^24 - 2. -/
def bernTh (z : Word32) : Nat :=
  let a := fpVal (fabs z)
  let q :=
    if !(a.lt (.fin false 16 0)) then logisticTable 1024
    else
      let t := a.scale 6
      let k := t.floor
      interp logisticTable k.toNat (rn32 (t.add (ofDy (-k) 0)))
  let p := ((fpVal q).scale 24).floor.toNat
  if (fpVal z).lt (.fin false 0 0) then 2 ^ 24 - p else p

/-- v = mm * 2^e with 1 ≤ mm < 2: the fraction (mm - 1) as a value, and e (R134). -/
def splitLog (v : Fval) : Fval × Int :=
  match v with
  | .fin _ m e =>
    let l : Nat := Nat.log2 m
    (.fin false (m - (2 : Nat) ^ l) (-Int.ofNat l), e + Int.ofNat l)
  | w => (w, 0)

/-- The logarithm of a positive finite FP32 value (R134). -/
def rlog2 (v : Word32) : Word32 :=
  let s := splitLog (fpVal v)
  let t := s.1.scale 10
  let k := t.floor
  let l := interp log2Table k.toNat (rn32 (t.add (ofDy (-k) 0)))
  rn32 ((ofDy s.2 0).add (fpVal l))

/-- The exponential variate -ln u of a UOPEN value (R135). -/
def expo (u : Word32) : Word32 :=
  if flt u 0x3F000000#32 then rn32 ((fpVal (rlog2 u)).neg.mul (fpVal ln2))
  else
    let w := (ofDy 1 0).add (fpVal u).neg
    let t := w.scale 11
    let k := t.floor
    let h := interp gumbelTable k.toNat (rn32 (t.add (ofDy (-k) 0)))
    rn32 (w.mul (fpVal h))

/-- The Gumbel noise of a UOPEN value (R135). -/
def gumbel (u : Word32) : Word32 := rn32 ((fpVal (rlog2 (expo u))).neg.mul (fpVal ln2))

/-- The largest r with r * r ≤ n, found from bit `b` down. -/
def isqrtFrom (n : Nat) : Nat → Nat → Nat
  | 0, r => r
  | b + 1, r => isqrtFrom n b (if (r + 2 ^ b) * (r + 2 ^ b) ≤ n then r + 2 ^ b else r)

/-- rn32 of the square root of a non-negative finite value (R136). The root is taken with at least 40 bits and a
sticky last bit, which rounds as the exact root does. -/
def fsqrt (v : Fval) : Word32 :=
  match v with
  | .fin _ 0 _ => 0#32
  | .fin _ m e =>
    let sh : Nat := if e % 2 = 0 then 80 else 81
    let n := m * 2 ^ sh
    let r := isqrtFrom n (Nat.log2 n / 2 + 1) 0
    let r2 := 2 * r + (if r * r = n then 0 else 1)
    rn32 (.fin false r2 ((e - sh) / 2 - 1))
  | _ => 0x7FC00000#32

/-- A standard normal value of two outputs (R136). -/
def normalOf (u1 : Word32) (v : Nat) : Word32 :=
  let q := v / 2 ^ 22
  let f := v % 2 ^ 22
  let t : Nat := if q % 2 = 1 then 1024 * 4096 - f else f
  let k := t / 4096
  let c0 := if k = 1024 then cosTable 1024 else interp cosTable k (rn32 (.fin false (t % 4096) (-12)))
  let c := if q = 1 ∨ q = 2 then c0 ^^^ 0x80000000#32 else c0
  fmul (fsqrt ((fpVal (expo u1)).scale 1)) c

/-- U16 slice h of an output (R113). -/
def u16Slice (o : Word64) (h : Nat) : Nat := bitsOf o.toNat (48 - 16 * h) 16

/-- U24 of an output (R113). -/
def u24 (o : Word64) : Nat := bitsOf o.toNat 40 24

/-- UHALF of an output (R113). -/
def uhalf (o : Word64) : Word32 := rn32 (.fin false (u24 o) (-24))

/-- UOPEN of an output (R113). -/
def uopen (o : Word64) : Word32 := rn32 (.fin false (2 * bitsOf o.toNat 41 23 + 1) (-24))

end Sys2Proof.Machine
end

