-- ==== Sys2Proof/Machine/Operands.lean ====
section
/-!
DEFINITION. Operand forms: the fields of a Pelov instruction word (07_croft_instruction_set.md R194 to R208), memory
references (R203), and the descriptors of the drain (03_drain_and_reductions.md R78, R79), the sampler
(05_dense_sampling.md R127, R128), the Field (06_lattice_field.md R169, R175, R189, R190), the move unit (R204) and the
mesh unit (R205).
-/

namespace Sys2Proof.Machine

/-- Bits [lo + w - 1 : lo] of an instruction word. -/
def InstrWord.bits (x : InstrWord) (lo w : Nat) : Nat := bitsOf x.toNat lo w

/-- CLASS (R194). -/
def InstrWord.cls (x : InstrWord) : Nat := InstrWord.bits x 124 4
/-- OP (R194). -/
def InstrWord.op (x : InstrWord) : Nat := InstrWord.bits x 120 4
/-- UNIT (R194). -/
def InstrWord.unit (x : InstrWord) : Nat := InstrWord.bits x 118 2
/-- WAIT_EN (R194). -/
def InstrWord.waitEn (x : InstrWord) : Bool := bitOf x.toNat 117
/-- WAIT_SEM (R194). -/
def InstrWord.waitSem (x : InstrWord) : Nat := InstrWord.bits x 112 5
/-- SIG_EN (R194). -/
def InstrWord.sigEn (x : InstrWord) : Bool := bitOf x.toNat 111
/-- SIG_SEM (R194). -/
def InstrWord.sigSem (x : InstrWord) : Nat := InstrWord.bits x 106 5
/-- DESC (R202). -/
def InstrWord.desc (x : InstrWord) : Nat := InstrWord.bits x 78 26
/-- TILE of a DRAIN.RED (R202). -/
def InstrWord.drainTile (x : InstrWord) : Nat := InstrWord.bits x 73 5
/-- M of a coded MC (R201). -/
def mOf (mc : Nat) : Nat := 16 * 2 ^ mc
/-- M of a DRAIN or SAMP instruction (R202). -/
def InstrWord.rows (x : InstrWord) : Nat := mOf (InstrWord.bits x 71 2)
/-- RELEASE (R202). -/
def InstrWord.release (x : InstrWord) : Bool := bitOf x.toNat 70
/-- SRC of a SAMP instruction (R202). -/
def InstrWord.src (x : InstrWord) : Nat := InstrWord.bits x 68 2

/-- The mnemonics of the instruction set (R195). -/
inductive Op where
  | nop | seta | adda | setc | addc | loop | jump | cinit | csave | crest | end_
  | chk | wait | sig | fence | bar
  | mm | red | emit
  | bern | gibbs | gumb | take | mask | fill
  | load | sweep | snap | read
  | dma | zero | put | mcast
deriving DecidableEq, Repr

/-- The operation a word names; none for a reserved CLASS or OP (R195). -/
def InstrWord.operation (x : InstrWord) : Option Op :=
  match InstrWord.cls x, InstrWord.op x with
  | 0x0, 0x0 => some .nop
  | 0x0, 0x1 => some .seta
  | 0x0, 0x2 => some .adda
  | 0x0, 0x3 => some .setc
  | 0x0, 0x4 => some .addc
  | 0x0, 0x5 => some .loop
  | 0x0, 0x6 => some .jump
  | 0x0, 0x7 => some .cinit
  | 0x0, 0x8 => some .csave
  | 0x0, 0x9 => some .crest
  | 0x0, 0xF => some .end_
  | 0x1, 0x0 => some .chk
  | 0x1, 0x1 => some .wait
  | 0x1, 0x2 => some .sig
  | 0x1, 0x3 => some .fence
  | 0x1, 0x4 => some .bar
  | 0x2, 0x0 => some .mm
  | 0x3, 0x0 => some .red
  | 0x3, 0x1 => some .emit
  | 0x4, 0x0 => some .bern
  | 0x4, 0x1 => some .gibbs
  | 0x4, 0x2 => some .gumb
  | 0x4, 0x3 => some .take
  | 0x4, 0x4 => some .mask
  | 0x4, 0x5 => some .fill
  | 0x5, 0x0 => some .load
  | 0x5, 0x1 => some .sweep
  | 0x5, 0x2 => some .snap
  | 0x5, 0x3 => some .read
  | 0x6, 0x0 => some .dma
  | 0x6, 0x1 => some .zero
  | 0x7, 0x0 => some .put
  | 0x7, 0x1 => some .mcast
  | _, _ => none

/-- The number of a queue in `Units.queues` (R21). -/
def QueueId.index : QueueId → Nat
  | .mill i => i.val
  | .drain => 4
  | .sampler => 5
  | .field => 6
  | .move => 7
  | .mesh => 8

/-- The depth of a queue (R21). -/
def queueDepth (q : Nat) : Nat :=
  if q < 4 then 8 else if q ≤ 5 then 16 else if q = 6 then 8 else 32

/-- The queue an instruction goes to; none for SYNC and CTRL (R21, R195). -/
def InstrWord.queue (x : InstrWord) : Option Nat :=
  match InstrWord.cls x with
  | 2 => some (InstrWord.unit x)
  | 3 => some 4
  | 4 => some 5
  | 5 => some 6
  | 6 => some 7
  | 7 => some 8
  | _ => none

/-- The unit that runs a queued instruction (R23). -/
def InstrWord.unitOf (x : InstrWord) : UnitId :=
  let u : Fin 4 := Fin.ofNat 4 (InstrWord.unit x)
  match InstrWord.cls x with
  | 2 => .mill u
  | 3 => .drain u
  | 4 => .row u
  | 5 => .field
  | 6 => .move
  | _ => .mesh

/-- The operands of MILL.MM (R201) with its address registers substituted (R198). -/
structure MillOp where
  unit   : Nat
  ia     : AddrReg
  wa     : AddrReg
  isa    : AddrReg
  wsa    : AddrReg
  k      : Nat
  kTotal : Nat
  tile   : Nat
  m      : Nat
  acc    : Bool
  gCode  : Nat
  ifmt   : Nat
  wfmt   : Nat
  mx     : Bool
deriving DecidableEq, Repr

/-- The address registers a MILL.MM names, as its queue entry carries them (R198). -/
def millRegs (x : InstrWord) (areg : List AddrReg) : List AddrReg :=
  [100, 96, 92, 88].map fun lo => areg.getD (InstrWord.bits x lo 4) ⟨0, 0⟩

/-- The MILL.MM operands of a queued instruction (R201). -/
def millOp (i : Issued) : MillOp where
  unit := InstrWord.unit i.word
  ia := i.regs.getD 0 ⟨0, 0⟩
  wa := i.regs.getD 1 ⟨0, 0⟩
  isa := i.regs.getD 2 ⟨0, 0⟩
  wsa := i.regs.getD 3 ⟨0, 0⟩
  k := InstrWord.bits i.word 64 24
  kTotal := InstrWord.bits i.word 32 32
  tile := InstrWord.bits i.word 27 5
  m := mOf (InstrWord.bits i.word 25 2)
  acc := bitOf i.word.toNat 24
  gCode := InstrWord.bits i.word 22 2
  ifmt := InstrWord.bits i.word 18 4
  wfmt := InstrWord.bits i.word 14 4
  mx := bitOf i.word.toNat 13

/-- A drain descriptor (R78, R79). -/
structure DrainDesc where
  scale     : List Word32
  bias      : List Word32
  clampLo   : Word32
  clampHi   : Word32
  outFmt    : Nat
  sr        : Bool
  toSampler : Bool
  expn      : Bool
  norm      : Bool
  min       : Bool
  max       : Bool
  sumAcc    : Bool
  sum       : Bool
  clampEn   : Bool
  biasEn    : Bool
  scaleMode : Nat
  idxBase   : Nat
  dst       : Nat
  dstStride : Nat
  sumDst    : Nat
  ctx0      : Nat
deriving DecidableEq, Repr

/-- `n` little-endian FP32 values at `off`. -/
def fp32s (bs : List Byte) (off n : Nat) : List Word32 :=
  (List.range n).map fun i => BitVec.ofNat 32 (leAt bs (off + 4 * i) 4)

/-- The drain descriptor in 544 bytes (R78, R79). -/
def drainDesc (bs : List Byte) : DrainDesc :=
  let w := leAt bs 0x208 4
  { scale := fp32s bs 0 64, bias := fp32s bs 0x100 64
    clampLo := BitVec.ofNat 32 (leAt bs 0x200 4), clampHi := BitVec.ofNat 32 (leAt bs 0x204 4)
    outFmt := bitsOf w 20 4, sr := bitOf w 19, toSampler := bitOf w 18, expn := bitOf w 17, norm := bitOf w 16
    min := bitOf w 15, max := bitOf w 14, sumAcc := bitOf w 13, sum := bitOf w 12
    clampEn := bitOf w 7, biasEn := bitOf w 6, scaleMode := bitsOf w 4 2
    idxBase := leAt bs 0x20C 4 % 2 ^ 24, dst := leAt bs 0x210 4, dstStride := leAt bs 0x214 4
    sumDst := leAt bs 0x218 4, ctx0 := leAt bs 0x21C 4 % 64 }

/-- Whether a DRAIN.RED uses contexts (R86). -/
def DrainDesc.usesCtx (d : DrainDesc) : Bool := d.max || d.min || d.norm || d.expn
/-- Whether a DRAIN.RED writes contexts (R97). -/
def DrainDesc.writesCtx (d : DrainDesc) : Bool := d.max || d.min || d.norm
/-- Whether a DRAIN.RED consumes generator outputs (R93, R119). -/
def DrainDesc.consumes (d : DrainDesc) : Bool := d.sr && (d.outFmt ≤ 8 || d.outFmt == 0xA)

/-- A sampler descriptor (R127, R128). -/
structure SampDesc where
  out       : Nat
  seg       : Nat
  rule      : Bool
  chain     : Bool
  phaseAdv  : Bool
  maskEn    : Bool
  floors    : Bool
  ctx0      : Nat
  paramA    : Word32
  paramB    : Word32
  thresh    : Nat
  cls       : Byte
  colMask   : Nat
  dst       : Nat
  dstStride : Nat
  src       : Nat
  srcStride : Nat
  idxBase   : Nat
  old       : Nat
  oldStride : Nat
  maskAddr  : Nat
  maskStride : Nat
  span      : Nat
deriving DecidableEq, Repr

/-- The sampler descriptor in 96 bytes (R127, R128). -/
def sampDesc (bs : List Byte) : SampDesc :=
  let w := leAt bs 0 4
  { out := bitsOf w 28 4, seg := bitsOf w 25 3, rule := bitOf w 24, chain := bitOf w 23, phaseAdv := bitOf w 22
    maskEn := bitOf w 21, floors := bitOf w 20, ctx0 := leAt bs 4 4 % 64
    paramA := BitVec.ofNat 32 (leAt bs 8 4), paramB := BitVec.ofNat 32 (leAt bs 0xC 4)
    thresh := leAt bs 0x10 4, cls := BitVec.ofNat 8 (leAt bs 0x14 4), colMask := leAt bs 0x18 8
    dst := leAt bs 0x20 4, dstStride := leAt bs 0x24 4, src := leAt bs 0x28 4, srcStride := leAt bs 0x2C 4
    idxBase := leAt bs 0x30 4 % 2 ^ 24, old := leAt bs 0x34 4, oldStride := leAt bs 0x38 4
    maskAddr := leAt bs 0x3C 4, maskStride := leAt bs 0x40 4, span := leAt bs 0x44 4 }

/-- A memory reference (R203). -/
inductive MemRef where
  | device (addr : Nat)
  | own (offset : Nat)
  | croft (n : Nat) (offset : Nat)
  | reserved
deriving DecidableEq, Repr

/-- The memory reference in a 64-bit word (R203). -/
def memRef (w : Nat) : MemRef :=
  match bitsOf w 62 2 with
  | 0 => .device (bitsOf w 0 43)
  | 1 => .own (bitsOf w 0 26)
  | 2 => .croft (bitsOf w 26 8) (bitsOf w 0 26)
  | _ => .reserved

/-- The address within its space. -/
def MemRef.offset : MemRef → Nat
  | .device a => a
  | .own o => o
  | .croft _ o => o
  | .reserved => 0

/-- A move descriptor (R204); COPY carries the same shape (R315). -/
structure MoveDesc where
  src       : MemRef
  dst       : MemRef
  rowBytes  : Nat
  rows      : Nat
  srcStride : Nat
  dstStride : Nat
deriving DecidableEq, Repr

/-- The move descriptor in 32 bytes (R204). -/
def moveDesc (bs : List Byte) : MoveDesc :=
  { src := memRef (leAt bs 0 8), dst := memRef (leAt bs 8 8), rowBytes := leAt bs 0x10 4, rows := leAt bs 0x14 4
    srcStride := leAt bs 0x18 4, dstStride := leAt bs 0x1C 4 }

/-- Whether ROW_BYTES, ROWS and the strides lie within the limits of R204, for MOVE.ZERO too: it ignores SRC alone. -/
def MoveDesc.shapeOk (d : MoveDesc) : Bool :=
  d.rowBytes % 32 == 0 && 32 ≤ d.rowBytes && d.rowBytes ≤ 2 ^ 26 && 1 ≤ d.rows && d.rows ≤ 2 ^ 20
    && d.srcStride % 32 == 0 && d.dstStride % 32 == 0

/-- A mesh descriptor (R205). -/
structure MeshDesc where
  src    : Nat
  dst    : Nat
  length : Nat
  dev    : Nat
  croft  : Nat
  result : Nat
  mask   : Nat
deriving DecidableEq, Repr

/-- The mesh descriptor in 64 bytes (R205). -/
def meshDesc (bs : List Byte) : MeshDesc :=
  let t := leAt bs 0xC 4
  { src := leAt bs 0 4, dst := leAt bs 4 4, length := leAt bs 8 4, dev := bitsOf t 15 15, croft := bitsOf t 7 8
    result := leAt bs 0x10 4, mask := leAt bs 0x20 32 }

/-- A FIELD.LOAD descriptor (R169, R170). -/
structure LoadDesc where
  control  : Nat
  ctx      : Nat
  ctxWord  : Nat
  model    : Nat
  sched    : Nat
  state    : Nat
  snap     : Nat
  tail     : Nat
deriving DecidableEq, Repr

/-- The FIELD.LOAD descriptor in 32 bytes (R169). -/
def loadDesc (bs : List Byte) : LoadDesc :=
  { control := leAt bs 0 4, ctx := leAt bs 4 4 % 64, ctxWord := leAt bs 4 4, model := leAt bs 8 4
    sched := leAt bs 0xC 4, state := leAt bs 0x10 4, snap := leAt bs 0x14 4, tail := leAt bs 0x18 8 }

/-- MODEL of the CONTROL word (R170). -/
def LoadDesc.hasModel (d : LoadDesc) : Bool := bitOf d.control 0
/-- SCHED (R170). -/
def LoadDesc.hasSched (d : LoadDesc) : Bool := bitOf d.control 1
/-- STATES (R170). -/
def LoadDesc.hasStates (d : LoadDesc) : Bool := bitOf d.control 2
/-- HISTORY (R170). -/
def LoadDesc.hasHistory (d : LoadDesc) : Bool := bitOf d.control 3

/-- The run context of a FIELD descriptor: CTX at offset 4 in [5:0] (R169, R175, R189, R190). -/
def fieldCtx (bs : List Byte) : Nat := leAt bs 4 4 % 64

/-- The bytes of a descriptor by its operation (R78, R127, R169, R175, R189, R190, R204, R205). -/
def descSize : Op → Nat
  | .red | .emit => 544
  | .bern | .gibbs | .gumb | .take | .mask | .fill => 96
  | .put | .mcast => 64
  | _ => 32

end Sys2Proof.Machine
end

