-- ==== Sys2Proof/Machine/MillUnit.lean ====
section
/-!
DEFINITION. What a Mill computes (02_mill_arithmetic.md R49 to R75): operand pairs, the accumulation order of one
element, tiles and their checks. Everything is a function of the operands, the Granary bytes and the tile.
-/

namespace Sys2Proof.Machine

/-- What R49 says of an operand pair: the class, the products per cell, the default group size. -/
structure PairInfo where
  isInt    : Bool
  products : Nat
  defaultG : Nat
deriving DecidableEq, Repr

/-- The operand pairs of R49. -/
def pairInfo (i w : OpFmt) (mx : Bool) : Option PairInfo :=
  match i, w, mx with
  | .s4, .s4, false => some ⟨true, 2, 16⟩
  | .u4, .s4, false => some ⟨true, 2, 16⟩
  | .s8, .s8, false => some ⟨true, 1, 16⟩
  | .u8, .s8, false => some ⟨true, 1, 16⟩
  | .s8, .s8, true => some ⟨false, 1, 16⟩
  | .e2m1, .e2m1, _ => some ⟨false, 2, 16⟩
  | .e4m3, .e4m3, _ => some ⟨false, 1, 16⟩
  | .e4m3, .e5m2, _ => some ⟨false, 1, 16⟩
  | .e5m2, .e4m3, _ => some ⟨false, 1, 16⟩
  | .e5m2, .e5m2, _ => some ⟨false, 1, 16⟩
  | .bf16, .bf16, false => some ⟨false, 1, 8⟩
  | .fp16, .fp16, false => some ⟨false, 1, 8⟩
  | .fp32, .fp32, false => some ⟨false, 1, 4⟩
  | _, _, _ => none

/-- The pair an instruction names, when both codes are defined and R49 lists it. -/
def MillOp.pair (o : MillOp) : Option PairInfo :=
  match opFmt o.ifmt, opFmt o.wfmt with
  | some i, some w => pairInfo i w o.mx
  | _, _ => none

/-- The group size a G code chooses (R50). -/
def groupSize (code dflt : Nat) : Nat :=
  match code with
  | 0 => dflt
  | 1 => 4
  | 2 => 8
  | _ => 16

/-- The group size of an instruction (R50). -/
def MillOp.g (o : MillOp) : Nat := groupSize o.gCode ((o.pair.map (·.defaultG)).getD 16)

/-- K_pass of an instruction (R49). -/
def MillOp.kPass (o : MillOp) : Nat := 64 * (o.pair.map (·.products)).getD 1

/-- The passes of a K (R65). -/
def MillOp.passesOf (o : MillOp) (k : Nat) : Nat := ceilDiv k o.kPass

/-- Whether a float tile opened by this instruction is compensated (R66). -/
def MillOp.compensated (o : MillOp) (plainSum : Bool) : Bool :=
  let kt := if o.kTotal = 0 then o.k else o.kTotal
  !((o.pair.map (·.isInt)).getD true) && !plainSum && decide (o.passesOf kt * 64 / o.g > 4096)

/-- The entry width w of a tile (R72). -/
def entryWidth (isInt comp : Bool) : Nat := if isInt || comp then 8 else 4

/-- How many tiles of a shape a bank holds, capped at 32 (R72). -/
def tileCount (m w : Nat) : Nat := min (2 ^ 18 / (m * 64 * w)) 32

/-- The first bank byte of a tile and the bytes it occupies (R72). -/
def tileSpan (num m w : Nat) : Nat × Nat := (num * m * 64 * w, m * 64 * w)

/-- Whether two byte spans share a byte. -/
def spansMeet (a b : Nat × Nat) : Bool := a.1 < b.1 + b.2 && b.1 < a.1 + a.2 && 0 < a.2 && 0 < b.2

/-- The bank bytes of an open tile. -/
def Tile.span (t : Tile) : Nat × Nat := tileSpan t.num t.m (entryWidth t.isInt t.comp)

/-- An open tile of a bank by its shape and number: a tile number counts within its shape (R72, R73; DEDUCED, log 15). -/
def findTile (bank : List Tile) (m num : Nat) : Option Tile := bank.find? (fun t => t.m == m && t.num == num)

/-- The bank with a tile replaced or added. -/
def putTile (bank : List Tile) (t : Tile) : List Tile :=
  t :: bank.filter (fun u => !(u.m == t.m && u.num == t.num))

/-- The bank without a tile (R99). -/
def closeTile (bank : List Tile) (m num : Nat) : List Tile := bank.filter (fun u => !(u.m == m && u.num == num))

/-- The mode the instruction gives or asks of its tile: class, compensated, entry width (R73). An accumulating
instruction takes the width of the open tile it names. Where no such tile is open the shape of the tile it means is unknown,
and the manual does not say which width TILE_RANGE uses then: the plain width w = 4 of its class is taken, which decides
whether TILE_RANGE or TILE_CLOSED is reported (DESIGN CHOICE, log 91). -/
def MillOp.width (o : MillOp) (plainSum : Bool) (bank : List Tile) : Nat :=
  if o.acc then
    match findTile bank o.m o.tile with
    | some t => entryWidth t.isInt t.comp
    | none => entryWidth ((o.pair.map (·.isInt)).getD false) false
  else entryWidth ((o.pair.map (·.isInt)).getD false) (o.compensated plainSum)

/-- The Granary ranges of an instruction, first byte and length (R471, R52, R53): those that can be computed, where a format
code is reserved. -/
def MillOp.ranges (o : MillOp) : List (Nat × Nat) :=
  if o.k = 0 then []
  else
    let ins := match opFmt o.ifmt with
      | some i => (List.range o.m).map fun r => (o.ia.base.toNat + r * o.ia.stride.toNat, (o.k * i.width + 7) / 8)
      | none => []
    let ws := match opFmt o.wfmt with
      | some w => [(o.wa.base.toNat, 8 * w.width), (o.wa.base.toNat + (o.k - 1) * o.wa.stride.toNat, 8 * w.width)]
      | none => []
    let nb := ceilDiv o.k 32
    let sc := if o.mx then
        (o.wsa.base.toNat, 64 * nb) :: (List.range o.m).map fun r => (o.isa.base.toNat + r * o.isa.stride.toNat, nb)
      else []
    ins ++ ws ++ sc

/-- The Granary size in bytes (R13). -/
def granarySize : Nat := 2 ^ 26

/-- Whether some byte of the ranges lies at or beyond 2^26 (R471). -/
def rangesBreak (rs : List (Nat × Nat)) : Bool := rs.any fun r => 0 < r.2 && granarySize < r.1 + r.2

/-- The fault codes an instruction meets at its start (R76, R471). -/
def MillOp.faults (o : MillOp) (plainSum : Bool) (bank : List Tile) : List Nat :=
  let defined := (opFmt o.ifmt).isSome && (opFmt o.wfmt).isSome
  let w := o.width plainSum bank
  let found := findTile bank o.m o.tile
  let isInt := (o.pair.map (·.isInt)).getD false
  let span := tileSpan o.tile o.m w
  when_ (rangesBreak o.ranges) 0x0216
    ++ when_ (defined && o.pair.isNone) 0x0301
    ++ when_ (!defined) 0x0302
    ++ when_ (o.k == 0) 0x0303
    ++ when_ (o.ia.base.toNat % 32 != 0 || o.ia.stride.toNat % 32 != 0 || o.wa.base.toNat % 32 != 0
        || o.wa.stride.toNat % 32 != 0) 0x0304
    ++ when_ (defined && o.pair.isSome && tileCount o.m w ≤ o.tile) 0x0305
    ++ when_ (defined && o.pair.isSome && !o.acc
        && bank.any (fun t => !(t.m == o.m && t.num == o.tile) && spansMeet t.span span)) 0x0306
    ++ when_ (!o.acc && found.isSome) 0x0307
    ++ when_ (o.acc && found.isNone) 0x0308
    ++ when_ (o.acc && o.pair.isSome && match found with
        | some t => t.isInt != isInt || t.g != o.g
        | none => false) 0x0309

/-- Flags raised while computing. -/
structure ElemFlags where
  ovf : Bool
  invalid : Bool
deriving DecidableEq, Repr

/-- The exact sum of a group's products, and whether it is invalid (R62, R63). -/
def groupSum (ps : List (Fval × Fval)) : Fval × Bool :=
  let prods := ps.map fun p => p.1.mul p.2
  let bad := ps.any fun p => p.1.mulInvalid p.2
  if prods.any (fun v => v == .inf true) && prods.any (fun v => v == .inf false) then (.nan, true)
  else if prods.any Fval.isNan then (.nan, bad)
  else match prods with
    | [] => (.fin false 0 0, bad)
    | v :: t => (t.foldl Fval.add v, bad)

/-- An exact rounding with its overflow (R59, R62). -/
def roundFlag (v : Fval) : Word32 × Bool := rn32Ovf v

/-- A running or bank add: rn32(a + b) with OVF and INVALID (R62). -/
def addFlag (a b : Word32) : Word32 × ElemFlags :=
  let r := rn32Ovf ((fpVal a).add (fpVal b))
  (r.1, ⟨r.2, (fpVal a).addInvalid (fpVal b)⟩)

/-- OR of flags. -/
def ElemFlags.or (a b : ElemFlags) : ElemFlags := ⟨a.ovf || b.ovf, a.invalid || b.invalid⟩

/-- The running state of one element: high and low part of the running sum, E_max and finiteness, flags. -/
structure Run where
  hi : Word32
  lo : Word32
  eMax : Option Int
  finite : Bool
  fl : ElemFlags
deriving DecidableEq, Repr

/-- The binary exponent floor(log2 |v|) of a non-zero finite FP32 value (R71). -/
def exponentOf (v : Word32) : Option Int :=
  match fpVal v with
  | .fin _ m e => if m = 0 then none else some ((Nat.log2 m : Int) + e)
  | _ => none

/-- The larger of two optional exponents. -/
def maxExp (a b : Option Int) : Option Int :=
  match a, b with
  | none, y => y
  | x, none => x
  | some x, some y => some (max x y)

/-- track() of R59 and R68, as R71 uses it. -/
def Run.track (r : Run) (v : Word32) : Run :=
  { r with eMax := maxExp r.eMax (exponentOf v), finite := r.finite && (fpVal v).isFinite }

/-- The low part of a pair whose high part is not finite is +0 (R63). -/
def lowOf (h l : Word32) : Word32 := if (fpVal h).isFinite then l else 0#32

/-- One group of a plain tile (R59). -/
def plainGroup (first : Bool) (r : Run) (ps : List (Fval × Fval)) : Run :=
  let s := groupSum ps
  let gs := rn32Ovf s.1
  let r := { r with fl := r.fl.or ⟨gs.2, s.2⟩ }
  let a := if first then (gs.1, (⟨false, false⟩ : ElemFlags)) else addFlag r.hi gs.1
  { r with hi := a.1, fl := r.fl.or a.2 }.track a.1

/-- One group of a compensated tile (R68). -/
def compGroup (first : Bool) (r : Run) (ps : List (Fval × Fval)) : Run :=
  let s := groupSum ps
  let gh := rn32Ovf s.1
  let gl := lowOf gh.1 (rn32 (s.1.add (fpVal gh.1).neg))
  let r := { r with fl := r.fl.or ⟨gh.2, s.2⟩ }
  if first then { r with hi := gh.1, lo := gl }.track gh.1
  else
    let a := addFlag r.hi gh.1
    let ts := twoSum r.hi gh.1
    { r with hi := a.1, lo := lowOf a.1 (fadd r.lo (fadd gl ts.2)), fl := r.fl.or a.2 }.track a.1

/-- Splits a pass into groups of `n` products. The fuel is the number of groups. -/
def chunks {α : Type} (n : Nat) : Nat → List α → List (List α)
  | 0, _ => []
  | fuel + 1, l => l.take n :: chunks n fuel (l.drop n)

/-- The in-array sum of one pass of a float pair (R57, R59, R68). -/
def passRun (comp : Bool) (r0 : Run) (groups : List (List (Fval × Fval))) : Run :=
  (groups.zipIdx).foldl (fun r p =>
    if comp then compGroup (p.2 == 0) r p.1 else plainGroup (p.2 == 0) r p.1) r0

/-- One pass of a float pair applied to an entry (R59, R68): `opening` overwrites it. -/
def floatPass (comp opening : Bool) (e : Entry) (groups : List (List (Fval × Fval))) : Entry × ElemFlags :=
  let bh : Word32 := e.raw.setWidth 32
  let bl : Word32 := (e.raw >>> 32).setWidth 32
  let r0 : Run := ⟨0, 0, (if opening then none else e.eMax), opening || e.finite, ⟨false, false⟩⟩
  let r := passRun comp r0 groups
  if opening then
    let r := if comp then r.track (fadd r.hi r.lo) else r.track r.hi
    (⟨(if comp then r.lo ++ r.hi else (0#32) ++ r.hi), r.eMax, r.finite⟩, r.fl)
  else
    let a := addFlag bh r.hi
    if comp then
      let ts := twoSum bh r.hi
      let l := lowOf a.1 (fadd bl (fadd r.lo ts.2))
      let r := r.track (fadd a.1 l)
      (⟨l ++ a.1, r.eMax, r.finite⟩, r.fl.or a.2)
    else
      let r := r.track a.1
      (⟨(0#32) ++ a.1, r.eMax, r.finite⟩, r.fl.or a.2)

/-- Saturation to 48 bits (R58). -/
def sat48 (v : Int) : Int × Bool :=
  if v < -(2 ^ 47) then (-(2 ^ 47), true) else if 2 ^ 47 - 1 < v then (2 ^ 47 - 1, true) else (v, false)

/-- One pass of an integer pair applied to an entry (R58). -/
def intPass (opening : Bool) (e : Entry) (ps : List (Int × Int)) : Entry × ElemFlags :=
  let v := ps.foldl (fun a p => a + p.1 * p.2) 0
  let r := if opening then (v, false) else sat48 (e.raw.toInt + v)
  (⟨BitVec.ofInt 64 r.1, none, true⟩, ⟨r.2, false⟩)

/-- The value of an E8M0 scale byte as a power of two; none for NaN (R51). -/
def e8m0 (b : Byte) : Option Int := if b.toNat = 255 then none else some ((b.toNat : Int) - 127)

/-- A scaled element value (R51): S8 elements carry 2^-6 under MX. -/
def scaledVal (f : OpFmt) (mx : Bool) (raw : Nat) (scale : Option Int) : Fval :=
  if mx then
    match scale with
    | none => .nan
    | some s => (f.decode raw).scale (s + (if f = .s8 then -6 else 0))
  else f.decode raw

/-- The raw elements of an input row padded with zeros to whole passes (R47, R53, R55). -/
def inputRow (g : Cells) (o : MillOp) (f : OpFmt) (row : Nat) : List Nat :=
  let bytes := readBytes g (o.ia.base.toNat + row * o.ia.stride.toNat) ((o.k * f.width + 7) / 8)
  let kp := o.passesOf o.k * o.kPass
  (List.range kp).map fun k => if k < o.k then elemRaw f.width bytes k else 0

/-- The bytes of weight row `k` (R53). -/
def weightBytes (g : Cells) (o : MillOp) (f : OpFmt) (k : Nat) : List Byte :=
  readBytes g (o.wa.base.toNat + k * o.wa.stride.toNat) (8 * f.width)

/-- The weights of pass `p` of the instruction issued as `seq`, as a Mill loads them into its registers (R54): the rows of the
pass's K elements and the scales of their blocks (R52, R53). -/
def MillOp.passWeights (o : MillOp) (seq p : Nat) (g : Cells) : WeightSet :=
  let k0 := p * o.kPass
  let n := min (o.k - k0) o.kPass
  { owner := some (seq, p)
    rows := match opFmt o.wfmt with
      | some f => (List.range n).map fun i => weightBytes g o f (k0 + i)
      | none => []
    scales := if o.mx then readBytes g (o.wsa.base.toNat + 64 * (k0 / 32)) (64 * ceilDiv n 32) else [] }

/-- Pass `p` begins (R54): its weights, in the shadow registers or loaded now, become active, and those of the instruction's
next pass load into the shadow registers. -/
def MillRegs.begin (m : MillRegs) (o : MillOp) (seq p : Nat) (g : Cells) : MillRegs where
  active := if m.shadow.owner = some (seq, p) then m.shadow else o.passWeights seq p g
  shadow := if p + 1 < o.passesOf o.k then o.passWeights seq (p + 1) g else m.shadow

/-- The passes of an instruction in order: the weights each multiplies with, and the registers as the last pass leaves them. The
first pass began when the instruction started. -/
def MillRegs.run (m : MillRegs) (o : MillOp) (seq : Nat) (g : Cells) : List WeightSet × MillRegs :=
  (List.range (o.passesOf o.k)).foldl (fun s p =>
    let r := if s.2.active.owner = some (seq, p) then s.2 else s.2.begin o seq p g
    (s.1 ++ [r.active], r)) ([], m)

/-- The raw weights of element `i` of a pass, one for each column (R53). -/
def weightRow (s : WeightSet) (f : OpFmt) (i : Nat) : List Nat :=
  let bytes := s.rows.getD i []
  (List.range 64).map fun j => elemRaw f.width bytes j

/-- Input scale of row `row`, block `b` (R52). -/
def inputScale (g : Cells) (o : MillOp) (row b : Nat) : Option Int :=
  e8m0 (readByte g (o.isa.base.toNat + row * o.isa.stride.toNat + b))

/-- Weight scale of block `b` of a pass, column `j` (R52). -/
def weightScale (s : WeightSet) (b j : Nat) : Option Int := e8m0 (s.scales.getD (64 * b + j) 0)

/-- The decoded input elements of a row: +0 beyond K (R55). -/
def inputVals (g : Cells) (o : MillOp) (f : OpFmt) (row : Nat) : List Fval :=
  let scales := ((List.range (ceilDiv o.k 32)).map fun b => if o.mx then inputScale g o row b else some 0).toArray
  ((inputRow g o f row).zipIdx).map fun p =>
    if p.2 < o.k then scaledVal f o.mx p.1 (scales.getD (p.2 / 32) (some 0)) else .fin false 0 0

/-- The decoded weights of every K element, one array of columns each; +0 beyond K (R55). -/
def weightVals (sets : List WeightSet) (o : MillOp) (f : OpFmt) : List (Array Fval) :=
  (List.range (o.passesOf o.k * o.kPass)).map fun k =>
    if k < o.k then
      let s := sets.getD (k / o.kPass) .zero
      let i := k % o.kPass
      (((weightRow s f i).zipIdx).map fun p =>
        scaledVal f o.mx p.1 (if o.mx then weightScale s (i / 32) p.2 else some 0)).toArray
    else (List.replicate 64 (Fval.fin false 0 0)).toArray

/-- The integer value of an exact element. -/
def Fval.toInt (v : Fval) : Int := floorDy (Fval.mantAt v.exp v) v.exp

/-- Every pass of an instruction applied to one entry (R58 to R61, R68). The list holds the element pairs of the
entry in increasing K. -/
def elementPasses (o : MillOp) (isInt comp : Bool) (e : Entry) (ps : List (Fval × Fval)) : Entry × ElemFlags :=
  let per := o.kPass
  let n := ps.length / per
  ((chunks per n ps).zipIdx).foldl (fun s p =>
    let opening := !o.acc && p.2 == 0
    let r := if isInt then intPass opening s.1 (p.1.map fun q => (q.1.toInt, q.2.toInt))
      else floatPass comp opening s.1 (chunks (o.g * (per / 64)) (64 / o.g) p.1)
    (r.1, s.2.or r.2)) (e, ⟨false, false⟩)

/-- An entry before any pass. -/
def Entry.zero : Entry := ⟨0, none, true⟩

/-- The tile an instruction opens (R60, R66, R73), before its passes. -/
def MillOp.openTile (o : MillOp) (plainSum : Bool) : Tile where
  num := o.tile
  m := o.m
  isInt := (o.pair.map (·.isInt)).getD false
  comp := o.compensated plainSum
  g := o.g
  entries := List.replicate (o.m * 64) Entry.zero
  groups := 0
  passes := 0
  flags := ⟨false, false, false, false⟩

/-- BOUND_VOID of a tile's group count (R70). -/
def boundVoidOf (t : Tile) (groups : Nat) : Bool :=
  !t.isInt && (if t.comp then decide (groups > 2 ^ 24) else decide (groups > 4096))

/-- The instruction applied to its tile (R57 to R71), each pass with the weights that were active in it (R54). -/
def MillOp.apply (o : MillOp) (sets : List WeightSet) (g : Cells) (t : Tile) : Tile :=
  match opFmt o.ifmt, opFmt o.wfmt with
  | some fi, some fw =>
    let ws := weightVals sets o fw
    let rows := (List.range o.m).map fun r => inputVals g o fi r
    let outs := (rows.zipIdx).flatMap fun row =>
      (List.range 64).map fun j =>
        let ps := List.zipWith (fun x w => (x, w.getD j (.fin false 0 0))) row.1 ws
        elementPasses o t.isInt t.comp (t.entries.getD (row.2 * 64 + j) Entry.zero) ps
    let p := o.passesOf o.k
    let groups := satAdd 32 t.groups (p * 64 / o.g)
    { t with
      entries := outs.map (·.1)
      groups := groups
      passes := satAdd 32 t.passes p
      flags := { t.flags with
        ovf := t.flags.ovf || outs.any (·.2.ovf)
        invalid := t.flags.invalid || outs.any (·.2.invalid)
        boundVoid := t.flags.boundVoid || boundVoidOf t groups } }
  | _, _ => t

end Sys2Proof.Machine
end

