-- ==== Sys2Proof/Machine/DrainUnit.lean ====
section
/-!
DEFINITION. What a drain computes (03_drain_and_reductions.md R80 to R96): the epilogue, the reductions, the
normalisation pair, output conversion and the row sums. Everything is a function of the tile, the descriptor, the
contexts, the Granary and the generators of the sampler row.
-/

namespace Sys2Proof.Machine

/-- The resolved value of an entry as an exact value (R69). -/
def resolved (t : Tile) (e : Entry) : Fval :=
  if t.isInt then ofDy e.raw.toInt 0
  else
    let h : Word32 := e.raw.setWidth 32
    if t.comp then fpVal (fadd h ((e.raw >>> 32).setWidth 32)) else fpVal h

/-- The scale factor a_j (R81). -/
def DrainDesc.scaleAt (d : DrainDesc) (j : Nat) : Word32 :=
  match d.scaleMode with
  | 1 => d.scale.getD 0 0
  | 2 => d.scale.getD j 0
  | _ => 0x3F800000#32

/-- The bias b_j (R81). -/
def DrainDesc.biasAt (d : DrainDesc) (j : Nat) : Word32 := if d.biasEn then d.bias.getD j 0 else 0#32

/-- The clamp of R82. -/
def DrainDesc.clamp (d : DrainDesc) (y : Word32) : Word32 :=
  if !d.clampEn || isNan32 y then y
  else
    let y := if !isNan32 d.clampLo && flt y d.clampLo then d.clampLo else y
    if !isNan32 d.clampHi && flt d.clampHi y then d.clampHi else y

/-- The epilogue of one element (R80 step 2, R81, R82), with the OVF and INVALID it sets. -/
def DrainDesc.epilogue (d : DrainDesc) (x : Fval) (j : Nat) : Word32 × ElemFlags :=
  if d.outFmt = 0xB then (rn32 x, ⟨false, false⟩)
  else
    let a := fpVal (d.scaleAt j)
    let b := fpVal (d.biasAt j)
    let p := x.mul a
    let r := rn32Ovf (p.add b)
    (d.clamp r.1, ⟨r.2, x.mulInvalid a || p.addInvalid b⟩)

/-- tree_sum over a row (R85). -/
def rowSum (ys : List Word32) : Word32 := treeSum 6 ys

/-- One element folded into the running maximum (R83, R84). -/
def foldMax (s : Word32 × Nat) (y : Word32) (idx : Nat) : Word32 × Nat :=
  if maxKey s.1 < maxKey y || (maxKey y == maxKey s.1 && idx < s.2) then (y, idx) else s

/-- One element folded into the running minimum (R83, R84). -/
def foldMin (s : Word32 × Nat) (y : Word32) (idx : Nat) : Word32 × Nat :=
  if minKey y < minKey s.1 || (minKey y == minKey s.1 && idx < s.2) then (y, idx) else s

/-- A row folded into a running pair; a fresh context takes the first element (R84). -/
def foldRow (f : Word32 × Nat → Word32 → Nat → Word32 × Nat) (fresh : Bool) (s : Word32 × Nat) (base : Nat)
    (ys : List Word32) : Word32 × Nat :=
  let s0 := if fresh then (ys.getD 0 0, base) else s
  (ys.zipIdx).foldl (fun s p => f s p.1 (base + p.2)) s0

/-- The maximum of a row under R83. -/
def rowMaxOf (ys : List Word32) : Word32 := ys.foldl (fun a y => if maxKey a < maxKey y then y else a) (ys.getD 0 0)

/-- Whether an FP32 encoding is +infinity. -/
def isPosInf (x : Word32) : Bool := x == 0x7F800000#32

/-- NORM on one row (R89); the flag is INVALID. -/
def normRow (c : Ctx) (ys : List Word32) : Ctx × Bool :=
  let mt := rowMaxOf ys
  let m := c.rowMax
  if isNan32 mt || isNan32 m || isPosInf mt || isPosInf m then
    ({ c with rowMax := if isNan32 mt || isNan32 m then 0x7FC00000#32 else 0x7F800000#32
              expHi := 0x7FC00000#32, expLo := 0#32 }, true)
  else
    let mn := if maxKey m < maxKey mt then mt else m
    if mn = 0xFF800000#32 then (c, false)
    else
      let k := rexp (fsub m mn)
      let t := rowSum (ys.map fun y => rexp (fsub y mn))
      if c.comp then
        let p := twoSum (fmul c.expHi k) t
        ({ c with rowMax := mn, expHi := p.1, expLo := fadd (fmul c.expLo k) p.2 }, false)
      else ({ c with rowMax := mn, expHi := fadd (fmul c.expHi k) t }, false)

/-- The resolved EXP_SUM (R87, R90). -/
def Ctx.expSum (c : Ctx) : Word32 := if c.comp then fadd c.expHi c.expLo else c.expHi

/-- rn32(1 / s) for a finite non-zero s (R90). -/
def recip (s : Word32) : Word32 :=
  match fpVal s with
  | .fin neg m e => rn32Rat neg (dyRat m e).2 (dyRat m e).1
  | _ => 0x7FC00000#32

/-- EXPN on one row (R90); the flag is INVALID. -/
def expnRow (c : Ctx) (ys : List Word32) : List Word32 × Bool :=
  let s := c.expSum
  if !(fpVal c.rowMax).isFinite || !(fpVal s).isFinite || (fpVal s).isZero then
    (ys.map fun _ => 0x7FC00000#32, true)
  else
    let q := recip s
    (ys.map fun y => fmul (rexp (fsub y c.rowMax)) q, false)

/-- The context update of MAX, MIN and NORM for one row (R84, R86, R89); the flag is INVALID. -/
def updateCtx (d : DrainDesc) (tileComp : Bool) (c : Ctx) (ys : List Word32) : Ctx × Bool :=
  if !d.writesCtx then (c, false)
  else
    let fresh := c.tiles == 0
    let c := if fresh && d.norm then { c with comp := tileComp } else c
    let c := if d.max then
        let p := foldRow foldMax fresh (c.redMax, c.redMaxIdx.toNat) d.idxBase ys
        { c with redMax := p.1, redMaxIdx := BitVec.ofNat 24 p.2 }
      else c
    let c := if d.min then
        let p := foldRow foldMin fresh (c.redMin, c.redMinIdx.toNat) d.idxBase ys
        { c with redMin := p.1, redMinIdx := BitVec.ofNat 24 p.2 }
      else c
    let r := if d.norm then normRow c ys else (c, false)
    ({ r.1 with tiles := BitVec.ofNat 24 (satAdd 24 r.1.tiles.toNat 1) }, r.2)

/-- The bytes of an output row (R91, R96). -/
def outRowBytes (fmt w : Nat) : Nat := if fmt = 0xB then 64 * w else if fmt = 0xC then 0 else 8 * outWidth fmt

/-- Conversion of one element (R92, R93). -/
def convElem (d : DrainDesc) (y : Word32) (u : Nat) : Conv :=
  if d.consumes then convSr d.outFmt y u else convRne d.outFmt y

/-- The bytes a row writes (R80 step 5, R91, R96) with the flags it sets; `es` are the row's bank entries. -/
def convRow (d : DrainDesc) (t : Tile) (es : List Entry) (zs : List Word32) (us : List Nat) : List Byte × ElemFlags :=
  if d.outFmt = 0xC then ([], ⟨false, false⟩)
  else if d.outFmt = 0xB then
    (es.flatMap fun e => leBytes (entryWidth t.isInt t.comp) e.raw.toNat, ⟨false, false⟩)
  else
    let cs := (zs.zipIdx).map fun p => convElem d p.1 (us.getD p.2 0)
    (packElems (outWidth d.outFmt) (cs.map (·.raw)), ⟨cs.any (·.ovf), cs.any (·.invalid)⟩)

/-- What one DRAIN.RED works on and leaves: Granary bytes written, contexts, flags and generators. -/
structure DrainAcc where
  granary : Cells
  poison  : List Nat
  ctxs    : List Ctx
  flags   : ElemFlags
  gens    : List Gen
  handed  : List (List Word32)
deriving DecidableEq, Repr

/-- The 8-byte words a write covers wholly lose their poison; a narrower write keeps it (R378). -/
def unpoison (p : List Nat) (a n : Nat) : List Nat := p.filter fun w => !(a ≤ w && w + 8 ≤ a + n)

/-- A Granary write with the poison rule of R378. -/
def DrainAcc.put (s : DrainAcc) (a : Nat) (bs : List Byte) : DrainAcc :=
  { s with granary := writeBytes s.granary a bs, poison := unpoison s.poison a bs.length }

/-- Row `i` of a DRAIN.RED (R80). Rows are written one after the other, each row's output before its sum: the manual gives no
order of the two writes where output rows and the SUM_DST vector overlap (DESIGN CHOICE, log 91). -/
def drainRow (d : DrainDesc) (t : Tile) (fam : Bool) (s : DrainAcc) (i : Nat) : DrainAcc :=
  let es := (List.range 64).map fun j => t.entries.getD (i * 64 + j) Entry.zero
  let eps := (es.zipIdx).map fun p => d.epilogue (resolved t p.1) p.2
  let ys := eps.map (·.1)
  let fl : ElemFlags := ⟨eps.any (·.2.ovf), eps.any (·.2.invalid)⟩
  let ci := d.ctx0 + i
  let c0 := s.ctxs[ci]?
  let cu := c0.map fun c => updateCtx d t.comp c ys
  let ctxs := match cu with
    | some r => s.ctxs.set ci r.1
    | none => s.ctxs
  let normBad := (cu.map (·.2)).getD false
  let ex := match c0 with
    | some c => if d.expn && d.outFmt != 0xB then expnRow c ys else (ys, false)
    | none => (ys, false)
  let us := if d.consumes then s.gens.map fun g => u16Slice (genOut g) 0 else []
  let gens := if d.consumes then s.gens.map (genStep fam) else s.gens
  let out := convRow d t es ex.1 us
  let s := { s with
    ctxs := ctxs
    flags := (s.flags.or fl).or ⟨out.2.ovf, out.2.invalid || normBad || ex.2⟩
    gens := gens
    handed := if d.toSampler then s.handed ++ [ys] else s.handed }
  let s := if out.1.isEmpty then s else s.put (d.dst + i * d.dstStride) out.1
  if d.sum then
    let a := d.sumDst + 4 * i
    let ti := rowSum ys
    let v := if d.sumAcc then fadd (BitVec.ofNat 32 (readLe s.granary a 4)) ti else ti
    s.put a (leBytes 4 v.toNat)
  else s

/-- CANCEL of a tile (R71). -/
def cancelOf (t : Tile) : Bool :=
  !t.isInt && t.entries.any fun e =>
    match e.eMax, resolved t e with
    | some em, .fin _ m x => e.finite && (m == 0 || decide ((Nat.log2 m : Int) + x < em - 16))
    | _, _ => false

/-- Whether a DRAIN.RED's reports use the logical index: a reduction or the hand-over (R100). -/
def DrainDesc.usesIdx (d : DrainDesc) : Bool := d.max || d.min || d.toSampler

/-- The Granary ranges a DRAIN.RED writes (R471). -/
def DrainDesc.writes (d : DrainDesc) (m w : Nat) : List (Nat × Nat) :=
  (if outRowBytes d.outFmt w = 0 then []
    else (List.range m).map fun i => (d.dst + i * d.dstStride, outRowBytes d.outFmt w))
  ++ (if d.sum then [(d.sumDst, 4 * m)] else [])

/-- The ranges a DRAIN.EMIT writes (R87). -/
def DrainDesc.emitWrites (d : DrainDesc) (m : Nat) : List (Nat × Nat) :=
  (List.range m).map fun i => (d.dst + i * d.dstStride, 32)

/-- Whether a context in the range is not valid (R86, R100). -/
def ctxInvalid (ctxs : List Ctx) (c0 m : Nat) : Bool :=
  (List.range m).any fun i => match ctxs[c0 + i]? with
    | some c => !c.valid
    | none => false

/-- The fault codes of a DRAIN.RED that its descriptor decides (R100). RAW bypasses the epilogue and so uses no SCALE_MODE
(R80). -/
def DrainDesc.redFaults (d : DrainDesc) (m : Nat) (tile : Option Tile) (ctxs : List Ctx) : List Nat :=
  let w := match tile with
    | some t => entryWidth t.isInt t.comp
    | none => 4
  when_ (d.usesCtx && 64 < d.ctx0 + m) 0x020B
    ++ when_ (0xD ≤ d.outFmt || (d.scaleMode == 3 && d.outFmt != 0xB) || (d.norm && d.expn)) 0x020D
    ++ when_ (d.usesCtx && ctxInvalid ctxs d.ctx0 m) 0x020F
    ++ when_ (d.usesIdx && 2 ^ 24 - 1 < d.idxBase + 63) 0x0210
    ++ when_ ((d.outFmt != 0xC && (d.dst % 32 != 0 || d.dstStride % 32 != 0)) || (d.sum && d.sumDst % 4 != 0)) 0x0211
    ++ when_ (rangesBreak (d.writes m w)) 0x0216

/-- The fault codes of a DRAIN.EMIT that its descriptor decides (R100). -/
def DrainDesc.emitFaults (d : DrainDesc) (m : Nat) (ctxs : List Ctx) : List Nat :=
  when_ (64 < d.ctx0 + m) 0x020B
    ++ when_ (ctxInvalid ctxs d.ctx0 m) 0x020F
    ++ when_ (d.dst % 32 != 0 || d.dstStride % 32 != 0) 0x0211
    ++ when_ (rangesBreak (d.emitWrites m)) 0x0216

/-- The 32-byte record of DRAIN.EMIT (R87). -/
def Ctx.emitRecord (c : Ctx) : List Byte :=
  ([c.rowMax, c.expSum, c.redMax, c.redMaxIdx.setWidth 32, c.redMin, c.redMinIdx.setWidth 32].flatMap
    fun v => leBytes 4 v.toNat) ++ List.replicate 8 0

end Sys2Proof.Machine
end

