-- ==== Sys2Proof/Machine/SamplerUnit.lean ====
section
/-!
DEFINITION. What a sampler row computes (05_dense_sampling.md R125 to R150): the checks of an instruction, its draws and
what it writes. Everything is a function of the descriptor, the source rows, the contexts, the Granary and the generators.
-/

namespace Sys2Proof.Machine

/-- The columns of a direct segment; none for running mode and the reserved code (R128). -/
def segColumns (seg : Nat) : Option Nat :=
  match seg with
  | 1 => some 2
  | 2 => some 4
  | 3 => some 8
  | 4 => some 16
  | 5 => some 32
  | 6 => some 64
  | _ => none

/-- Whether OUT, SRC and SEG form a combination of R125. -/
def sampCombo (op : Op) (src : Nat) (d : SampDesc) : Bool :=
  match op with
  | .bern => (src == 1 || src == 2) && (d.out == 0 || d.out == 1)
  | .gibbs => (src == 1 || src == 2) && d.out == 1
  | .gumb => (src == 1 || src == 2) && d.seg != 7 && (if d.seg = 0 then d.out == 5 else d.out == 1 || d.out == 2)
  | .take => src == 0 && (d.out == 2 || d.out == 1)
  | .mask => if src = 0 then d.out == 0 || d.out == 1 else (src == 1 || src == 2) && d.out == 3
  | _ => src == 0 && (d.out == 3 || d.out == 4)

/-- Whether the instruction uses contexts (R125). -/
def sampUsesCtx (op : Op) (d : SampDesc) : Bool :=
  match op with
  | .take => true
  | .gumb => d.seg == 0 || d.chain
  | .gibbs => d.chain
  | _ => false

/-- The outputs each lane gives (R125, R131). -/
def sampOutputs (op : Op) (d : SampDesc) (m : Nat) : Nat :=
  match op with
  | .take => 0
  | .fill => if d.rule then 2 * m else m
  | _ => m

/-- The bytes of an output row (R130). -/
def sampRowBytes (op : Op) (d : SampDesc) : Nat :=
  match d.out with
  | 0 => 8
  | 1 => if op = .take then d.span else 64
  | 2 => if op = .take then 4 else 4 * (64 / (segColumns d.seg).getD 64)
  | 3 => 256
  | 4 => 128
  | _ => 0

/-- Whether a value is finite. -/
def finite32 (x : Word32) : Bool := (fpVal x).isFinite

/-- The Granary ranges the used fields name: those written, then those read (R129, R471). -/
def sampWrites (op : Op) (d : SampDesc) (m : Nat) : List (Nat × Nat) :=
  if d.out = 5 then [] else (List.range m).map fun i => (d.dst + i * d.dstStride, sampRowBytes op d)

/-- See `sampWrites`. -/
def sampReads (op : Op) (src : Nat) (d : SampDesc) (m : Nat) : List (Nat × Nat) :=
  (if src = 2 then (List.range m).map fun i => (d.src + i * d.srcStride, 256) else [])
  ++ (if op = .gibbs ∧ d.rule then (List.range m).map fun i => (d.old + i * d.oldStride, 64) else [])
  ++ (if op = .gumb ∧ d.maskEn then
        (if d.floors then [(d.maskAddr, 4 * m)] else (List.range m).map fun i => (d.maskAddr + i * d.maskStride, 8))
      else [])

/-- The columns of COLMASK. -/
def maskColumns (mask : Nat) : List Nat := (List.range 64).filter fun j => bitOf mask j

/-- The breach of R150 in a job of the reference class. -/
def orderBreach (op : Op) (d : SampDesc) : Bool :=
  d.chain && match op with
    | .gibbs => (maskColumns d.colMask).length != 1
    | .gumb => match segColumns d.seg with
      | some s => decide (1 < (((maskColumns d.colMask).map (· / s)).eraseDups).length)
      | none => false
    | _ => false

/-- Whether a context is bound to another set than (set, row) (R119, R145). A context bound to the Field's set counts as bound
to another set for every sampler row, SAMP.TAKE included, though R145 speaks of another row's set (DESIGN CHOICE, log 91). -/
def boundElsewhere (g : GenBlock) (set row : Nat) : Bool :=
  g.bound && (g.set.toNat != set || (set == 1 && g.row.toNat != row))

/-- The contexts c0 .. c0 + m - 1 that exist. -/
def ctxRange (ctxs : List Ctx) (c0 m : Nat) : List Ctx := (ctxs.drop c0).take m

/-- The SAMP_PARAM breach of R129. -/
def sampParamBad (op : Op) (src : Nat) (d : SampDesc) : Bool :=
  match op with
  | .bern | .gibbs => !finite32 d.paramA || bitOf d.paramA.toNat 31
  | .gumb => !finite32 d.paramA || bitOf d.paramA.toNat 31 || (src == 2 && decide (2 ^ 24 - 1 < d.idxBase + 63))
  | .fill => !finite32 d.paramA || !finite32 d.paramB
  | .mask => decide (2 ^ 24 < d.thresh) || (src != 0 && !finite32 d.paramB)
  | _ => false

/-- The SAMP_FORMAT breach of R129. -/
def sampFormatBad (op : Op) (src : Nat) (d : SampDesc) : Bool :=
  !sampCombo op src d
    || ((d.chain || d.phaseAdv) && !(op == .gibbs || op == .gumb || op == .take))
    || (d.phaseAdv && !d.chain)
    || (d.maskEn && op != .gumb)
    || (op == .take && d.out == 1 && !(d.span == 64 || d.span == 128 || d.span == 192 || d.span == 256))

/-- The SAMP_ALIGN breach of R129. -/
def sampAlignBad (op : Op) (src desc : Nat) (d : SampDesc) : Bool :=
  desc % 32 != 0
    || (src == 2 && (d.src % 32 != 0 || d.srcStride % 32 != 0))
    || (d.out != 5 && (d.dst % 8 != 0 || d.dstStride % 8 != 0))
    || (op == .gibbs && d.rule && (d.old % 8 != 0 || d.oldStride % 8 != 0))
    || (op == .gumb && d.maskEn
        && (if d.floors then d.maskAddr % 4 != 0 else d.maskAddr % 8 != 0 || d.maskStride % 8 != 0))

/-- The fault codes of a sampler instruction that its descriptor decides (R129, R145, R149, R150, R119, R112, R471).
`free` is LANE_MODE = FREE, `reference` the reference class. -/
def sampFaults (op : Op) (row src desc m : Nat) (d : SampDesc) (ctxs : List Ctx) (count : Nat) (free reference : Bool) :
    List Nat :=
  let uses := sampUsesCtx op d
  let cs := if uses then ctxRange ctxs d.ctx0 m else []
  when_ (uses && decide (64 < d.ctx0 + m)) 0x020B
    ++ when_ (rangesBreak (sampWrites op d m ++ sampReads op src d m)) 0x0216
    ++ when_ (sampFormatBad op src d) 0x0401
    ++ when_ (sampParamBad op src d) 0x0402
    ++ when_ (sampAlignBad op src desc d) 0x0403
    ++ when_ (cs.any fun c => !c.valid || c.kind != 2) 0x0408
    ++ when_ (op == .take && cs.any fun c => boundElsewhere c.gen 1 row) 0x0409
    ++ when_ (uses && d.chain && cs.any fun c => c.cls != d.cls) 0x040A
    ++ when_ (reference && orderBreach op d) 0x040B
    ++ when_ (!free && decide (2 ^ 64 - 1 < count + sampOutputs op d m)) 0x0801
    ++ when_ (op != .take && cs.any fun c => boundElsewhere c.gen 1 row) 0x0802

/-- What a sampler instruction works on and leaves. -/
structure SampAcc where
  granary : Cells
  poison  : List Nat
  ctxs    : List Ctx
  gens    : List Gen
  invalid : Bool
  empty   : Bool
deriving DecidableEq, Repr

/-- A Granary write with the poison rule of R378. -/
def SampAcc.put (s : SampAcc) (a : Nat) (bs : List Byte) : SampAcc :=
  if bs.isEmpty then s
  else { s with granary := writeBytes s.granary a bs, poison := unpoison s.poison a bs.length }

/-- Whether a byte lies in a column that is written. -/
def colsCover (a w : Nat) (cols : List (Option Nat)) (x : Nat) : Bool := a ≤ x && (cols.getD ((x - a) / w) none).isSome

/-- Writes the columns that hold a value, `w` bytes each (R130). An 8-byte word whose every byte is written loses its poison
(R378, log 89). -/
def SampAcc.putCols (s : SampAcc) (a w : Nat) (cols : List (Option Nat)) : SampAcc :=
  { s with
    granary := (cols.zipIdx).foldl (fun g p => match p.1 with
      | some v => writeBytes g (a + w * p.2) (leBytes w v)
      | none => g) s.granary
    poison := s.poison.filter fun p => !((List.range 8).all fun b => colsCover a w cols (p + b)) }

/-- A row of draws written as BITS or U8 (R130). -/
def SampAcc.putDraws (s : SampAcc) (d : SampDesc) (i : Nat) (cols : List (Option Bool)) : SampAcc :=
  let a := d.dst + i * d.dstStride
  if d.out = 0 then
    s.put a (leBytes 8 ((cols.zipIdx).foldl (fun v p => if p.1 = some true then v + 2 ^ p.2 else v) 0))
  else s.putCols a 1 (cols.map fun c => c.map Bool.toNat)

/-- The outputs of the present states, one for each lane (R131). -/
def SampAcc.outs (s : SampAcc) : List Word64 := s.gens.map genOut

/-- Every lane steps once (R131). -/
def SampAcc.advance (s : SampAcc) (fam : Bool) : SampAcc := { s with gens := s.gens.map (genStep fam) }

/-- A Bernoulli draw on U24 (R133). -/
def bernDraw (z : Word32) (u : Word64) : Bool := u24 u < bernTh z

/-- SAMP.BERN on one row (R138). -/
def bernRow (d : SampDesc) (s : SampAcc) (i : Nat) (ys : List Word32) : SampAcc :=
  let zs := ys.map fun y => fmul d.paramA y
  let cols := (zs.zipIdx).map fun p =>
    if bitOf d.colMask p.2 then some (!isNan32 p.1 && bernDraw p.1 (s.outs.getD p.2 0)) else none
  let bad := (zs.zipIdx).any fun p => bitOf d.colMask p.2 && isNan32 p.1
  { s with invalid := s.invalid || bad }.putDraws d i cols

/-- The Metropolis threshold a of R147. -/
def metroTh (e : Word32) : Nat :=
  if flt e 0#32 then ((fpVal (rexp e)).scale 24).floor.toNat else 2 ^ 24

/-- SAMP.GIBBS on one row (R147). -/
def gibbsRow (d : SampDesc) (s : SampAcc) (i : Nat) (ys : List Word32) : SampAcc :=
  let ds := ys.map fun y => fmul d.paramA y
  let cols := (ds.zipIdx).map fun p =>
    if !bitOf d.colMask p.2 || isNan32 p.1 then none
    else
      let u := s.outs.getD p.2 0
      if d.rule then
        let x := bitOf (readByte s.granary (d.old + i * d.oldStride + p.2)).toNat 0
        let e := if x then p.1 ^^^ 0x80000000#32 else p.1
        some (if u24 u < metroTh e then !x else x)
      else some (bernDraw p.1 u)
  let bad := (ds.zipIdx).any fun p => bitOf d.colMask p.2 && isNan32 p.1
  { s with invalid := s.invalid || bad }.putDraws d i cols

/-- Whether a key and its index displace a winner (R143, R83). -/
def wins (k : Word32) (idx : Nat) (w : Word32 × Nat) : Bool :=
  maxKey w.1 < maxKey k || (maxKey k == maxKey w.1 && idx < w.2)

/-- The keys of a row: none for an element that is not eligible; and whether a NaN set INVALID (R142). -/
def gumbKeys (d : SampDesc) (s : SampAcc) (i : Nat) (ys : List Word32) : List (Option Word32) × Bool :=
  let bits := if d.maskEn && !d.floors then readLe s.granary (d.maskAddr + i * d.maskStride) 8 else 2 ^ 64 - 1
  let floor : Word32 := BitVec.ofNat 32 (readLe s.granary (d.maskAddr + 4 * i) 4)
  let taking := fun (j : Nat) => bitOf d.colMask j && bitOf bits j
  ((ys.zipIdx).map fun p =>
      if !taking p.2 || isNan32 p.1 || (d.maskEn && d.floors && flt p.1 floor) then none
      else some (ffma d.paramA (gumbel (uopen (s.outs.getD p.2 0))) p.1),
    (ys.zipIdx).any fun p => taking p.2 && isNan32 p.1)

/-- The winner of a running draw after a row (R143). -/
def runWinner (base : Nat) (w : Word32 × Nat) (keys : List (Option Word32)) : Word32 × Nat :=
  (keys.zipIdx).foldl (fun w p => match p.1 with
    | some k => if wins k (base + p.2) w then (k, base + p.2) else w
    | none => w) w

/-- The winning column of one direct segment; none when it is empty (R143). -/
def segWinner (keys : List (Option Word32)) (c0 n : Nat) : Option Nat :=
  ((List.range n).foldl (fun (w : Option (Word32 × Nat)) j =>
    match keys.getD (c0 + j) none, w with
    | none, w => w
    | some k, none => if k = 0xFF800000#32 then none else some (k, c0 + j)
    | some k, some b => if maxKey b.1 < maxKey k then some (k, c0 + j) else some b) none).map (·.2)

/-- SAMP.GUMB on one row (R142, R143). -/
def gumbRow (d : SampDesc) (s : SampAcc) (base i : Nat) (ys : List Word32) : SampAcc :=
  let ks := gumbKeys d s i ys
  let s := { s with invalid := s.invalid || ks.2 }
  match segColumns d.seg with
  | none =>
    match s.ctxs[d.ctx0 + i]? with
    | none => s
    | some c =>
      let w := runWinner base (c.drawBest, c.drawBestIdx.toNat) ks.1
      { s with ctxs := s.ctxs.set (d.ctx0 + i) { c with drawBest := w.1, drawBestIdx := BitVec.ofNat 24 w.2 } }
  | some n =>
    let segs := (List.range (64 / n)).map fun k => segWinner ks.1 (k * n) n
    let s := { s with empty := s.empty || segs.any Option.isNone }
    if d.out = 2 then
      s.put (d.dst + i * d.dstStride) (segs.flatMap fun w => leBytes 4 (match w with
        | some j => base + j
        | none => 0xFFFFFFFF))
    else
      s.putDraws d i ((List.range 64).map fun j =>
        if bitOf d.colMask j then some (segs.getD (j / n) none == some j) else none)

/-- SAMP.TAKE on one row (R144): the one-hot row is written in all its SPAN bytes whatever COLMASK is, since R130 masks
columns and R144's bytes are positions of the index (DESIGN CHOICE, log 91). -/
def takeRow (d : SampDesc) (s : SampAcc) (i : Nat) : SampAcc :=
  match s.ctxs[d.ctx0 + i]? with
  | none => s
  | some c =>
    let none_ := c.drawBest == 0xFF800000#32
    let idx := c.drawBestIdx.toNat
    let a := d.dst + i * d.dstStride
    let inside := !none_ && d.idxBase ≤ idx && idx < d.idxBase + d.span
    let bytes := if d.out = 2 then leBytes 4 (if none_ then 0xFFFFFFFF else idx)
      else (List.range d.span).map fun b => if inside && b + d.idxBase == idx then 1#8 else 0#8
    let s := s.put a bytes
    { s with
      empty := s.empty || (if d.out = 2 then none_ else !inside)
      ctxs := s.ctxs.set (d.ctx0 + i)
        { c with drawBest := 0xFF800000#32, drawBestIdx := 0, drawCount := c.drawCount + 1 } }

/-- SAMP.MASK on one row, with a source when `ys` is given (R139). -/
def maskRow (d : SampDesc) (s : SampAcc) (i : Nat) (ys : Option (List Word32)) : SampAcc :=
  let bit := fun (j : Nat) => decide (u24 (s.outs.getD j 0) < d.thresh)
  match ys with
  | none => s.putDraws d i ((List.range 64).map fun j => if bitOf d.colMask j then some (bit j) else none)
  | some ys =>
    s.putCols (d.dst + i * d.dstStride) 4 ((List.range 64).map fun j =>
      if bitOf d.colMask j then some (if bit j then (fmul (ys.getD j 0) d.paramB).toNat else 0) else none)

/-- SAMP.FILL on one row from its one or two rows of outputs (R140). -/
def fillRow (d : SampDesc) (s : SampAcc) (i : Nat) (o1 o2 : List Word64) : SampAcc :=
  let val := fun (j : Nat) =>
    let w := if d.rule then normalOf (uopen (o1.getD j 0)) (u24 (o2.getD j 0)) else uhalf (o1.getD j 0)
    ffma d.paramA w d.paramB
  let width := if d.out = 4 then 2 else 4
  s.putCols (d.dst + i * d.dstStride) width ((List.range 64).map fun j =>
    if bitOf d.colMask j then some (if d.out = 4 then (convRne 7 (val j)).raw else (val j).toNat) else none)

/-- Row `i` of a sampler instruction, with the outputs it consumes (R131). -/
def sampRow (op : Op) (d : SampDesc) (fam : Bool) (base : Nat) (rows : Option (List (List Word32))) (s : SampAcc)
    (i : Nat) : SampAcc :=
  let ys := (rows.map fun r => r.getD i []).getD []
  match op with
  | .bern => (bernRow d s i ys).advance fam
  | .gibbs => (gibbsRow d s i ys).advance fam
  | .gumb => (gumbRow d s base i ys).advance fam
  | .take => takeRow d s i
  | .mask => (maskRow d s i (rows.map fun r => r.getD i [])).advance fam
  | _ =>
    if d.rule then
      let s1 := s.advance fam
      (fillRow d { s with gens := s1.gens } i s.outs s1.outs).advance fam
    else (fillRow d s i s.outs []).advance fam

/-- The phase advance of a chain at completion (R149). -/
def phaseAdvance (c : Ctx) : Ctx :=
  if c.cls.toNat + 1 > c.lastClass.toNat then { c with cls := 0, sweeps := c.sweeps + 1 }
  else { c with cls := c.cls + 1 }

end Sys2Proof.Machine
end

