-- ==== Sys2Proof/Machine/FieldUnit.lean ====
section
/-!
DEFINITION. What the Field computes (06_lattice_field.md R157 to R190): geometry, local fields, update rules, energies,
the schedule, halo versions, snapshots and the checks of a model image. Everything is a function of the Field's
state and the generators' outputs.
-/

namespace Sys2Proof.Machine

/-- The mode of an edge (R159, R171). -/
inductive EdgeMode where
  | open_
  | wrap
  | halo (dev croft : Nat)
  | reserved
deriving DecidableEq, Repr

/-- A little-endian number of `n` bytes in an image. -/
def imgAt (img : Array Byte) (off n : Nat) : Nat :=
  leNat ((List.range n).map fun i => img.getD (off + i) 0)

/-- The edge word of edge `e` (R171). -/
def edgeWord (img : Array Byte) (e : Nat) : Nat := imgAt img (4 * e) 4

/-- The mode of edge `e` (R171). -/
def edgeMode (img : Array Byte) (e : Nat) : EdgeMode :=
  let w := edgeWord img e
  match bitsOf w 30 2 with
  | 0 => .open_
  | 1 => .wrap
  | 2 => .halo (bitsOf w 15 15) (bitsOf w 7 8)
  | _ => .reserved

/-- Whether edge `e` is in HALO mode. -/
def isHalo (img : Array Byte) (e : Nat) : Bool :=
  match edgeMode img e with
  | .halo _ _ => true
  | _ => false

/-- Whether edge `e` is in WRAP mode. -/
def isWrap (img : Array Byte) (e : Nat) : Bool := edgeMode img e == .wrap

/-- The HALO edges in the order north, east, south, west. -/
def haloEdges (img : Array Byte) : List Nat := (List.range 4).filter (isHalo img)

/-- The unit index of (x, y, z) (R171). -/
def unitIdx (x y z : Nat) : Nat := z * 16384 + y * 128 + x

/-- A signed byte of the image. -/
def imgS8 (img : Array Byte) (off : Nat) : Int := signedOf 8 (img.getD off 0).toNat
/-- J_E (R171). -/
def jE (img : Array Byte) (x y z : Nat) : Int := imgS8 img (0x40 + unitIdx x y z)
/-- J_S (R171). -/
def jS (img : Array Byte) (x y z : Nat) : Int := imgS8 img (0x8040 + unitIdx x y z)
/-- J_Z (R171). -/
def jZ (img : Array Byte) (x y : Nat) : Int := imgS8 img (0x10040 + y * 128 + x)
/-- J_WEDGE (R171). -/
def jW (img : Array Byte) (y z : Nat) : Int := imgS8 img (0x14040 + z * 128 + y)
/-- J_NEDGE (R171). -/
def jN (img : Array Byte) (x z : Nat) : Int := imgS8 img (0x14140 + z * 128 + x)
/-- Raw bias (R171). -/
def biasRaw (img : Array Byte) (x y z : Nat) : Int := signedOf 16 (imgAt img (0x14240 + 2 * unitIdx x y z) 2)

/-- The spin of a state bit. -/
def spin (b : Bool) : Int := if b then 1 else -1

/-- The spin of unit (x, y, z). -/
def spinAt (st : Array Bool) (x y z : Nat) : Int := spin (st.getD (unitIdx x y z) false)

/-- The spin across HALO edge `e` at place `p` of layer `z`, from the record that the phase uses: bit
z * 64 + floor(p / 2) (R178). -/
def haloSpin (recs : List (Option (BitVec 128))) (e p z : Nat) : Int :=
  spin (((recs.getD e none).getD 0).getLsbD (z * 64 + p / 2))

/-- The local field without HALO bonds (R161, R183). -/
def fieldInner (img : Array Byte) (st : Array Bool) (x y z : Nat) : Int :=
  biasRaw img x y z + jZ img x y * spinAt st x y (1 - z)
    + (if x < 127 then jE img x y z * spinAt st (x + 1) y z
       else if isWrap img 1 then jE img 127 y z * spinAt st 0 y z else 0)
    + (if 0 < x then jE img (x - 1) y z * spinAt st (x - 1) y z
       else if isWrap img 3 then jW img y z * spinAt st 127 y z else 0)
    + (if y < 127 then jS img x y z * spinAt st x (y + 1) z
       else if isWrap img 2 then jS img x 127 z * spinAt st x 0 z else 0)
    + (if 0 < y then jS img x (y - 1) z * spinAt st x (y - 1) z
       else if isWrap img 0 then jN img x z * spinAt st x 127 z else 0)

/-- The HALO bonds of a unit (R161, R177). -/
def fieldHalo (img : Array Byte) (recs : List (Option (BitVec 128))) (x y z : Nat) : Int :=
  (if x = 127 ∧ isHalo img 1 then jE img 127 y z * haloSpin recs 1 y z else 0)
    + (if x = 0 ∧ isHalo img 3 then jW img y z * haloSpin recs 3 y z else 0)
    + (if y = 127 ∧ isHalo img 2 then jS img x 127 z * haloSpin recs 2 x z else 0)
    + (if y = 0 ∧ isHalo img 0 then jN img x z * haloSpin recs 0 x z else 0)

/-- The heat-bath rule (R162). -/
def heatBath (beta : Nat) (f : Int) (u : Nat) : Bool :=
  u < bernTh (rn32 (ofDy (2 * beta * f) (-16))) / 256

/-- The Metropolis rule (R163): the new state. -/
def metropolis (beta : Nat) (f : Int) (u : Nat) (s : Bool) : Bool :=
  let e : Int := -(spin s) * (2 * beta * f)
  let m : Nat := if 0 ≤ e then 65536 else ((fpVal (rexp (rn32 (ofDy e (-16))))).scale 16).floor.toNat
  if u < m then !s else s

/-- COUNT of a schedule entry (R166). -/
def schedCount (v : Word64) : Nat := bitsOf v.toNat 0 32

/-- The schedule entry of sweep `w` (R167): the lowest e with w < C_e, else the highest with a non-zero COUNT. -/
def schedEntry (sched : List Word64) (w : Nat) : Word64 :=
  ((sched.foldl (fun (s : Nat × Option Word64 × Word64) v =>
    let c := s.1 + schedCount v
    (c, (if s.2.1.isSome then s.2.1 else if w < c then some v else none),
      if schedCount v = 0 then s.2.2 else v)) (0, none, 0))).2 |> fun r => r.1.getD r.2

/-- Raw beta of an entry (R166). -/
def schedBeta (v : Word64) : Nat := bitsOf v.toNat 32 16
/-- RULE of an entry (R166). -/
def schedRule (v : Word64) : Bool := bitOf v.toNat 48

/-- The four outputs of each sub-lane in a phase (R114): element 4 * lane + t. -/
def phaseOutputs (fam : Bool) (gens : List Gen) : Array Word64 :=
  (gens.flatMap fun g => (List.range 4).map fun t => genOut (genSteps fam t g)).toArray

/-- The 16-bit uniform of unit `n` of the phase's colour in row lane `lane` (R114, R164). -/
def unitUniform (outs : Array Word64) (lane n : Nat) : Nat :=
  u16Slice (outs.getD ((lane * 4 + n % 16 / 4) * 4 + n / 16) 0) (n % 4)

/-- The units of colour `c`, with their number in the row (R158, R114): (x, y, z, n). -/
def colourUnits (c : Nat) : List (Nat × Nat × Nat × Nat) :=
  (List.range 2).flatMap fun z => (List.range 128).flatMap fun y => (List.range 64).map fun n =>
    (2 * n + (c + y + z) % 2, y, z, n)

/-- One phase (R161 to R165, R183): the new states and the change of E_INT. -/
def runPhase (img : Array Byte) (st : Array Bool) (recs : List (Option (BitVec 128))) (entry : Word64)
    (outs : Array Word64) (c : Nat) : Array Bool × Int :=
  (colourUnits c).foldl (fun (a : Array Bool × Int) p =>
    let x := p.1
    let y := p.2.1
    let z := p.2.2.1
    let fi := fieldInner img st x y z
    let f := fi + fieldHalo img recs x y z
    let u := unitUniform outs (z * 128 + y) p.2.2.2
    let old := st.getD (unitIdx x y z) false
    let new := if schedRule entry then metropolis (schedBeta entry) f u old else heatBath (schedBeta entry) f u
    if new = old then a else (a.1.setIfInBounds (unitIdx x y z) new, a.2 + 2 * spin old * fi)) (st, 0)

/-- All unit coordinates. -/
def allUnits : List (Nat × Nat × Nat) :=
  (List.range 2).flatMap fun z => (List.range 128).flatMap fun y => (List.range 128).map fun x => (x, y, z)

/-- E_INT (R183). -/
def energyInt (img : Array Byte) (st : Array Bool) : Int :=
  allUnits.foldl (fun e p =>
    let x := p.1
    let y := p.2.1
    let z := p.2.2
    let s := spinAt st x y z
    let east := if x < 127 then jE img x y z * spinAt st (x + 1) y z
      else if isWrap img 1 then jE img 127 y z * spinAt st 0 y z else 0
    let south := if y < 127 then jS img x y z * spinAt st x (y + 1) z
      else if isWrap img 2 then jS img x 127 z * spinAt st x 0 z else 0
    let inter := if z = 0 then jZ img x y * spinAt st x y 1 else 0
    e - s * (east + south + inter + biasRaw img x y z)) 0

/-- E_EDGE (R183) from the neighbours' boundaries after their last sweep, both colours: element e of `v0` and `v1`
is the colour 0 and colour 1 record of edge e. -/
def energyEdge (img : Array Byte) (st : Array Bool) (v0 v1 : List (Option (BitVec 128))) : Int :=
  let pick := fun (e p z nx ny : Nat) => haloSpin (if (nx + ny + z) % 2 = 0 then v0 else v1) e p z
  let lanes := (List.range 2).flatMap fun z => (List.range 128).map fun p => (p, z)
  lanes.foldl (fun e q =>
    let p := q.1
    let z := q.2
    let a := if isHalo img 1 then jE img 127 p z * spinAt st 127 p z * pick 1 p z 0 p else 0
    let b := if isHalo img 2 then jS img p 127 z * spinAt st p 127 z * pick 2 p z p 0 else 0
    e - a - b) 0

/-- The boundary states of colour `c` on edge `e` (R178). -/
def boundaryOf (st : Array Bool) (e c : Nat) : BitVec 128 :=
  (List.range 128).foldl (fun v i =>
    let z := i / 64
    let q := 2 * (i % 64)
    let p := match e with
      | 0 => q + (c + z) % 2
      | 2 => q + (c + z + 127) % 2
      | 1 => q + (c + z + 127) % 2
      | _ => q + (c + z) % 2
    let b := match e with
      | 0 => st.getD (unitIdx p 0 z) false
      | 2 => st.getD (unitIdx p 127 z) false
      | 1 => st.getD (unitIdx 127 p z) false
      | _ => st.getD (unitIdx 0 p z) false
    if b then v ||| (1#128 <<< i) else v) 0

/-- The edge bond bytes of edge `e` in unit order (R179). -/
def edgeBonds (img : Array Byte) (e : Nat) : List Byte :=
  (List.range 2).flatMap fun z => (List.range 128).map fun p =>
    match e with
    | 0 => img.getD (0x14140 + z * 128 + p) 0
    | 2 => img.getD (0x8040 + unitIdx p 127 z) 0
    | 1 => img.getD (0x40 + unitIdx 127 p z) 0
    | _ => img.getD (0x14040 + z * 128 + p) 0

/-- The edge across an edge (R159). -/
def opposite (e : Nat) : Nat := (e + 2) % 4

/-- SOURCE of a halo record (R178). -/
def haloSource (dev croft e : Nat) : Word32 := BitVec.ofNat 32 (dev % 2 ^ 15 * 2 ^ 15 + croft % 256 * 2 ^ 7 + e)

/-- Whether a FIELD.LOAD's own model image breaks R171 or R172; `dev` and `croft` are the loading Field's. -/
def imageBad (img : Array Byte) (dev croft : Nat) : Bool :=
  let lanes := (List.range 2).flatMap fun z => (List.range 128).map fun p => (p, z)
  let modes := (List.range 4).map (edgeMode img)
  ((List.range 4).any fun e =>
      bitsOf (edgeWord img e) 0 7 != 0
        || (match edgeMode img e with
            | .halo d c => d == dev && c == croft
            | .reserved => true
            | _ => bitsOf (edgeWord img e) 7 23 != 0))
    || ((List.range 48).any fun i => img.getD (0x10 + i) 0 != 0)
    || (decide (modes.getD 1 .open_ = .wrap) != decide (modes.getD 3 .open_ = .wrap))
    || (decide (modes.getD 0 .open_ = .wrap) != decide (modes.getD 2 .open_ = .wrap))
    || (isWrap img 1 && lanes.any fun q => jW img q.1 q.2 != jE img 127 q.1 q.2)
    || (isWrap img 0 && lanes.any fun q => jN img q.1 q.2 != jS img q.1 127 q.2)
    || ((List.range 4).any fun e => decide (edgeMode img e = .open_) && (edgeBonds img e).any fun b => b != 0)

/-- The 4,096-byte state image of R173. -/
def stateImage (st : Array Bool) : List Byte :=
  (List.range 4096).map fun i =>
    BitVec.ofNat 8 ((List.range 8).foldl (fun v b => if st.getD (8 * i + b) false then v + 2 ^ b else v) 0)

/-- The states of a state image (R173). -/
def statesOf (img : Array Byte) : Array Bool :=
  ((List.range 32768).map fun i => (img.getD (i / 8) 0).getLsbD (i % 8)).toArray

/-- The number of bytes Z of a snapshot (R186). -/
def snapSize (s edges : Nat) : Nat := roundUp (4096 + 16 * (2 * s + 1) * edges) 32

/-- The halo versions a snapshot at `b` holds for one edge, in the order of R186. -/
def snapVersions (s : Nat) (b : Int) : List (Bool × Int) :=
  ((List.range (s + 1)).map fun (i : Nat) => (true, b - 1 - s + i)) ++ ((List.range s).map fun (i : Nat) => (false, b - s + i))

/-- V(j, c) of an edge (R177): a held record, a version of the loaded history, or for j below W_h the boundary as
exchanged in the handshake. -/
def FieldSt.version (f : FieldSt) (e : Nat) (cls : Bool) (j : Int) : Option (BitVec 128) :=
  match f.store.find? fun h => h.edge.val == e && h.cls == cls && h.sweep == j with
  | some h => some h.states
  | none =>
    match f.history.find? fun h => h.edge.val == e && h.cls == cls && h.sweep == j - f.wh with
    | some h => some h.states
    | none =>
      if j < f.wh then
        match f.handshakes.getD e none with
        | some h => some (h.boundary.extractLsb' (if cls then 128 else 0) 128)
        | none => none
      else none

/-- The versions that phase `c` of sweep `w` uses (R177), one for each edge; none where the edge is not HALO or the
record is missing. -/
def FieldSt.phaseRecords (f : FieldSt) (s w c : Nat) : List (Option (BitVec 128)) :=
  (List.range 4).map fun e =>
    if !isHalo f.image e then none
    else if c = 0 then f.version e true ((w : Int) - 1 - s) else f.version e false ((w : Int) - s)

/-- Whether every HALO edge has its record (R176). -/
def haloPresent (img : Array Byte) (recs : List (Option (BitVec 128))) : Bool :=
  (haloEdges img).all fun e => (recs.getD e none).isSome

/-- The halo bytes of a snapshot at `b`; none while a record is missing (R186, R187). -/
def FieldSt.snapHistory (f : FieldSt) (s : Nat) (b : Int) : Option (List Byte) :=
  (haloEdges f.image).foldl (fun acc e =>
    match acc with
    | none => none
    | some bs => (snapVersions s b).foldl (fun a v => match a, f.version e v.1 v.2 with
        | some l, some x => some (l ++ leBytes 16 x.toNat)
        | _, _ => none) (some bs)) (some [])

/-- The halo history of a snapshot as versions before `b` (R177, R186). -/
def historyOf (img : Array Byte) (bytes : List Byte) (s : Nat) (b : Int) : List HaloHeld :=
  ((haloEdges img).zipIdx).flatMap fun p =>
    ((snapVersions s b).zipIdx).map fun v =>
      ⟨Fin.ofNat 4 p.1, v.1.1, v.1.2, BitVec.ofNat 128 (leAt bytes ((p.2 * (2 * s + 1) + v.2) * 16) 16)⟩

/-- The records E_EDGE needs after sweep `w - 1`, of one colour (R183). -/
def FieldSt.edgeRecords (f : FieldSt) (cls : Bool) (w : Nat) : List (Option (BitVec 128)) :=
  (List.range 4).map fun e => if isHalo f.image e then f.version e cls ((w : Int) - 1) else none

/-- Whether E_EDGE can be formed: the east and south edges in HALO mode have both records (R183, R190). -/
def FieldSt.edgePresent (f : FieldSt) (w : Nat) : Bool :=
  [1, 2].all fun e => !isHalo f.image e
    || (((f.edgeRecords false w).getD e none).isSome && ((f.edgeRecords true w).getD e none).isSome)

/-- A Field before anything is loaded. -/
def FieldSt.empty : FieldSt where
  loaded := false
  ctx := 0
  image := #[]
  sched := []
  states := #[]
  modelAddr := 0
  schedAddr := none
  snapAddr := 0
  eInt := 0
  bestE := 0
  bestSweep := 0
  best := #[]
  synced := false
  wh := 0
  history := []
  store := []
  handshakes := [none, none, none, none]
  incoming := [none, none, none, none]
  askedAt := none
  phase := 0
  target := 0
  firstSweep := false
  pending := []
  committed := none
  rollbacks := 0
  errors := 0
  fencedOn := none
  prior := #[]
  priorE := 0

end Sys2Proof.Machine
end

