-- ==== Sys2Proof/Machine/Factory.lean ====
section
/-!
DEFINITION. What the flashes hold and which root key is fused at reset (15_boot_firmware_security.md R417 to R423). The
manual states the form of an image and no contents. The model takes one image of each stored class, in both slots, whose
body is four zero bytes, under a root key whose private scalar is 1 (DESIGN CHOICE, log 4).
-/

namespace Sys2Proof.Machine

/-- The root key's public point, X then Y (R421): the base point of P-384 (log 4). -/
def factoryKey : List Byte :=
  beBytes 48 0xAA87CA22BE8B05378EB1C71EF320AD746E1D3B628BA79B9859F741E082542A385502F25DBF55296C3A545E3872760AB7
    ++ beBytes 48 0x3617DE4A96262C6F5D9E98BF9292DC29F8F41DBD289A147CE9DA3113B5F0B8C00A60B1CE1D7E819D7A431D7C90EA0E5F

/-- SHA-384 of `factoryKey`, as fused for root-key slot 0 (R423). -/
def factoryKeyHash : BitVec 384 :=
  0xA19D4DB171B582EB8052B0CFE555E17894AA22D1C8A9770950697DD8F796D2FA4BF0A56AD80006B7EA08E1191F814B65#384

/-- SHA-384 of a body of four zero bytes. -/
def factoryBodyHash : List Byte :=
  beBytes 48 0x394341B7182CD227C5C6B07EF8000CDFD86136C4292B8E576573AD7ED9AE41019F5818B4B971C9EFFC60E1AD9F1289F0

/-- The r of every signature. -/
def factorySigR : Nat :=
  0x8D999057BA3D2D969260045C55B97F089025959A6F434D651D207D19FB96E9E4FE0E86EBE0E64F85B96A9C75295DF61

/-- The s of the signature of each stored class. -/
def factorySigS : List Nat :=
  [0x6AFF9575BA054AECA9A123A02BE928634F705269C1EAD90E17F985E59491BE4452EF22B3076FE77FB0D057527A1B1F47,
   0x30C392C56D764E61D841E70693D3284DC0CAE638031F0EC51FD40F153F71A06FCE7860FA5AE98D954CC3F2837519966A,
   0x6DF6C3E38CA0E943C908BB6755FE3E7100AADBD49A058A07E0B9C8FE203D11B639AE84B733E83FCB950BF3EFB1F91581,
   0x9779FE12FDCC5AD98D49EE5496E1F9B74C037262177B091378BFD3BCDCA1049F477429F212D5FEC4AEA62E8AAC142594,
   0x6D0BD5D509B07B7F320637E100047A7ED9FEBD4CE44BCFB1F8A46991821513A0464D8332E3EA9916AAD09852FF52D044,
   0x6FC0D1E6194A371A02A554F6F3C15543F654BEA1FD87DE4352BC4A381FFD7A4950214C7041CC8EE42D62B7291A15D113]

/-- The signed header of a class (R421): format 1, key slot 0, VERSION 1, BUNDLE 3.0, ROLLBACK 0, a body of 4 bytes. -/
def factoryHeader (c : Nat) : List Byte :=
  leBytes 4 0x474D4952 ++ leBytes 2 1 ++ leBytes 1 c ++ leBytes 1 0 ++ leBytes 4 1 ++ leBytes 2 0x300 ++ leBytes 2 0 ++ leBytes 4 4
    ++ List.replicate 12 0 ++ factoryBodyHash ++ factoryKey ++ List.replicate 80 0

/-- The image of a class (R421). -/
def factoryImage (c : Nat) : List Byte :=
  factoryHeader c ++ beBytes 48 factorySigR ++ beBytes 48 (factorySigS.getD c 0) ++ List.replicate 160 0 ++ List.replicate 4 0

/-- The six image slots of a flash (R418). -/
def factoryFlash : List (List Byte) := (List.range 6).map factoryImage

end Sys2Proof.Machine
end

