-- ==== Sys2Proof/Machine/HubState.lean ====
section
/-!
DEFINITION. The state of jobs, commands, queues, slots, barriers and logs (01_croft_anatomy.md R34 to R41;
07_croft_instruction_set.md R217, R226; 10_queues_and_hub.md; 12_determinism_and_ledger.md R365, R367;
13_checking_replay_test.md R383, R393).
-/

namespace Sys2Proof.Machine

/-- The record of a fault that halted a job (R226, R319). -/
structure FaultRec where
  code   : Nat
  step   : Nat
  detail : Word64
deriving DecidableEq, Repr

/-- An element of the MAP section (R367): generation, time, and the slots of the job's crofts (0xFF when out). -/
structure MapElem where
  generation : Nat
  time       : Nat
  slots      : List Byte
deriving DecidableEq, Repr

/-- An element of the MODEL section (R367). -/
structure ModelElem where
  hash      : List Byte
  conflicts : Nat
  nClasses  : Nat
  override  : Bool
deriving DecidableEq, Repr

/-- What the ledger record of an open job gathers while the job runs (R365, R367); the rest of the record is taken from
the job and its crofts when it is built. -/
structure Ledger where
  commands    : Nat
  mapChanges  : Nat
  mismatches  : Nat
  discarded   : Nat
  overrides   : Nat
  refusals    : Nat
  firmware    : List (Nat × Word32 × List Byte)
  programs    : List (List Byte × Nat)
  models      : List ModelElem
  maps        : List MapElem
  flagged     : List (Word64 × Nat × Nat)
deriving DecidableEq, Repr

/-- A contribution of a collective: the other end, step, chunk, segment, attempt and data (R290). -/
structure Frag where
  peer    : Nat
  step    : Nat
  chunk   : Nat
  seg     : Nat
  attempt : Nat
  data    : List Byte
deriving DecidableEq, Repr

/-- A collective in progress on this device (09_fohal_scale_out.md R286 to R293): the command it belongs to and its
operands, the chunks as they stand, the collective step it is in, the contributions received and not yet used, those sent
and held for a resend, and how many were resent. -/
structure Coll where
  cmd      : Nat
  kind     : Nat
  op       : Nat
  ty       : Nat
  alg      : Nat
  collId   : Word32
  elems    : Nat
  root     : Nat
  dst      : Nat
  vals     : List (List Byte)
  step     : Nat
  received : List Frag
  held     : List Frag
  resent   : Nat
  since    : Nat
deriving DecidableEq, Repr

/-- An open job (R313). `devs` is JOB_DEVICES; `devLists` holds the lists it has had with the times they took effect, and
`remaps` counts its changes (R297, R365, R367). -/
structure Job where
  params   : JobParams
  collKey  : List Byte
  devs     : List Nat
  devLists : List (Nat × List Nat)
  remaps   : Nat
  closing  : Bool
  fault    : Option FaultRec
  ledger   : Ledger
  colls    : List Coll
  standing : List Nat
  bound    : Bool
deriving DecidableEq, Repr

/-- Where a command in flight stands (R309, R318). -/
inductive CmdState where
  | waiting
  | running
  | finished
deriving DecidableEq, Repr

/-- A command in flight (R309): its number in the order of fetch, queue, entry and job position, and what its
completion entry will hold (R319). `begun` is set once a started command has taken its first effect; `fetched` is the
elapsed time of its fetch (R310); `opener` marks the command that opened its job (R313). -/
structure Cmd where
  id        : Nat
  queue     : Fin 16384
  entry     : List Byte
  job       : Option (Fin 64)
  state     : CmdState
  begun     : Bool
  fetched   : Nat
  opener    : Bool
  startTime : Nat
  status    : Nat
  cflags    : BitVec 8
  result    : Word64
  detail    : Word64
deriving DecidableEq, Repr

/-- A queue control block (R304, R305) with QUEUE_COMMANDS, the interrupt suppression of R321, and the elapsed time since
which its head entry waits for a fetch (R310). -/
structure Queue where
  sqBase    : Word64
  cqBase    : Word64
  enable    : Bool
  error     : Bool
  cls       : BitVec 2
  prio      : BitVec 3
  irqEn     : Bool
  sqLog2    : BitVec 5
  cqLog2    : BitVec 5
  draining  : Bool
  sqHead    : Word32
  sqTail    : Word32
  cqHead    : Word32
  cqTail    : Word32
  irqVector : Word32
  errorCode : Word32
  irqSent   : Bool
  commands  : Word64
  waitSince : Option Nat
deriving DecidableEq, Repr

/-- A queue as the manual's field map gives it after reset (R305). -/
def Queue.reset : Queue where
  sqBase := 0
  cqBase := 0
  enable := false
  error := false
  cls := 1
  prio := 0
  irqEn := false
  sqLog2 := 0
  cqLog2 := 0
  draining := false
  sqHead := 0
  sqTail := 0
  cqHead := 0
  cqTail := 0
  irqVector := 0
  errorCode := 0
  irqSent := false
  commands := 0
  waitSince := none

/-- SPARE_MAP values (R37). -/
inductive SpareState where
  | active
  | spare
  | fenced
  | retired
  | disabled
  | underTest
deriving DecidableEq, Repr

/-- States of a croft island (R34). -/
inductive Island where
  | run
  | idle
  | off
deriving DecidableEq, Repr

/-- SLOT_ERRORS (R397), spare rows apart. -/
structure SlotErrors where
  residue   : Nat
  duplicate : Nat
  corrected : Nat
  poisoned  : Nat
  field     : Nat
  replays   : Nat
deriving DecidableEq, Repr

/-- A local copy of the map (R38): the generation it is marked with, and the crofts bound then. -/
structure MapCopy where
  gen   : Nat
  binds : List (CroftRef × Fin 80)
deriving DecidableEq, Repr

/-- A slot (R40, R383). `noSpareAt` is the elapsed time of the last AGE_NO_SPARE since it was marked (R386). `moveMap` and
`meshMap` are the copies of the map in its move and mesh units (R38). `view` is the Granary of a slot that carries no logical
croft of an open job (R43). -/
structure Slot where
  spare     : SpareState
  island    : Island
  cycles    : Word64
  stepsDone : Word64
  aged      : Nat
  refKhz    : Nat
  drift     : Nat
  marked    : Bool
  noSpareAt : Option Nat
  rows      : List (Fin 64 × Fin 32768)
  errors    : SlotErrors
  haloMax   : List Nat
  rollbacks : Nat
  replayAt  : List Nat
  fencing   : Bool
  checked   : Bool
  view      : Cells
  viewPoison : List Nat
  stretched : Bool
  moveMap   : MapCopy
  meshMap   : MapCopy
deriving DecidableEq, Repr

/-- A barrier generation at the Square (R217, R283). `implicit` marks the barrier of R285, which carries number 0;
`gen` tells the open generations of an implicit barrier apart and `took` holds the arrivals taken from each logical device (log
26); `fresh` holds the crofts whose arrivals a device other than logical device 0 has not forwarded yet; `release` is T_rel
once it is set. -/
structure Bar where
  implicit : Bool
  job      : Fin 64
  jobScope : Bool
  num      : Fin 16
  gen      : Nat
  took     : List (Nat × Nat)
  count    : Nat
  parties  : Nat
  fresh    : List (Fin 256)
  waiting  : List (Fin 256)
  release  : Option Nat
deriving DecidableEq, Repr

/-- An event record (R393, R394). `low` is bytes 0x18..0x1F as a U64: DETAIL64, or COUNT and DETAIL. -/
structure EventRec where
  seq      : Nat
  time     : Nat
  event    : Nat
  severity : Nat
  kind     : Nat
  source   : Nat
  low      : Word64
deriving DecidableEq, Repr

/-- Occurrences of a corrected event gathered within a minute of elapsed time, which `minute` numbers (R395). -/
structure Aggregate where
  event  : Nat
  kind   : Nat
  source : Nat
  minute : Nat
  first  : Nat
  count  : Nat
  detail : Nat
deriving DecidableEq, Repr

/-- The logs (R392, R393). `traceLast` is the elapsed time of the last trace record taken; `generalAt` and `fatalAt` are the sectors
of their regions that hold the oldest record; `raw` holds what a board agent programmed over the event log since, by the offset in it
(15_boot_firmware_security.md R418, R420). -/
structure Logs where
  general    : List EventRec
  fatal      : List EventRec
  count      : Nat
  aggregates : List Aggregate
  trace      : List (Nat × Nat × Nat × BitVec 112)
  traceSeq   : Nat
  overruns   : Nat
  traceOn    : Bool
  traceLast  : Option Nat
  generalAt  : Nat
  fatalAt    : Nat
  raw        : List (Nat × Byte)
deriving DecidableEq, Repr

/-- What the device has sent and a receiver outside the modelled device may see. -/
inductive Sent where
  /-- A halo record for a Field (R178), with the slot that the source's copy of the map gives the croft of this device
  (01_croft_anatomy.md R38). -/
  | halo (job : Fin 64) (dev croft : Nat) (slot : Option (Fin 80)) (r : HaloRec)
  /-- A handshake record for a Field's edge (R179), with that slot. -/
  | handshake (job : Fin 64) (dev croft : Nat) (slot : Option (Fin 80)) (edge : Nat) (h : Handshake)
  /-- A remote write of MESH.PUT on another device (R205). -/
  | put (job : Fin 64) (dev croft offset : Nat) (tag : Nat) (restart : Bool) (data : List Byte)
  /-- The acknowledgement of a remote write on REPLY, and whether its job's flits take ADAPTIVE routes (R275, R278). -/
  | ack (dev : Nat) (tag : Nat) (adaptive : Bool)
  /-- A capability record sent on a port (R267, R268). -/
  | capability (port : Nat) (bytes : List Byte)
  /-- A remote signal for another device (R210). -/
  | signal (s : RemoteSig)
  /-- A barrier message of the tree of logical devices (R283): up with PARTIES and the count, or down with T_rel. -/
  | barrier (job : Fin 64) (implicit : Bool) (num : Fin 16) (up : Bool) (parties : Nat) (value : Nat)
  /-- A contribution of a collective (R290). -/
  | contribution (job : Fin 64) (dst : Nat) (header : BitVec 256) (data : List Byte) (digest : BitVec 128)
  /-- A REFUSE for a contribution received (R292). -/
  | refuse (job : Fin 64) (dst : Nat) (collId : Word32) (step chunk seg attempt : Nat)
  /-- The acceptance of a contribution received, on REPLY (R277). -/
  | accept (job : Fin 64) (dst : Nat) (collId : Word32) (step chunk seg : Nat)
  /-- An emergency notice (R449). -/
  | notice (job : Fin 64) (dev : Nat) (begins : Bool)
  /-- A flit on a port, sent or resent (R262, R263). -/
  | flit (port : Nat) (flit : BitVec 2048)
  /-- A link-state record flooded (R270). -/
  | linkState (r : LinkState)
  /-- A LEAVE sent on a port (R296). -/
  | leave (port : Nat)
  /-- An Ethernet frame (R324). -/
  | frame (port : Nat) (data : List Byte)
  /-- A read of an NVMe namespace through the root port: its first LBA and the bytes (15_boot_firmware_security.md R429). -/
  | nvmeRead (ns lba bytes : Nat)
  /-- An HTTP/1.1 GET over IPv6 on an Ethernet port, with its URL (R429). -/
  | httpGet (port : Nat) (url : List Byte)
  /-- The certificate chain presented to a session that opens, and the signature of its CertificateVerify (11_object_dictionary.md
  R333, 15_boot_firmware_security.md R426). -/
  | certificate (fingerprint : BitVec 384) (chain signature : List Byte)
  /-- The answer to an inbound PCIe read, or Unsupported Request (R326). -/
  | pcie (data : Option (List Byte))
  /-- The answer of the SMBus target (R346). -/
  | smbus (data : Option (List Byte))
  /-- A Birsiler reply at a door (R340). -/
  | reply (d : Door) (data : List Byte)
  /-- The value of a read of the seed CSR by an application core (R413). -/
  | seed (hart : Fin 32) (value : Word32)
  /-- A management handshake that fails (R333, R334, R411), with its alert where the manual names one. -/
  | alert (fingerprint : BitVec 384) (code : Option Nat)
  /-- A Fohal or Ethernet frame, or a store of the hub, that leaves through the PCIe root port (R303, R325). -/
  | pcieWrite (addr : Nat) (data : List Byte)
  /-- A read of the hub that leaves through the PCIe root port (R303, R325). -/
  | pcieRead (addr : Nat) (bytes : Nat)
  /-- A hub-side halt notice of a job to its other devices (R226): the fault record, and the collective whose command carries it
  (R292). -/
  | halt (job : Fin 64) (fr : FaultRec) (coll : Option Word32)
deriving DecidableEq, Repr

end Sys2Proof.Machine
end

