-- ==== Sys2Proof/Machine/DeviceState.lean ====
section
/-!
DEFINITION. The state of the device outside crofts and queues: pins (17_package_balls_electrical.md R466, R467), power,
thermal and clocks (16_power_clocks_thermal.md), boot and firmware (15_boot_firmware_security.md), in-field test
(13_checking_replay_test.md R389), the Well (14_entropy_well.md) and the TAP (R436).
-/

namespace Sys2Proof.Machine

/-- Sideband and time pins (R466, R470). `straps` is SMB_ADDR as sampled. ALERT_N follows from the emergencies and the
Well and is not stored. `trst` holds while TRST_N is low. -/
structure Pins where
  trst      : Bool
  resetIn   : Bool
  pwrGood   : Bool
  fatal     : Bool
  thermtrip : Bool
  ppsOut    : Bool
  straps    : Fin 4
deriving DecidableEq, Repr

/-- A board regulator's record (11_object_dictionary.md R353, R355; 16_power_clocks_thermal.md R452): its VOUT_MODE and
CAPABILITY, the last raw words, and the polls missed in a row. -/
structure BoardReg where
  address : Nat
  mode    : Byte
  cap     : Byte
  vout    : BitVec 16
  iout    : BitVec 16
  temp    : BitVec 16
  status  : BitVec 16
  missed  : Nat
deriving DecidableEq, Repr

/-- Supplies, throttling, temperatures and clocks (16_power_clocks_thermal.md). `aux` is the auxiliary input in range;
`main` that R442 has run and step 7 of R427 has completed; the two emergencies stand until cleared. Powers are in mW,
temperatures in 0.1 °C. `nextLimit` is a written limit that the next evaluation takes, `clearLimit` one written during an emergency
(R445); `vin` is none before the first measurement; `readyAsked` that a POWER_REQUEST of READY is pending (R443); `refAbsent` that the
reference has been absent for more than 10 µs (R453); `ppsLast` the elapsed time of the last edge in units of 0.5 ns (R455). -/
structure Power where
  aux         : Bool
  main        : Bool
  level       : Fin 11
  cause       : Fin 4
  emPower     : Bool
  emThermal   : Bool
  limit       : Nat
  nextLimit   : Option Nat
  clearLimit  : Option Nat
  package     : Nat
  vin         : Option Nat
  vaux        : Nat
  rails       : List (Nat × Nat)
  board       : List BoardReg
  hbmTemp     : List Int
  tj          : List Int
  tjMax       : Int
  standbyDue  : Bool
  readyDue    : Bool
  readyAsked  : Bool
  levelNs     : Nat
  changes     : Nat
  emergencies : Nat
  droops      : Nat
  regFaults   : Nat
  refUnlocked : Bool
  refAbsent   : Bool
  ppsValid    : Bool
  ppsEdges    : Nat
  ppsLast     : Option Nat
deriving DecidableEq, Repr

/-- A firmware image that runs: the slot it came from (`true` for B) and its bytes. -/
structure RunImage where
  slotB : Bool
  bytes : List Byte
deriving DecidableEq, Repr

/-- A firmware core (R416): the image it runs, and its private SRAM. -/
structure Core where
  image : Option RunImage
  sram  : Cells
deriving DecidableEq, Repr

/-- A boot directory record (R419). -/
structure BootDir where
  generation : Nat
  active     : List Bool
deriving DecidableEq, Repr

/-- ACTIVATION_STATE (R431). -/
inductive ActState where
  | idle
  | queued
  | activating
deriving DecidableEq, Repr

/-- Boot and firmware (15_boot_firmware_security.md). `flash` holds for flash 0 and 1 the image slots of classes 0..5, and
`regions` the bytes of each flash outside its directory and image slots by their offset (R418);
`running` the images in use of classes 0..5; `staging` the class being staged with the bytes written, `stagedVersion`
the VERSION of the verified image in each class's inactive slot, 0 for none; `current` the slot of each class that a boot or an
activation made the active one, none before; `cores` Watch, Hearth, Bailiff and the 20 Reeves; `mail` the hardware mailboxes between
them (log 108); `released` that the application cores run in machine mode; `switched` the cores of the class that have
switched; `confirm` a waiting CONFIRM's class and `revoke` a waiting REVOKE_KEY record, each with its acceptance time and
how far its fuse bits will blow; `retired` the cells of the Well whose retirement is still to be recorded in the fuses (R408, R424). -/
structure Boot where
  step          : Nat
  dirs          : List (Option BootDir)
  flash         : List (List (List Byte))
  regions       : List Cells
  running       : List (Option RunImage)
  staging       : List (Option Nat)
  stagedVersion : List Nat
  current       : List (Option Bool)
  cores         : List Core
  mail          : List (List Byte)
  released      : Bool
  act           : ActState
  actClass      : Nat
  actSince      : Nat
  switched      : Nat
  result        : Nat × Nat × Nat
  confirm       : Option (Nat × Nat × FuseRun)
  revoke        : Option (List Byte × Nat × FuseRun)
  retired       : BitVec 4
  dremosSource  : List Byte
  dremosUrl     : List Byte
  dremos        : Option (List Byte)
  key           : Nat
  bundle        : Nat
  genKat        : Nat
  genRuns       : Nat
deriving DecidableEq, Repr

/-- TEST_STATE (R389). -/
inductive TestState where
  | idle
  | waiting
  | running
deriving DecidableEq, Repr

/-- The in-field test (R388, R389). -/
structure Test where
  state   : TestState
  slot    : Nat
  set     : Nat
  results : List (Nat × Nat)
deriving DecidableEq, Repr

/-- States of a Well cell (R399, R408). -/
inductive CellState where
  | active
  | spare
  | retired
deriving DecidableEq, Repr

/-- A Well cell (R399 to R409). `settling` holds from a start or restart until the trim settles; `startup` counts the
start-up blocks still to pass; `bits` is the repetition count carried across blocks with its bit; `failed` the failed
blocks it supplied, by elapsed time; `lastCal` the elapsed time of its last calibration; `debias` the pairing rule of the
block in progress (R401). -/
structure WellCell where
  state    : CellState
  settling : Bool
  startup  : Nat
  trim     : Nat
  bias     : Int
  lastBit  : Bool
  run      : Nat
  failed   : List Nat
  lastCal  : Nat
  debias   : Nat
deriving DecidableEq, Repr

/-- WELL_STATE (R405). -/
inductive WellPhase where
  | disabled
  | starting
  | ready
  | failed
deriving DecidableEq, Repr

/-- The DRBG (R403): Key and V of CTR_DRBG, the entropy input and nonce gathered for its instantiation, whether it is
instantiated, whether it holds a reseeded state from which no generate was made yet, and the passing blocks that wait to
reseed it meanwhile. -/
structure Drbg where
  key     : List Byte
  v       : List Byte
  entropy : Option (List Byte)
  nonce   : Option (List Byte)
  ready   : Bool
  held    : Bool
  waiting : List (List Byte)
deriving DecidableEq, Repr

/-- What Watch needs entropy for (R411). -/
inductive WatchUse where
  | dtls (fingerprint : BitVec 384)
  | spdm (door : Door) (request : List Byte)
deriving DecidableEq, Repr

/-- A waiting request (R410, R412), with the bytes delivered to it so far. -/
inductive WellReq where
  | watch (use : WatchUse) (need : Nat) (got : List Byte)
  | lanes (c : CroftRef) (got : List Byte)
deriving DecidableEq, Repr

/-- The Well (14_entropy_well.md). `window` holds the elapsed times of the failed blocks of the last 60 minutes. -/
structure Well where
  phase       : WellPhase
  cells       : List WellCell
  drbg        : Drbg
  queue       : List Byte
  consecutive : Nat
  window      : List Nat
  requests    : List WellReq
  passed      : Nat
  failedCount : Nat
  delivered   : Nat
  restarts    : Nat
  calibrations : Nat
  refused     : Nat
deriving DecidableEq, Repr

/-- States of the IEEE 1149.1 controller (R436). -/
inductive TapState where
  | testLogicReset | runTestIdle
  | selectDr | captureDr | shiftDr | exit1Dr | pauseDr | exit2Dr | updateDr
  | selectIr | captureIr | shiftIr | exit1Ir | pauseIr | exit2Ir | updateIr
deriving DecidableEq, Repr

/-- The TAP (R436): controller, instruction register, the register being shifted, and TDO while it is driven. -/
structure Tap where
  state : TapState
  ir    : BitVec 8
  shift : List Bool
  tdo   : Option Bool
deriving DecidableEq, Repr

/-- Dictionary entries that the machine reads as limits or switches, at their present values (R191, R212, R250, R298,
R397, R355, R437, R456). -/
structure Settings where
  syncWaitLimit : Nat
  haloTimeout   : Nat
  meshAckLimit  : Nat
  collStepLimit : Nat
  testWaitLimit : Nat
  ageLimit      : Nat
  replayRate    : Nat
  actWaitLimit  : Nat
  wellEnable    : Bool
  mailboxRole   : Nat
  ppsOutEnable  : Bool
  roleEntries   : List (List Byte)
  portEnable    : List Bool
deriving DecidableEq, Repr

/-- Staged entries (11_object_dictionary.md R347 to R349; 09_fohal_scale_out.md R298): one set of values. `mgmtAddr` is
the record's bytes. -/
structure Staged where
  mgmtAddr   : List Byte
  topology   : Nat
  fabricAddr : Nat
  coord      : Nat × Nat × Nat
  dims       : Nat × Nat × Nat
  ethMode    : List Nat
  debias     : Nat
  detEnable  : Bool
  longSum    : Nat
deriving DecidableEq, Repr

/-- PORT_STATE (R265, R298). -/
inductive PortState where
  | down
  | detect
  | train
  | measure
  | exchange
  | up
  | retrain
deriving DecidableEq, Repr

/-- PORT_COUNTERS (R298). -/
structure PortCounters where
  sent       : Nat
  received   : Nat
  lost       : Nat
  naks       : Nat
  corrected  : Nat
  bad        : Nat
  retrains   : Nat
deriving DecidableEq, Repr

/-- A flit that waits at a port for its grant (R277): its channel, its content without link fields, the grants that
others had since it came to the head of its channel, and whether this device injects it. -/
structure OutFlit where
  chan   : Nat
  flit   : BitVec 2048
  waited : Nat
  own    : Bool
deriving DecidableEq, Repr

/-- A message of this device laid out as flits (R279), held in case a link leaves with some of them, here or on the way: its tag,
its flits, and whether it may take ADAPTIVE routes. -/
structure OwnMsg where
  tag      : Nat
  flits    : List (BitVec 2048)
  adaptive : Bool
deriving DecidableEq, Repr

/-- A message being received (R279): its source and tag, the bytes counted, its length once the LAST flit is in, and the bytes
of a message other than MESH.PUT data. -/
structure Partial where
  src   : Nat
  tag   : Nat
  count : Nat
  total : Option Nat
  bytes : Cells
deriving DecidableEq, Repr

/-- A Fohal port (R258 to R269): lanes in use, whether the spare is, width, rate (`true` for full), losses, RTT, the
partner's capability record, sequence numbers, the replay buffer, the NAKs of one SEQ, the corrected symbols of each lane and
the lanes that have failed (R269), and the flits that wait for a grant (R277). `nakSent` holds from a NAK until the expected SEQ arrives or a round trip has passed (`nakAt`
is the elapsed time of the NAK). -/
structure Port where
  state     : PortState
  lanes     : BitVec 9
  spare     : Bool
  width     : Nat
  fullRate  : Bool
  loss      : List Nat
  rtt       : Nat
  partner   : List Byte
  counters  : PortCounters
  sendSeq   : BitVec 16
  expectSeq : BitVec 16
  replay    : List (BitVec 2048)
  nakSeq    : BitVec 16
  nakCount  : Nat
  nakSent   : Bool
  nakAt     : Nat
  fec       : List Nat
  bad       : BitVec 9
  out       : List OutFlit
deriving DecidableEq, Repr

/-- A route table entry that is VALID (R274). -/
structure Route where
  dest     : Nat
  primary  : Nat
  adaptive : List Nat
  hops     : Nat
deriving DecidableEq, Repr

/-- TIME_STATE (R298). -/
inductive TimePhase where
  | free
  | syncing
  | synced
  | master
deriving DecidableEq, Repr

/-- The fabric side (R270 to R298): ports, topology database (other devices' link-state records), the own record's
generation, routes, TOPO_GENERATION, the ports whose partner is not the expected torus neighbour, lost devices,
DIGEST_FLAGGED, TIME_STATE, and the next message tag; the next end-to-end sequence on CTRL for each destination, and for each
source the one below which all have been seen, with those seen beyond it (R279), the messages being received, the elapsed time of the last CTRL injection (R277), whether an
IEEE 1588 source of this device is valid (R281), whether device time may still step as a new MASTER (R282), the messages of
this device held for a restart, and how many entries of `Dev.sent` have been laid out as flits. -/
structure Fabric where
  ports     : List Port
  topo      : List LinkState
  ownGen    : Nat
  routes    : List Route
  topoGen   : Nat
  mismatch  : List Nat
  lost      : List Nat
  flagged   : List (Word64 × Nat × Nat)
  timeState : TimePhase
  nextTag   : Nat
  ctrlSeq   : List (Nat × Word32)
  ctrlSeen  : List (Nat × Word32 × List Word32)
  partials  : List Partial
  ctrlLast  : Option Nat
  ptpValid  : Bool
  stepDue   : Bool
  messages  : List OwnMsg
  shipped   : Nat
deriving DecidableEq, Repr

/-- SPDM responder state of one session or the mailbox (12_determinism_and_ledger.md R369): whether GET_VERSION,
GET_CAPABILITIES and NEGOTIATE_ALGORITHMS have been answered, the transcript of those messages, that of the messages
before a CHALLENGE, that of the unsigned measurement messages, the response held in SPDM_RESPONSE and its changes. -/
structure Spdm where
  phase    : Nat
  vca      : List Byte
  certs    : List Byte
  measures : List Byte
  response : List Byte
  changes  : Nat
deriving DecidableEq, Repr

/-- A kept reply (11_object_dictionary.md R342): its REQ_ID, the elapsed time it was made, and its bytes. -/
structure Kept where
  id    : Word32
  made  : Nat
  bytes : List Byte
deriving DecidableEq, Repr

/-- A management session (11_object_dictionary.md R333, R334). `used` is the elapsed time of its last request; `entry` is the
ROLE_ENTRY its role was taken from. -/
structure Session where
  fingerprint : BitVec 384
  used        : Nat
  kept        : List Kept
  spdm        : Spdm
  entry       : Nat
deriving DecidableEq, Repr

/-- The local mailbox (11_object_dictionary.md R345). -/
structure Mailbox where
  busy      : Bool
  done      : Bool
  irqEn     : Bool
  reqLen    : Word32
  replyLen  : Nat
  irqVector : Word32
  request   : List Byte
  reply     : List Byte
  kept      : List Kept
  spdm      : Spdm
deriving DecidableEq, Repr

/-- A ring register set of an Ethernet port (10_queues_and_hub.md R324). -/
structure Ring where
  base      : Word64
  sizeLog2  : Word32
  head      : Word32
  tail      : Word32
  enable    : Bool
  irqEn     : Bool
  irqVector : Word32
deriving DecidableEq, Repr

/-- An Ethernet port (10_queues_and_hub.md R323, R324): ETH_LINK, its rings, and the elapsed time to which each of the eight
priorities is paused by flow control, for the port or its first 400G port and then for its second. -/
structure EthPort where
  link : Fin 5
  tx   : List Ring
  rx   : List Ring
  pfc  : List Nat
deriving DecidableEq, Repr

/-- The PCIe root port (10_queues_and_hub.md R325, R326): the trained link and the eight inbound windows, each a base and
a limit. -/
structure Pcie where
  rate    : Byte
  width   : Byte
  flit    : Bool
  windows : List (Word64 × Word64)
deriving DecidableEq, Repr

/-- The result of the most recent model check (05_dense_sampling.md R155). -/
structure ModelCheck where
  result    : Nat
  conflicts : Nat
  first     : Word32 × Word32
deriving DecidableEq, Repr

/-- One interrupt file of a core beside its pending identities (10_queues_and_hub.md R303): delivery, threshold and the
enabled identities. -/
structure IrqFile where
  delivery  : Word32
  threshold : Word32
  enabled   : List Nat
deriving DecidableEq, Repr

/-- The doors and outside ports of the hub: MGMT_LINK, sessions, mailbox, Ethernet, PCIe, the model check, the pending
sets of the five staging blocks (11_object_dictionary.md R348), the changes of each versioned value since power-up (R343;
a value not listed has not changed), LEDGERS_SIGNED, the interrupt files of the 32 cores (machine and supervisor), and the
copy of the map in the queue engine (01_croft_anatomy.md R38). `servedLast` and `boundLast` hold for each PRIO the queue that was
fetched from last and the queue of the launch that was bound last (R310). -/
structure Hub where
  mgmtLink      : Bool
  sessions      : List (Option Session)
  mailbox       : Mailbox
  eth           : List EthPort
  pcie          : Pcie
  model         : ModelCheck
  commits       : List (Option Staged)
  versions      : List (Nat × Nat)
  ledgersSigned : Nat
  irqFiles      : List (IrqFile × IrqFile)
  map           : MapCopy
  servedLast    : List Nat
  boundLast     : List Nat
deriving DecidableEq, Repr

end Sys2Proof.Machine
end

