-- ==== Sys2Proof/Machine/ResetValues.lean ====
section
/-!
DEFINITION. What units of the device hold after a reset (09_fohal_scale_out.md R298; 10_queues_and_hub.md R324 to R326;
11_object_dictionary.md R345, R355; 14_entropy_well.md R399, R405, R414).
-/

namespace Sys2Proof.Machine

/-- A DRBG with nothing in it (R404). -/
def Drbg.zero : Drbg where
  key := List.replicate 32 0
  v := List.replicate 16 0
  entropy := none
  nonce := none
  ready := false
  held := false
  waiting := []

/-- A ring as the port block gives it after its reset (10_queues_and_hub.md R324). -/
def Ring.reset : Ring := ⟨0, 0, 0, 0, false, false, 0⟩

/-- An Ethernet port without a link. -/
def EthPort.reset : EthPort := ⟨0, List.replicate 64 Ring.reset, List.replicate 64 Ring.reset, List.replicate 16 0⟩

/-- The root port without a link (R325, R326). -/
def Pcie.reset : Pcie := ⟨0, 0, false, List.replicate 8 (0, 0)⟩

/-- SPDM responder state with nothing negotiated (12_determinism_and_ledger.md R369). -/
def Spdm.reset : Spdm := ⟨0, [], [], [], [], 0⟩

/-- The local mailbox after its reset (11_object_dictionary.md R345). -/
def Mailbox.reset : Mailbox where
  busy := false
  done := false
  irqEn := false
  reqLen := 0
  replyLen := 0
  irqVector := 0
  request := List.replicate 1056 0
  reply := List.replicate 1056 0
  kept := []
  spdm := Spdm.reset

/-- A port after device reset (09_fohal_scale_out.md R298). -/
def Port.reset : Port where
  state := .down
  lanes := 0
  spare := false
  width := 0
  fullRate := false
  loss := List.replicate 9 0
  rtt := 0
  partner := List.replicate 64 0
  counters := ⟨0, 0, 0, 0, 0, 0, 0⟩
  sendSeq := 0
  expectSeq := 0
  replay := []
  nakSeq := 0
  nakCount := 0
  nakSent := false
  nakAt := 0
  fec := List.replicate 9 0
  bad := 0
  out := []

/-- No model checked yet (05_dense_sampling.md R155). -/
def ModelCheck.reset : ModelCheck := ⟨0, 0, 0xFFFFFFFF, 0xFFFFFFFF⟩

/-- The hub's doors after device reset, with the ledgers signed over the device's life. -/
def Hub.reset (signed : Nat) : Hub where
  mgmtLink := false
  sessions := List.replicate 16 none
  mailbox := Mailbox.reset
  eth := List.replicate 4 EthPort.reset
  pcie := Pcie.reset
  model := ModelCheck.reset
  commits := List.replicate 5 none
  versions := []
  ledgersSigned := signed
  irqFiles := List.replicate 32 (⟨0, 0, []⟩, ⟨0, 0, []⟩)
  map := ⟨0, []⟩
  servedLast := List.replicate 8 16383
  boundLast := List.replicate 8 16383

/-- The cells of the Well as the fused map gives them: the two lowest that are not retired are ACTIVE (R399, R408). -/
def wellCells (retired : BitVec 4) : List WellCell :=
  let good := (List.range 4).filter fun i => !retired.getLsbD i
  (List.range 4).map fun i =>
    { state := if retired.getLsbD i then .retired else if (good.take 2).contains i then .active else .spare
      settling := false, startup := 0, trim := 0, bias := 0, lastBit := false, run := 0, failed := [], lastCal := 0, debias := 1 }

/-- The Well after device reset (R405, R414). -/
def Well.reset (retired : BitVec 4) : Well where
  phase := .disabled
  cells := wellCells retired
  drbg := Drbg.zero
  queue := []
  consecutive := 0
  window := []
  requests := []
  passed := 0
  failedCount := 0
  delivered := 0
  restarts := 0
  calibrations := 0
  refused := 0

end Sys2Proof.Machine
end

