-- ==== Sys2Proof/Machine/State.lean ====
section
/-!
DEFINITION. The machine's state, and the state right after reset. INVENTORY.md lists every piece with the rule that
names it. The reset values the manual does not give are those of log 3.
-/

namespace Sys2Proof.Machine

/-- Reasons for which the machine stops. Nothing of this block stops it: every fault of the manual is an effect on the
state (a halt of the job, a status in a completion entry, an event record), so no meaning raises one. -/
inductive Fault where
  /-- Raised by nobody; kept so that the type has a name for a stop. Safe. -/
  | none_
deriving DecidableEq, Repr

/-- Reasons for which a command is turned away. Every row of the opcode table has its meaning, so no arm raises one. -/
inductive Refusal where
  /-- Raised by an arm of `exec` for a command that has no meaning yet. Safe: no effect is claimed. -/
  | notModelled (mnemonic : String)
deriving DecidableEq, Repr

/-- Fuses (15_boot_firmware_security.md R423). -/
structure Fuses where
  deviceId       : Word64
  identitySeed   : BitVec 256
  grade          : BitVec 2
  rootKeyHash    : List (BitVec 384)
  rootRevoked    : BitVec 4
  rollback       : List Nat
  productionLock : Bool
  debugPolicy    : BitVec 2
  slotDisable    : BitVec 80
  factoryRepair  : BitVec 8192
  ageRef         : List (BitVec 24)
  wellRetired    : BitVec 4
deriving DecidableEq, Repr

/-- Elapsed time in units of 1/36756720 ns, and the offset of device time to it in ns (09_fohal_scale_out.md R282). -/
structure TimeState where
  elapsed : Nat
  offset  : Int
deriving DecidableEq, Repr

/-- MEM_ERRORS of one stack or subsystem (13_checking_replay_test.md R397). -/
structure MemErrors where
  corrected : Nat
  poisoned  : Nat
  repaired  : Nat
  left      : Nat
deriving DecidableEq, Repr

/-- The memory units (08_mesh_and_memory.md R255): HBM_PRESENT, backed bytes of each stack, installed bytes and state of
each subsystem, MEM_ERRORS and SCRUB_LAST_PASS of units 0..35, and whether the device is to retire as UNFIT at the
next moment without an open job (13_checking_replay_test.md R387). -/
structure MemUnits where
  hbmPresent  : BitVec 12
  hbmBacked   : List Nat
  lpInstalled : List Nat
  lpState     : List (Fin 3)
  errors      : List MemErrors
  scrubLast   : List Nat
  unfitDue    : Bool
  unfit       : Bool
deriving DecidableEq, Repr

/-- The package mesh (08_mesh_and_memory.md R249, R250): failed router nodes, declared fault regions (x0, y0, x1, y1),
whether the faults have left the conditions of R249, so that routes are lost, and the flits granted since device reset on VC0..VC3 at
each node, by 4 × identity + VC. -/
structure MeshState where
  failed  : List (Nat × Nat)
  regions : List (Nat × Nat × Nat × Nat)
  broken  : Bool
  granted : List Nat
deriving DecidableEq, Repr

/-- The device: everything but the queue of commands. -/
structure Dev where
  fuses     : Fuses
  time      : TimeState
  slots     : List Slot
  jobs      : List (Option Job)
  crofts    : List Croft
  cmds      : List Cmd
  nextCmd   : Nat
  queues    : List (Fin 16384 × Queue)
  mem       : Cells
  memPoison : List Nat
  units     : MemUnits
  mesh      : MeshState
  pins      : Pins
  power     : Power
  boot      : Boot
  test      : Test
  well      : Well
  tap       : Tap
  fabric    : Fabric
  hub       : Hub
  settings  : Settings
  live      : Staged
  shadow    : Staged
  bars      : List Bar
  signals   : List RemoteSig
  sent      : List Sent
  logs      : Logs
  mapGen    : Nat
  irqs      : List (Nat × Bool × Nat)
  freeCount : Nat
deriving DecidableEq, Repr

/-- The machine: the device and the commands that wait, first in first out. -/
structure State where
  pending : List Instr
  dev     : Dev
deriving DecidableEq, Repr

/-! ## Reset

The device held in reset by RESET_IN_N for the first time, with the auxiliary input in range (17_package_balls_electrical.md
R467, R468; 11_object_dictionary.md R332). -/

/-- The fuses of a device: a WG25-H, nothing disabled, one root key (R423; log 3, log 4). -/
def Fuses.reset : Fuses where
  deviceId := 1
  identitySeed := 0
  grade := 1
  rootKeyHash := [factoryKeyHash, 0, 0, 0]
  rootRevoked := 0
  rollback := List.replicate 7 0
  productionLock := true
  debugPolicy := 0
  slotDisable := 0
  factoryRepair := 0
  ageRef := List.replicate 80 0
  wellRetired := 0

/-- A slot that has not run (01_croft_anatomy.md R37, R40; 13_checking_replay_test.md R383; log 3). -/
def Slot.factory : Slot where
  spare := .spare
  island := .off
  cycles := 0
  stepsDone := 0
  aged := 0
  refKhz := 0
  drift := 0
  marked := false
  noSpareAt := none
  rows := []
  errors := ⟨0, 0, 0, 0, 0, 0⟩
  haloMax := [0, 0, 0, 0]
  rollbacks := 0
  replayAt := []
  fencing := false
  checked := false
  view := []
  viewPoison := []
  stretched := false
  moveMap := ⟨0, []⟩
  meshMap := ⟨0, []⟩

/-- The memory units before they are measured (08_mesh_and_memory.md R255; log 3). -/
def MemUnits.factory : MemUnits where
  hbmPresent := 0
  hbmBacked := List.replicate 12 0
  lpInstalled := List.replicate 24 0
  lpState := List.replicate 24 0
  errors := List.replicate 36 ⟨0, 0, 0, 0⟩
  scrubLast := List.replicate 36 0
  unfitDue := false
  unfit := false

/-- The power side under reset (16_power_clocks_thermal.md R441, R445, R456; log 3). -/
def Power.factory : Power where
  aux := true
  main := false
  level := 0
  cause := 0
  emPower := false
  emThermal := false
  limit := 3000
  nextLimit := none
  clearLimit := none
  package := 0
  vin := none
  vaux := 0
  rails := []
  board := []
  hbmTemp := List.replicate 12 0
  tj := List.replicate 112 0
  tjMax := 0
  standbyDue := false
  readyDue := true
  readyAsked := false
  levelNs := 0
  changes := 0
  emergencies := 0
  droops := 0
  regFaults := 0
  refUnlocked := false
  refAbsent := false
  ppsValid := false
  ppsEdges := 0
  ppsLast := none

/-- Boot and firmware under the first reset (15_boot_firmware_security.md R418, R419, R437; log 3, log 4). -/
def Boot.factory : Boot where
  step := 0
  dirs := List.replicate 2 (some ⟨1, List.replicate 6 false⟩)
  flash := List.replicate 2 factoryFlash
  regions := List.replicate 2 []
  running := List.replicate 6 none
  staging := List.replicate 6 none
  stagedVersion := List.replicate 6 1
  current := List.replicate 6 none
  cores := List.replicate 23 ⟨none, []⟩
  mail := List.replicate 23 []
  released := false
  act := .idle
  actClass := 0
  actSince := 0
  switched := 0
  result := (0, 0, 0)
  confirm := none
  revoke := none
  retired := 0
  dremosSource := List.replicate 15 0
  dremosUrl := []
  dremos := none
  key := 0
  bundle := 0
  genKat := 0
  genRuns := 0

/-- The dictionary's settings at their defaults (R191, R212, R250, R298, R355, R397, R437, R456; log 3). -/
def Settings.factory : Settings where
  syncWaitLimit := 1000000
  haloTimeout := 10000
  meshAckLimit := 100000
  collStepLimit := 100000
  testWaitLimit := 60000
  ageLimit := 250
  replayRate := 16
  actWaitLimit := 600
  wellEnable := true
  mailboxRole := 1
  ppsOutEnable := false
  roleEntries := List.replicate 32 (List.replicate 50 0)
  portEnable := List.replicate 12 true

/-- The staged entries at their defaults (09_fohal_scale_out.md R298; 11_object_dictionary.md R355; log 3). -/
def Staged.factory : Staged where
  mgmtAddr := List.replicate 17 0
  topology := 1
  fabricAddr := 0x7FFF
  coord := (0, 0, 0)
  dims := (32, 32, 20)
  ethMode := List.replicate 4 0
  debias := 1
  detEnable := true
  longSum := 0

/-- The device right after reset. -/
def Dev.reset : Dev where
  fuses := Fuses.reset
  time := ⟨0, 0⟩
  slots := List.replicate 80 Slot.factory
  jobs := List.replicate 64 none
  crofts := []
  cmds := []
  nextCmd := 0
  queues := []
  mem := []
  memPoison := []
  units := MemUnits.factory
  mesh := ⟨[], [], false, List.replicate 480 0⟩
  pins := ⟨true, true, false, false, false, false, 0⟩
  power := Power.factory
  boot := Boot.factory
  test := ⟨.idle, 0, 0, List.replicate 80 (0, 0)⟩
  well := Well.reset 0
  tap := ⟨.testLogicReset, 1, [], none⟩
  fabric := ⟨List.replicate 12 Port.reset, [], 0, [], 0, [], [], [], .free, 0, [], [], [], none, false, false, [], 0⟩
  hub := Hub.reset 0
  settings := Settings.factory
  live := Staged.factory
  shadow := Staged.factory
  bars := []
  signals := []
  sent := []
  logs := ⟨[], [], 0, [], [], 0, 0, false, none, 0, 0, []⟩
  mapGen := 0
  irqs := []
  freeCount := 0

/-- The machine right after reset: the device held in reset, and no command waiting. -/
def State.reset : State := ⟨[], Dev.reset⟩

end Sys2Proof.Machine
end

