-- ==== Sys2Proof/Machine/Ops.lean ====
section
/-!
DEFINITION. The named operations over the device that the meanings share: looking up crofts and jobs, memory, time,
the event log, free values, and the halt of a job by a fault (07_croft_instruction_set.md R226), which is the one place
where a fault takes effect.
-/

namespace Sys2Proof.Machine

/-- Units of `TimeState.elapsed` in one ns. -/
def unitsPerNs : Nat := 36756720

/-- Units of elapsed time in one croft cycle at a throttle level: the croft clock is 2.7 GHz less 0.15 GHz for each
level up to 9 (16_power_clocks_thermal.md R446). -/
def cycleUnits (level : Nat) : Nat := 245044800 / (18 - min level 9)

/-- Cycles of a length that end within `units` after an elapsed time. -/
def cyclesIn (elapsed units len : Nat) : Nat := (elapsed + units) / len - elapsed / len

/-- Device time in ns (09_fohal_scale_out.md R282). -/
def Dev.now (d : Dev) : Nat := ((d.time.elapsed / unitsPerNs : Nat) + d.time.offset).toNat

/-- Elapsed time in ns (09_fohal_scale_out.md R282). -/
def Dev.elapsedNs (d : Dev) : Nat := d.time.elapsed / unitsPerNs

/-- A free value, and the device with its draw counter advanced (log 5). -/
def Dev.draw (d : Dev) : Word64 × Dev := (Config.freeValue d.freeCount, { d with freeCount := d.freeCount + 1 })

/-- Free bytes, `n` of them, each of its own (log 5). -/
def Dev.drawBytes (d : Dev) (n : Nat) : List Byte × Dev :=
  ((List.range n).map fun i => (Config.freeValue (d.freeCount + i)).extractLsb' 0 8, { d with freeCount := d.freeCount + n })

/-- The logical croft of a reference, while its job is open and it has been launched. -/
def Dev.croft (d : Dev) (c : CroftRef) : Option Croft := d.crofts.find? fun x => x.job == c.job && x.n == c.n

/-- The device with a logical croft's state replaced. -/
def Dev.setCroft (d : Dev) (x : Croft) : Dev :=
  { d with crofts := d.crofts.map fun y => if y.job == x.job && y.n == x.n then x else y }

/-- The device with a logical croft's state mapped; unchanged when there is none. -/
def Dev.onCroft (d : Dev) (c : CroftRef) (f : Croft → Croft) : Dev :=
  { d with crofts := d.crofts.map fun y => if y.job == c.job && y.n == c.n then f y else y }

/-- The open job at a position (01_croft_anatomy.md R37). -/
def Dev.job (d : Dev) (j : Fin 64) : Option Job := (d.jobs[j.val]?).join

/-- The device with the job at a position mapped. -/
def Dev.onJob (d : Dev) (j : Fin 64) (f : Job → Job) : Dev :=
  { d with jobs := modifyAt d.jobs j.val (Option.map f) }

/-- The slot with a number. -/
def Dev.slot (d : Dev) (s : Fin 80) : Option Slot := d.slots[s.val]?

/-- The device with a slot mapped. -/
def Dev.onSlot (d : Dev) (s : Fin 80) (f : Slot → Slot) : Dev := { d with slots := modifyAt d.slots s.val f }

/-- The logical croft that a slot carries now (R37). -/
def Dev.carried (d : Dev) (s : Fin 80) : Option Croft := d.crofts.find? fun x => x.slot == some s

/-- Whether a power or thermal emergency stands (16_power_clocks_thermal.md R449). -/
def Dev.emergency (d : Dev) : Bool := d.power.emPower || d.power.emThermal

/-- Whether an emergency on some device of a job holds its time limits (R449). -/
def Dev.limitsHeld (d : Dev) (j : Fin 64) : Bool := d.emergency || (d.job j).any fun q => !q.standing.isEmpty

/-- The device with something sent to the outside. -/
def Dev.send (d : Dev) (m : Sent) : Dev := { d with sent := d.sent ++ [m] }

/-! ## Event log (13_checking_replay_test.md R391 to R395, R473) -/

/-- Records in the general region (R393). -/
def generalCap : Nat := 245760
/-- Records in the fatal region (R393). -/
def fatalCap : Nat := 16384

/-- A region with a record added; a full region first loses its oldest sector of 2,048 records (R393). -/
def pushRegion (cap : Nat) (l : List EventRec) (r : EventRec) : List EventRec :=
  (if cap ≤ l.length then l.drop 2048 else l) ++ [r]

/-- The sector of the oldest record of a region after a record is added. -/
def pushAt (cap : Nat) (l : List EventRec) (at_ : Nat) : Nat := if cap ≤ l.length then (at_ + 1) % (cap / 2048) else at_

/-- The record number within its region at which the next record lies (R393). -/
def nextAt (cap : Nat) (l : List EventRec) (at_ : Nat) : Nat := (2048 * at_ + l.length) % cap

/-- What a board agent programmed over the log, without the bytes that a record takes (log 97). -/
def rawWithout (raw : List (Nat × Byte)) (off : Nat) : List (Nat × Byte) := raw.filter fun p => p.1 < off || off + 32 ≤ p.1

/-- A record written to its region (R393). -/
def Logs.write (l : Logs) (time event severity kind source : Nat) (low : Word64) : Logs :=
  let r : EventRec := ⟨l.count + 1, time, event, severity, kind, source, low⟩
  let l := { l with count := satAdd 64 l.count 1 }
  if severity = 3 then { l with
    fatal := pushRegion fatalCap l.fatal r, fatalAt := pushAt fatalCap l.fatal l.fatalAt
    raw := rawWithout l.raw (32 * (generalCap + nextAt fatalCap l.fatal l.fatalAt)) }
  else { l with
    general := pushRegion generalCap l.general r, generalAt := pushAt generalCap l.general l.generalAt
    raw := rawWithout l.raw (32 * nextAt generalCap l.general l.generalAt) }

/-- An event that is not aggregated (R395). -/
def Dev.event (d : Dev) (event severity kind source : Nat) (detail : Word64) : Dev :=
  { d with logs := d.logs.write d.now event severity kind source detail }

/-- A minute in ns (R395). -/
def minuteNs : Nat := 60000000000

/-- Whether an aggregate gathers an event of a source in a minute. -/
def Aggregate.of (a : Aggregate) (event kind source minute : Nat) : Bool :=
  a.event == event && a.kind == kind && a.source == source && a.minute == minute

/-- An aggregate with one more occurrence. -/
def Aggregate.more (a : Aggregate) (detail : Nat) : Aggregate :=
  { a with count := a.count + 1, detail := a.detail + detail }

/-- An occurrence of a corrected event, gathered until the end of its minute of elapsed time (R395). -/
def Dev.corrected (d : Dev) (event kind source : Nat) (detail : Nat) : Dev :=
  let l := d.logs.aggregates
  let minute := d.elapsedNs / minuteNs
  let l := if l.any (·.of event kind source minute) then l.map fun a => if a.of event kind source minute then a.more detail else a
    else l ++ [⟨event, kind, source, minute, d.now, 1, detail⟩]
  { d with logs := { d.logs with aggregates := l } }

/-- The severity of a fault record (R473). -/
def faultSeverity (code : Nat) : Nat :=
  if code / 256 = 0x0A ∨ code = 0x0804 ∨ (code / 256 = 0x0B ∧ code ≠ 0x0B08) then 2
  else if code = 0x0B08 ∨ (0x0C01 ≤ code ∧ code ≤ 0x0C03) then 3
  else 0

/-- An event to which the manual gives no severity and no meaning of DETAIL64 (R394, R395): both are free (log 19). -/
def Dev.eventOpen (d : Dev) (event kind source : Nat) : Dev :=
  d.draw.2.event event (Config.eventSeverity event).val kind source d.draw.1

/-- The key of a value's version; the shadow value of an RWS entry has its own (11_object_dictionary.md R343). -/
def verKey (index sub : Nat) (shadow : Bool) : Nat := index * 256 + sub + (if shadow then 2 ^ 24 else 0)

/-- A version with one more change. -/
def addChange (l : List (Nat × Nat)) (k : Nat) : List (Nat × Nat) :=
  if l.any (fun p => p.1 == k) then l.map fun p => if p.1 == k then (k, p.2 + 1) else p else l ++ [(k, 1)]

/-- Changes of a value within one command (11_object_dictionary.md R343) beyond what a comparison of the states before and after it
shows. -/
def Dev.changedMore (k index sub : Nat) (d : Dev) : Dev :=
  { d with hub := { d.hub with versions := (List.range k).foldl (fun l _ => addChange l (verKey index sub false)) d.hub.versions } }

/-- A value that one command changes and changes back: two changes. -/
def Dev.thereAndBack (d : Dev) (index sub : Nat) : Dev :=
  { d with hub := { d.hub with versions := addChange (addChange d.hub.versions (verKey index sub false)) (verKey index sub false) } }

/-- An event the manual names without an identity, in the range 0xE000..0xEFFF of R393 (log 19). -/
def Dev.eventNamed (d : Dev) (e : Config.NamedEvent) (kind source : Nat) : Dev :=
  d.eventOpen (0xE000 + (Config.eventIdentity e).toNat) kind source

/-- An event the manual names without an identity, with a DETAIL64 that it gives (R394; log 19). -/
def Dev.eventNamedWith (d : Dev) (e : Config.NamedEvent) (kind source : Nat) (detail : Word64) : Dev :=
  let v := 0xE000 + (Config.eventIdentity e).toNat
  d.event v (Config.eventSeverity v).val kind source detail

/-- A fault entered in the event log (R227, R473): from the slot that carried the croft, or from the hub. -/
def Dev.faultEvent (d : Dev) (code : Nat) (slot : Option (Fin 80)) (detail : Word64) : Dev :=
  match slot with
  | some s => d.event code (faultSeverity code) 1 s.val detail
  | none => d.event code (faultSeverity code) 0 0 detail

/-! ## Memory -/

/-- A Granary write with the poison rule of R378. -/
def Croft.write (x : Croft) (a : Nat) (bs : List Byte) : Croft :=
  { x with granary := writeBytes x.granary a bs, poison := unpoison x.poison a bs.length }

/-- A Granary range zeroed. -/
def Croft.clear (x : Croft) (a n : Nat) : Croft :=
  { x with granary := clearBytes x.granary a n, poison := unpoison x.poison a n }

/-- Bytes of a croft's Granary. -/
def Croft.read (x : Croft) (a n : Nat) : List Byte := readBytes x.granary a n

/-- A device memory write with the poison rule of R378. -/
def Dev.write (d : Dev) (a : Nat) (bs : List Byte) : Dev :=
  { d with mem := writeBytes d.mem a bs, memPoison := unpoison d.memPoison a bs.length }

/-- Bytes of device memory. -/
def Dev.read (d : Dev) (a n : Nat) : List Byte := readBytes d.mem a n

/-- Whether a range meets a poisoned 8-byte word (R379). -/
def meetsPoison (p : List Nat) (a n : Nat) : Bool := p.any fun w => spansMeet (w, 8) (a, n)

/-- The first device address of LPDDR5X (08_mesh_and_memory.md R256). -/
def lpBase : Nat := 2 ^ 41

/-- Whether an address lies in the HBM3E or LPDDR5X range (R256). -/
def inTiers (a : Nat) : Bool := a < 12 * 2 ^ 36 || (lpBase ≤ a && a < lpBase + 24 * 2 ^ 36)

/-- The backed bytes of an LPDDR5X subsystem (R252): seven eighths of its installed capacity, none when its training failed
(DEDUCED, log 96). -/
def MemUnits.lpBacked (u : MemUnits) (n : Nat) : Nat := if u.lpState.getD n 0 = 1 then u.lpInstalled.getD n 0 / 8 * 7 else 0

/-- The backed bytes of the unit that holds an address (R251, R252). -/
def MemUnits.backedAt (u : MemUnits) (a : Nat) : Nat :=
  if a < lpBase then u.hbmBacked.getD (a / 2 ^ 36) 0 else u.lpBacked ((a - lpBase) / 2 ^ 36)

/-- Whether a byte is backed (R251, R252). -/
def MemUnits.backed (u : MemUnits) (a : Nat) : Bool := a % 2 ^ 36 < u.backedAt a

/-- The places of a range where backing can change: its first and last byte and every unit boundary inside it (R251,
R252). A range of at most 2^46 bytes crosses few units. -/
def rangeProbes (a n : Nat) : List Nat :=
  if n = 0 then []
  else
    let lo := a / 2 ^ 36
    let hi := (a + n - 1) / 2 ^ 36
    [a, a + n - 1] ++ ((List.range (min (hi - lo) 64)).flatMap fun k => [(lo + k + 1) * 2 ^ 36 - 1, (lo + k + 1) * 2 ^ 36])

/-- Whether some byte of a range lies outside the tiers (R253). -/
def outsideTiers (a n : Nat) : Bool := (rangeProbes a n).any fun p => !inTiers p

/-- Whether some byte of a range lies in a tier at or beyond the backed size (R253). -/
def MemUnits.unbackedIn (u : MemUnits) (a n : Nat) : Bool := (rangeProbes a n).any fun p => inTiers p && !u.backed p

/-- The first device address past the stacks of the north ring die (08_mesh_and_memory.md R230). -/
def northEnd : Nat := 3 * 2 ^ 36

/-- The fault codes of a device range for a hub command, a hub engine or firmware (R253); one that lies on another ring die than
the hub's north one needs a route over the mesh (R239, R257). -/
def Dev.hubRange (d : Dev) (a n : Nat) : List Nat :=
  when_ (d.units.unbackedIn a n) 0x0601 ++ when_ (outsideTiers a n) 0x0602
    ++ when_ (d.mesh.broken && decide (0 < n) && decide (northEnd < a + n)) 0x0603

/-! ## The halt of a job (07_croft_instruction_set.md R226, R322) -/

/-- OPCODE of a submission entry (10_queues_and_hub.md R311). -/
def Cmd.opcode (c : Cmd) : Nat := leAt c.entry 0 1

/-- The logical crofts a LAUNCH or FIELD_RUN names (R315). -/
def Cmd.names (c : Cmd) (n : Fin 256) : Bool :=
  match c.opcode with
  | 0x01 => bitOf (leAt c.entry 0x30 32) n.val
  | 0x06 => leAt c.entry 0x20 2 == n.val
  | _ => false

/-- Whether an instruction runs on a unit of a croft (01_croft_anatomy.md R23). -/
def Croft.unitRuns (x : Croft) : Bool :=
  (x.units.mill ++ x.units.drain ++ x.units.row ++ [x.units.field, x.units.move, x.units.mesh]).any Option.isSome

/-- The running LAUNCH or FIELD_RUN of a croft. -/
def Dev.commandOf (d : Dev) (c : CroftRef) : Option Cmd :=
  d.cmds.find? fun x => x.job == some c.job && x.state == .running && x.names c.n

/-- DETAIL of a completion entry with a fault record (R319). -/
def faultDetail (croft dev index : Nat) : Word64 :=
  BitVec.ofNat 64 (croft % 2 ^ 8 * 2 ^ 56 + dev % 2 ^ 15 * 2 ^ 41 + index % 2 ^ 22 * 2 ^ 19)

/-- SWEEPS of the Field's run context. -/
def Croft.runSweeps (x : Croft) : Nat := (x.ctxs[x.field.ctx]?.map (·.sweeps.toNat)).getD 0

/-- Whether a running FIELD instruction waits for a halo record, and so stops at once (R226 step 3). -/
def Croft.fieldWaits (x : Croft) (s : Nat) : Bool :=
  match x.units.field with
  | none => false
  | some r =>
    let w := x.runSweeps
    match InstrWord.operation r.ins.word with
    | some .sweep =>
      !x.field.synced || (x.field.phase < 2 && w < x.field.target
        && !haloPresent x.field.image (x.field.phaseRecords s w x.field.phase))
    | some .snap => !x.field.synced || (x.field.snapHistory s w).isNone
    | some .read => !x.field.synced || !x.field.edgePresent w
    | _ => false

/-- A FIELD instruction stopped at the phase boundary where it waits: SWEEPS stays at the last completed sweep with the
states of that sweep (R182, R226). -/
def Croft.stopField (x : Croft) : Croft :=
  { x with
    units := { x.units with field := none }
    ctxs := modifyAt x.ctxs x.field.ctx fun c => { c with cls := 0 }
    field := { x.field with
      states := if x.field.phase = 0 then x.field.states else x.field.prior
      eInt := if x.field.phase = 0 then x.field.eInt else x.field.priorE
      phase := 0, pending := [] } }

/-- A sampler instruction whose hand-over can no longer come is dropped (R226 step 3; DESIGN CHOICE, log 17). -/
def Croft.dropRows (x : Croft) : Croft :=
  { x with units := { x.units with row := (x.units.row.zipIdx).map fun p =>
      match p.1 with
      | none => none
      | some r => match r.ins.matched with
        | none => some r
        | some q =>
          let buffered := ((x.hand.getD p.2 ⟨none, []⟩).buffer).any fun b => b.seq == q
          let running := x.units.drain.any fun u => match u with
            | some w => w.ins.seq == q
            | none => false
          if buffered || running then some r else none } }

/-- One logical croft halted (R226 steps 2 and 3): issue stops, queues and pending signals are discarded, each unit
goes on with the instruction it runs, and the Field stops at the end of its sweep, or at once where it waits. -/
def Croft.halt (staleness : Nat) (x : Croft) : Croft :=
  let x : Croft := { x with
    seq := { x.seq with state := if x.seq.state = .stopped then .stopped else .halted, held := false, signals := [] }
    units := { x.units with queues := x.units.queues.map fun _ => [] }
    field := { x.field with pending := [] } }
  let x := x.dropRows
  if x.fieldWaits staleness then x.stopField
  else
    match x.units.field with
    | some r =>
      if InstrWord.operation r.ins.word = some .sweep then
        { x with field := { x.field with target := min x.field.target (x.runSweeps + 1) } }
      else x
    | none => x

/-- Whether the halt of its job ends a command: one that is not yet finished, LEDGER_CLOSE apart (R322). -/
def Cmd.endsWithJob (c : Cmd) (j : Fin 64) : Bool := c.job == some j && c.state != .finished && c.opcode != 0x09

/-- What the crofts that a LAUNCH or FIELD_RUN names have reported so far (10_queues_and_hub.md R320). -/
def Dev.reportOf (d : Dev) (c : Cmd) : BitVec 8 :=
  (d.crofts.filter fun x => c.job == some x.job && c.names x.n).foldl (fun (a : BitVec 8) x => a ||| x.report) 0

/-- A command that the halt of its job ends: the carrier completes with the fault, every other with `other`, which is
ABORTED or, at the loss of a device, DEVICE_LOST (R226 step 5, R296, R322). A running command keeps what its crofts have
reported (R320). -/
def Cmd.haltWith (c : Cmd) (carrier : Option Nat) (fr : FaultRec) (other : Nat) (report : BitVec 8) : Cmd :=
  let flags := if c.state == .running then c.cflags ||| report else c.cflags
  if carrier = some c.id then
    { c with state := .finished, status := fr.code, cflags := flags, result := BitVec.ofNat 64 fr.step, detail := fr.detail }
  else { c with state := .finished, status := other, cflags := flags, result := 0, detail := 0 }

/-- The command that carries a fault raised outside the crofts: the job's oldest running LAUNCH or FIELD_RUN. -/
def Dev.launchOf (d : Dev) (j : Fin 64) : Option Nat :=
  (d.cmds.find? fun c => c.job == some j && c.state == .running && (c.opcode == 0x01 || c.opcode == 0x06)).map (·.id)

/-- A fault that completes a command without a fault record, as the event log holds it (R227, R473). -/
def Dev.commandFault (d : Dev) (code : Nat) : Dev := d.faultEvent code none 0

/-- The halt of a job (R226, R322, R296). A job halts once: a later fault is entered in the event log (R227) and changes
nothing else. -/
def Dev.haltJob (d : Dev) (j : Fin 64) (fr : FaultRec) (slot : Option (Fin 80)) (carrier : Option Nat) (other : Nat) : Dev :=
  match d.job j with
  | none => d
  | some job =>
    if job.fault.isSome then d.faultEvent fr.code slot 0
    else
      let ends := (d.cmds.filter fun c => c.endsWithJob j && carrier != some c.id).length
      let d : Dev := { d with
        crofts := d.crofts.map fun x => if x.job == j then x.halt job.params.staleness else x
        cmds := d.cmds.map fun c => if c.endsWithJob j then c.haltWith carrier fr other (d.reportOf c) else c
        signals := d.signals.filter fun s => s.job != j
        bars := d.bars.filter fun b => b.job != j }
      let d := d.onJob j fun q => { q with fault := some fr, colls := [] }
      let coll := (job.colls.find? fun k => carrier == some k.cmd).map (·.collId)
      let d := if 1 < job.params.devices then d.send (.halt j fr coll) else d
      (List.range ends).foldl (fun d _ => d.commandFault other) (d.faultEvent fr.code slot fr.detail)

/-- The number of the step that the instruction at an index belongs to (R213): while a croft waits at SYNC.BAR, that
instruction made the last boundary and belongs to the step before it; any other belongs to the croft's present step. -/
def Croft.stepOf (x : Croft) (index : Nat) : Nat :=
  match x.seq.state with
  | .barrier _ _ _ _ => if index + 1 = x.seq.pc then x.seq.step - 1 else x.seq.step
  | _ => x.seq.step

/-- A fault of a croft in a step: the record names the croft, the instruction index and that step (R226 step 5). -/
def Dev.croftFaultIn (d : Dev) (c : CroftRef) (code index step : Nat) : Dev :=
  match d.croft c, d.job c.job with
  | some x, some job =>
    d.haltJob c.job ⟨code, step, faultDetail c.n.val job.params.ldev index⟩ x.slot ((d.commandOf c).map (·.id)) 0x010D
  | _, _ => d

/-- A fault raised by an instruction of a croft, or in a croft, in the step the instruction belongs to (R226 step 5). -/
def Dev.croftFault (d : Dev) (c : CroftRef) (code index : Nat) : Dev :=
  match d.croft c with
  | some x => d.croftFaultIn c code index (x.stepOf index)
  | none => d

/-- A fault raised outside every croft: step, croft, device and index are 0 (R226 step 5). -/
def Dev.jobFault (d : Dev) (j : Fin 64) (code : Nat) (carrier : Option Nat) : Dev :=
  d.haltJob j ⟨code, 0, 0⟩ none (if carrier.isSome then carrier else d.launchOf j) 0x010D

/-! ## Outcomes inside the sequencer -/

/-- What one event at a croft comes to: the croft as it is then, or a fault with its code and instruction index. -/
inductive Did where
  | ok (x : Croft)
  | fault (code index : Nat)
deriving DecidableEq, Repr

/-- The event's effect on the device. -/
def Dev.apply (d : Dev) (c : CroftRef) (r : Did) : Dev :=
  match r with
  | .ok x => d.setCroft x
  | .fault code index => d.croftFault c code index

/-- The program range of a croft with a running program (R222). -/
def Croft.progRange (x : Croft) : Option (Nat × Nat) :=
  match x.seq.state with
  | .stopped => none
  | .halted => none
  | _ => some (x.seq.loadOffset, 16 * x.seq.count)

/-- Whether a write to a croft's Granary meets its running program (R222). -/
def Croft.progHit (x : Croft) (ranges : List (Nat × Nat)) : Bool :=
  match x.progRange with
  | none => false
  | some p => ranges.any fun r => spansMeet p r

end Sys2Proof.Machine
end

