-- ==== Sys2Proof/Machine/Images.lean ====
section
/-!
DEFINITION. Firmware images: their verification, the boot directory, the images in use, and the course of an activation
(15_boot_firmware_security.md R417 to R422, R426, R430 to R433).
-/

namespace Sys2Proof.Machine

/-! ## Images (R421, R422) -/

/-- TAG of an image header (R421). -/
def imageTag : Nat := 0x474D4952

/-- Largest BODY_BYTES of a class (R417). -/
def maxBody (c : Nat) : Nat :=
  ([458752, 229376, 983040, 229376, 8388096, 100662784] : List Nat).getD c (2 ^ 32 - 1)

/-- BODY_BYTES of an image. -/
def imageBody (bs : List Byte) : Nat := leAt bs 0x10 4

/-- KEY_SLOT of an image. -/
def imageKeySlot (bs : List Byte) : Nat := leAt bs 7 1

/-- VERSION of an image. -/
def imageVersion (bs : List Byte) : Word32 := BitVec.ofNat 32 (leAt bs 8 4)

/-- BUNDLE of an image. -/
def imageBundle (bs : List Byte) : Nat := leAt bs 0xC 2

/-- ROLLBACK of an image. -/
def imageRollback (bs : List Byte) : Nat := leAt bs 0xE 1

/-- LOAD_OFFSET of an image (R421): where its body goes in the SRAM of its core; it counts for classes 0 to 3. -/
def imageLoad (bs : List Byte) : Nat := leAt bs 0x14 4

/-- Bytes of an image slot. A byte that the slot lacks is erased flash, which reads as ones (log 38). -/
def slotSlice (bs : List Byte) (off n : Nat) : List Byte :=
  let got := slice bs off (min n (bs.length - off))
  got ++ List.replicate (n - got.length) 0xFF

/-- Whether some byte of a range is not zero. -/
def anySet (bs : List Byte) (off n : Nat) : Bool := decide (bs.length < off + n) || (slice bs off n).any fun b => b != 0

/-- Check 1 of R422 fails: IMAGE_FORMAT. -/
def imageFormatBad (c : Nat) (bs : List Byte) : Bool :=
  leAt bs 0 4 != imageTag || leAt bs 4 2 != 1 || leAt bs 6 1 != c || anySet bs 0xF 1 || anySet bs 0x1C 4 || anySet bs 0xB0 80
    || anySet bs 0x160 160 || maxBody c < imageBody bs || 64 < imageRollback bs || imageBody bs ≤ leAt bs 0x18 4

/-- The fused hash of a root-key slot as bytes. -/
def Fuses.keyHash (f : Fuses) (k : Nat) : List Byte := beBytes 48 ((f.rootKeyHash.getD k 0).toNat)

/-- Whether a root-key slot is programmed and not revoked (R422). -/
def Fuses.keyUsable (f : Fuses) (k : Nat) : Bool := k < 4 && f.rootKeyHash.getD k 0 != 0 && !f.rootRevoked.getLsbD k

/-- Check 2 of R422 fails: IMAGE_KEY. -/
def Fuses.imageKeyBad (f : Fuses) (bs : List Byte) : Bool :=
  !f.keyUsable (imageKeySlot bs) || sha384 (slice bs 0x50 96) != f.keyHash (imageKeySlot bs)

/-- The first of checks 1 to 5 of R422 that fails. -/
def Fuses.imageFault (f : Fuses) (c : Nat) (bs : List Byte) : Option Nat :=
  if imageFormatBad c bs then some 0x0B01
  else if f.imageKeyBad bs then some 0x0B02
  else if !ecVerify (slice bs 0x50 96) (slice bs 0x100 96) (slice bs 0 0x100) then some 0x0B03
  else if sha384 (slotSlice bs 0x200 (imageBody bs)) != slice bs 0x20 48 then some 0x0B04
  else if imageRollback bs < f.rollback.getD c 0 then some 0x0B05
  else none

/-- The image slot of a class in flash 0 (slot A) or flash 1 (slot B) (R418). -/
def Boot.slotImage (b : Boot) (slotB : Bool) (c : Nat) : List Byte := ((b.flash.getD slotB.toNat []).getD c [])

/-- The image in use of a class: what its cores run, the pattern image of class 5, the loaded Dremos image of class 6. -/
def Boot.inUse (b : Boot) (c : Nat) : Option (List Byte) :=
  if c = 6 then b.dremos else (b.running.getD c none).map (·.bytes)

/-- Check 6 of R422 fails: IMAGE_BUNDLE. At the ROM the running Watch image is not there yet, and a Watch image is held
against that of the other slot when that one passes checks 1 to 5. -/
def Dev.bundleBad (d : Dev) (rom : Bool) (c : Nat) (slotB : Bool) (bs : List Byte) : Bool :=
  if rom && c = 0 then
    let other := d.boot.slotImage (!slotB) 0
    (d.fuses.imageFault 0 other).isNone && imageBundle other / 256 != imageBundle bs / 256
  else match d.boot.inUse 0 with
    | some w => imageBundle w / 256 != imageBundle bs / 256
    | none => false

/-- The fault of an image under R422, if any. -/
def Dev.verifyImage (d : Dev) (rom : Bool) (c : Nat) (slotB : Bool) (bs : List Byte) : Option Nat :=
  match d.fuses.imageFault c bs with
  | some code => some code
  | none => if d.bundleBad rom c slotB bs then some 0x0B06 else none

/-! ## Boot directory (R419) -/

/-- The governing record: the higher GENERATION of the valid ones, flash 0 on a tie. -/
def Boot.governing (b : Boot) : Option BootDir :=
  match (b.dirs.getD 0 none), (b.dirs.getD 1 none) with
  | some x, some y => some (if x.generation < y.generation then y else x)
  | some x, none => some x
  | none, y => y

/-- The active slot of a class by the directory. With no valid record it is slot A (log 26). -/
def Boot.active (b : Boot) (c : Nat) : Bool := (b.governing.map fun r => r.active.getD c false).getD false

/-- The slot of a class that counts as active: the one that a boot took, after a fallback too, or an activation made active since;
else the directory's (R428, R431, log 76). The other one is the inactive slot. -/
def Boot.slotInUse (b : Boot) (c : Nat) : Bool := (b.current.getD c none).getD (b.active c)

/-- The directory changed so that a slot is active: both records take the next GENERATION (R419). -/
def Boot.setActive (b : Boot) (c : Nat) (slotB : Bool) : Boot :=
  let r := b.governing.getD ⟨0, List.replicate 6 false⟩
  let r : BootDir := ⟨(r.generation + 1) % 2 ^ 32, r.active.set c slotB⟩
  { b with dirs := [some r, some r] }

/-- The 64 bytes of a boot directory record (R419). -/
def BootDir.bytes (r : BootDir) : List Byte :=
  let body := leBytes 4 0x52494452 ++ leBytes 4 r.generation ++ r.active.map (fun b => BitVec.ofNat 8 b.toNat) ++ List.replicate 46 0
  body ++ leBytes 4 (crc32 body).toNat

/-! ## Images in use -/

/-- The cores of a class (R416, R417): Watch, Hearth, Bailiff, and the Reeves 3 to 22. -/
def coresOfClass (c : Nat) : List Nat := if c < 3 then [c] else if c = 3 then (List.range 20).map (3 + ·) else []

/-- Bytes of the private SRAM of a core (R416). -/
def sramSize (k : Nat) : Nat := if k = 0 then 0x80000 else if k = 2 then 0x100000 else 0x40000

/-- A core with an image in its SRAM: the body from LOAD_OFFSET up (R421, R422). What else the SRAM holds the manual does not say
(log 108). -/
def Core.load (size : Nat) (img : RunImage) : Core :=
  let off := imageLoad img.bytes
  ⟨some img, writeBytes [] off (slotSlice img.bytes 0x200 (min (imageBody img.bytes) (size - off)))⟩

/-- The device's boot state with an image loaded into some cores. -/
def Boot.loadCores (b : Boot) (ks : List Nat) (img : RunImage) : Boot :=
  { b with cores := ks.foldl (fun l k => l.set k (Core.load (sramSize k) img)) b.cores }

/-- An image taken into use by a class: its slot counts as active, and its cores run it. -/
def Boot.use (b : Boot) (c : Nat) (img : RunImage) : Boot :=
  { b with running := b.running.set c (some img), current := b.current.set c (some img.slotB) }.loadCores (coresOfClass c) img

/-- The highest BUNDLE among the images of classes 0 to 4 in use (R431). -/
def Boot.highestBundle (b : Boot) : Nat :=
  (List.range 5).foldl (fun m c => max m ((b.inUse c).map imageBundle |>.getD 0)) 0

/-- An element of the FIRMWARE section for a class's image in use (12_determinism_and_ledger.md R367). -/
def Boot.firmwareElem (b : Boot) (c : Nat) : Option (Nat × Word32 × List Byte) :=
  (b.inUse c).map fun i => (c, imageVersion i, sha384 i)

/-- The images in use, as elements of the FIRMWARE section, by class. -/
def Dev.runningImages (d : Dev) : List (Nat × Word32 × List Byte) := (List.range 7).filterMap d.boot.firmwareElem

/-- The ledgers of the open jobs with a newly active image (R367, R431). -/
def Dev.gainFirmware (d : Dev) (c : Nat) (image : List Byte) : Dev :=
  { d with jobs := d.jobs.map (Option.map fun q =>
      { q with ledger := { q.ledger with firmware := q.ledger.firmware ++ [(c, imageVersion image, sha384 image)] } }) }

/-- The attestation key d (R426). -/
def attestKey (f : Fuses) : Nat :=
  let seed := beBytes 32 f.identitySeed.toNat
  let label : List Byte := ("RINNAWEN ATTEST P384".toList).map fun ch => BitVec.ofNat 8 ch.toNat
  let block := fun (i : Nat) => hmac384 seed (beBytes 4 i ++ label ++ [0] ++ leBytes 8 f.deviceId.toNat ++ beBytes 4 448)
  beNat ((block 1 ++ block 2).take 56) % (p384N - 1) + 1

/-- The device certificate chain (R426): its leaf carries the public key of the attestation key. -/
def Dev.certChain (d : Dev) : List Byte := Config.certChain (ecPublic (attestKey d.fuses))

/-! ## Activation (R430 to R433) -/

/-- A fault of a firmware request in the event log (R438). -/
def Dev.firmwareFault (d : Dev) (code : Nat) : Dev := d.faultEvent code none 0

/-- A request of class `c` ended with a fault code, 0 for OK, in ACTIVATION_RESULT (R437). -/
def Dev.endRequest (d : Dev) (c code : Nat) : Dev :=
  let d : Dev := { d with boot := { d.boot with result := (c, code, d.now) } }
  if code = 0 then d else d.firmwareFault code

/-- The activation in progress ended with a fault code, 0 for OK (R431, R438). -/
def Dev.endActivation (d : Dev) (code : Nat) : Dev :=
  let d : Dev := { d with boot := { d.boot with act := .idle, switched := 0 } }
  let d := d.endRequest d.boot.actClass code
  if code = 0 then d.eventOpen 0xE031 0 0 else d

/-- Cores of a class that an activation switches (R416, R432). -/
def coresOf (c : Nat) : Nat := if c = 3 then 20 else 1

/-- Whether the warm boundary of R432 is reached: the junctions at least 5 °C below the throttle threshold of 105.0 °C, package power at
least 10 % below the limit, no test RUNNING, for Watch no ledger signature in progress, and every running croft parked. -/
def Dev.warmBoundary (d : Dev) (signing : Bool) : Bool :=
  decide (d.power.tjMax ≤ 1000) && decide (10 * d.power.package ≤ 9 * (1000 * d.power.limit)) && d.test.state != .running
    && !(signing && d.boot.actClass == 0) && d.slots.all fun t => t.island != .run

/-- The image that the class's cores now run, of its other slot; a monitor runs from the next reset (R432). The slot
that was active holds the verified image of the inactive slot then. -/
def Dev.takeImage (d : Dev) (c : Nat) (slotB : Bool) : Dev :=
  let bytes := d.boot.slotImage slotB c
  let old := (imageVersion (((d.boot.running.getD c none).map (·.bytes)).getD (d.boot.slotImage (!slotB) c))).toNat
  let b := d.boot.setActive c slotB
  let b := { b with stagedVersion := b.stagedVersion.set c old, current := b.current.set c (some slotB) }
  let b := if c = 4 then b else { b with running := b.running.set c (some ⟨slotB, bytes⟩) }
  Dev.gainFirmware { d with boot := { b with bundle := b.highestBundle } } c bytes

/-- Watch restarted (R432): sessions close, its requests to the Well wait on, and the key is derived anew (R426). -/
def Dev.restartWatch (d : Dev) : Dev :=
  { d with
    boot := { d.boot with key := attestKey d.fuses }
    hub := { d.hub with sessions := d.hub.sessions.map fun _ => none } }

/-- Bailiff restarted on its state record (R432): the checks of R123 run again. -/
def Dev.restartBailiff (d : Dev) : Dev :=
  { d with
    boot := { d.boot with genKat := 0 }
    slots := d.slots.map fun t => { t with checked := false } }

/-- ACTIVATION_SWITCH (R431, R432, R433): one core of the class switches into the new slot; Bailiff and the Reeves have an idle point
while the main rails are on. With the last core the directory changes and
the activation ends; that of Bailiff ends with its checks (R123). -/
def Dev.activationSwitch (signing : Bool) (d : Dev) : Dev :=
  let b := d.boot
  let c := b.actClass
  let into := !b.slotInUse c
  if b.act == .idle || d.emergency || (c < 2 && !d.warmBoundary signing) || coresOf c ≤ b.switched
      || (c = 5 && d.test.state == .running) || ((c = 2 || c = 3) && !d.power.main) then d
  else
    let one := ((coresOfClass c).drop b.switched).take 1
    let d : Dev := { d with boot := { b with act := .activating, switched := b.switched + 1 }.loadCores one ⟨into, b.slotImage into c⟩ }
    if d.boot.switched < coresOf c then d
    else
      let d := d.takeImage c into
      if c = 2 then d.restartBailiff
      else
        let d := if c = 3 then d else d.changedMore 1 0x8003 1
        (if c = 0 then d.restartWatch else d).endActivation 0

/-- Whether a warm boundary is due, for which crofts park and launches wait (R432). -/
def Dev.activationHolds (d : Dev) : Bool := d.boot.act != .idle && d.boot.actClass < 2

/-- An emergency declared while an activation has cores left to switch: it waits again (R433). -/
def Boot.suspend (b : Boot) : Boot := if b.act == .activating && b.switched < coresOf b.actClass then { b with act := .queued } else b

end Sys2Proof.Machine
end

