-- ==== Sys2Proof/Machine/Issue.lean ====
section
/-!
DEFINITION. The sequencer (07_croft_instruction_set.md R193 to R223): fetching and issuing, semaphores, control
instructions, context instructions, synchronisation, and step boundaries. One operation, `Dev.issue`, issues the
instruction at the sequencer's position; an instruction that cannot go on is held, and tried again whenever an event at
its croft may have freed it.
-/

namespace Sys2Proof.Machine

/-! ## Fetch and position -/

/-- The instruction word at an index of the croft's program (R193). -/
def Croft.wordAt (x : Croft) (i : Nat) : InstrWord := BitVec.ofNat 128 (readLe x.granary (x.seq.loadOffset + 16 * i) 16)

/-- A semaphore's value. -/
def Croft.sem (x : Croft) (s : Nat) : Nat := ((x.seq.sems.getD s 0)).toNat

/-- An addition to a semaphore; past 65,535 it stays there (R209). `own` marks an addition of the step itself (R215). -/
def Croft.addSem (x : Croft) (s n : Nat) (own : Bool) : Croft :=
  { x with seq := { x.seq with
      sems := x.seq.sems.set s (BitVec.ofNat 16 (min (x.sem s + n) 65535))
      semOwn := if own then modifyAt x.seq.semOwn s fun v => v + n else x.seq.semOwn } }

/-- Whether an addition would pass 65,535 (R209). -/
def Croft.semOverflows (x : Croft) (s n : Nat) : Bool := decide (65535 < x.sem s + n)

/-- A subtraction that a wait makes (R207, R209). -/
def Croft.subSem (x : Croft) (s n : Nat) (own : Bool) : Croft :=
  { x with seq := { x.seq with
      sems := x.seq.sems.set s (BitVec.ofNat 16 (x.sem s - n))
      semOwn := if own then modifyAt x.seq.semOwn s fun v => v - n else x.seq.semOwn } }

/-- Whether an instruction's semaphore operations belong to its step for a replay (R215): the Field is not replayed
(R377), so those of FIELD instructions stand (log 18). -/
def InstrWord.ownSem (w : InstrWord) : Bool := InstrWord.cls w != 5

/-- The signal of a completed instruction (R207). -/
def Croft.signal (x : Croft) (w : InstrWord) (index : Nat) : Did :=
  if InstrWord.sigEn w then
    let y := x.addSem (InstrWord.sigSem w) 1 (InstrWord.ownSem w)
    if x.semOverflows (InstrWord.sigSem w) 1 then .fault 0x0206 index else .ok y
  else .ok x

/-- The sequencer past its instruction: the next index, one more issue in the step (R213). -/
def Croft.advance (x : Croft) (next : Nat) : Croft :=
  { x with seq := { x.seq with
      pc := next, held := false, claimed := false, inStep := x.seq.inStep + 1, nextSeq := x.seq.nextSeq + 1 } }

/-- The croft with its instruction held at issue. -/
def Croft.hold (x : Croft) : Croft := { x with seq := { x.seq with held := true } }

/-- Completion of an instruction that the sequencer executes itself: advance, then signal. -/
def Croft.done (x : Croft) (w : InstrWord) (next : Nat) : Did := (x.advance next).signal w x.seq.pc

/-! ## What instructions name, for the interlocks (R24, R85, R95, R97, R120, R200) -/

/-- The descriptor of an instruction in a queue, as it stands in the Granary now; none when it cannot be read. -/
def Croft.peek (x : Croft) (i : Issued) : List Byte :=
  match InstrWord.operation i.word with
  | some op => if InstrWord.desc i.word + descSize op ≤ granarySize then x.read (InstrWord.desc i.word) (descSize op) else []
  | none => []

/-- Every instruction issued and not complete, with its descriptor as read or as it stands (R23). An interlock that needs a
bit of a descriptor still in a queue, the SR bit of R95 among them, takes the Granary's bytes at each attempt; the manual has
a drain read its descriptor at its start only (R78) and does not say what the interlock sees before (DESIGN CHOICE, log 91). -/
def Croft.inFlight (x : Croft) : List Running :=
  let run := fun (l : List (Option Running)) => l.filterMap id
  run x.units.mill ++ run x.units.drain ++ run x.units.row ++ run [x.units.field, x.units.move, x.units.mesh]
    ++ (x.units.queues.flatMap fun q => q.map fun i => ⟨i, x.peek i, false⟩)

/-- The contexts an instruction names: first and count (R86, R87, R125, R168). -/
def ctxNamed (r : Running) : Option (Nat × Nat) :=
  match InstrWord.operation r.ins.word with
  | some .red =>
    let d := drainDesc r.desc
    if d.usesCtx then some (d.ctx0, InstrWord.rows r.ins.word) else none
  | some .emit => some ((drainDesc r.desc).ctx0, InstrWord.rows r.ins.word)
  | some .bern | some .gibbs | some .gumb | some .take | some .mask | some .fill =>
    let d := sampDesc r.desc
    match InstrWord.operation r.ins.word with
    | some op => if sampUsesCtx op d then some (d.ctx0, InstrWord.rows r.ins.word) else none
    | none => none
  | some .load | some .sweep | some .snap | some .read => some (fieldCtx r.desc, 1)
  | _ => none

/-- Whether a drain instruction writes contexts (R97). -/
def ctxWriter (r : Running) : Bool :=
  InstrWord.operation r.ins.word == some .red && (drainDesc r.desc).writesCtx

/-- The lane set an instruction consumes from (R119). -/
def setConsumed (r : Running) : Option Nat :=
  match InstrWord.operation r.ins.word with
  | some .red => if (drainDesc r.desc).consumes then some (InstrWord.unit r.ins.word) else none
  | some .bern | some .gibbs | some .gumb | some .mask | some .fill => some (InstrWord.unit r.ins.word)
  | some .sweep => some 4
  | _ => none

/-- Whether two ranges of contexts meet. -/
def ctxMeet (a b : Nat × Nat) : Bool := spansMeet a b

/-- Whether an instruction in flight names a context of the range (R200). -/
def Croft.ctxBusy (x : Croft) (c0 n : Nat) : Bool :=
  x.inFlight.any fun r => match ctxNamed r with
    | some p => ctxMeet p (c0, n)
    | none => false

/-- Whether an instruction in flight consumes from a set (R120). -/
def Croft.setBusy (x : Croft) (set : Nat) : Bool := x.inFlight.any fun r => setConsumed r == some set

/-! ## Context images (R28 to R32, R117 to R121) -/

/-- The set number 0..4 that a GEN_BLOCK names (R118). -/
def GenBlock.setNo (g : GenBlock) : Nat := if g.set = 1 then g.row.toNat else 4

/-- A GEN_BLOCK as R117 gives it after initialise. -/
def GenBlock.initial : GenBlock := ⟨false, false, 0, 0, 0, 0, 0⟩

/-- A context as CTRL.CINIT leaves it (R28 to R31). -/
def Ctx.init (valid : Bool) (kind : BitVec 2) (chain : BitVec 16) (lastClass : Byte) : Ctx where
  valid := valid
  comp := false
  kind := kind
  tiles := 0
  chain := chain
  rowMax := 0xFF800000
  expHi := 0
  expLo := 0
  redMax := 0xFF800000
  redMaxIdx := 0
  redMin := 0x7F800000
  redMinIdx := 0
  drawBest := 0xFF800000
  drawBestIdx := 0
  lastClass := lastClass
  cls := 0
  drawCount := 0
  sweeps := 0
  gen := GenBlock.initial

/-- HEADER (R29). -/
def Ctx.header (c : Ctx) : Nat :=
  c.valid.toNat * 2 ^ 63 + c.comp.toNat * 2 ^ 62 + c.kind.toNat * 2 ^ 60 + c.tiles.toNat * 2 ^ 32 + c.chain.toNat

/-- GB_CTRL (R118). -/
def GenBlock.ctrl (g : GenBlock) : Nat :=
  g.bound.toNat * 2 ^ 63 + g.family.toNat * 2 ^ 62 + g.set.toNat * 2 ^ 60 + g.row.toNat * 2 ^ 58

/-- The 2,048-byte image of a context (R28, R117). -/
def Ctx.image (c : Ctx) : List Byte :=
  leBytes 8 c.header ++ leBytes 4 c.rowMax.toNat ++ leBytes 4 0
    ++ leBytes 4 c.expHi.toNat ++ leBytes 4 c.expLo.toNat
    ++ leBytes 4 c.redMax.toNat ++ leBytes 4 c.redMaxIdx.toNat ++ leBytes 4 c.redMin.toNat ++ leBytes 4 c.redMinIdx.toNat
    ++ leBytes 4 c.drawBest.toNat ++ leBytes 4 c.drawBestIdx.toNat
    ++ leBytes 8 (c.lastClass.toNat * 256 + c.cls.toNat)
    ++ leBytes 8 c.drawCount.toNat ++ leBytes 8 c.sweeps.toNat ++ List.replicate 184 0
    ++ leBytes 8 c.gen.ctrl ++ leBytes 8 c.gen.seed.toNat ++ leBytes 8 c.gen.count.toNat ++ leBytes 8 c.gen.firstLane.toNat
    ++ List.replicate 1760 0

/-- The GEN_BLOCK of an image (R117, R118). -/
def genOfImage (bs : List Byte) : GenBlock :=
  let w := leAt bs 0x100 8
  ⟨bitOf w 63, bitOf w 62, BitVec.ofNat 2 (w / 2 ^ 60), BitVec.ofNat 2 (w / 2 ^ 58), BitVec.ofNat 64 (leAt bs 0x108 8),
    BitVec.ofNat 64 (leAt bs 0x110 8), BitVec.ofNat 34 (leAt bs 0x118 8)⟩

/-- The context of an image (R32); reserved bits are dropped (00_scope.md R7). -/
def ctxOfImage (bs : List Byte) : Ctx :=
  let h := leAt bs 0 8
  let w32 := fun (o : Nat) => BitVec.ofNat 32 (leAt bs o 4)
  let w24 := fun (o : Nat) => BitVec.ofNat 24 (leAt bs o 4)
  { valid := bitOf h 63, comp := bitOf h 62, kind := BitVec.ofNat 2 (h / 2 ^ 60), tiles := BitVec.ofNat 24 (h / 2 ^ 32)
    chain := BitVec.ofNat 16 h, rowMax := w32 8, expHi := w32 0x10, expLo := w32 0x14, redMax := w32 0x18
    redMaxIdx := w24 0x1C, redMin := w32 0x20, redMinIdx := w24 0x24, drawBest := w32 0x28, drawBestIdx := w24 0x2C
    lastClass := BitVec.ofNat 8 (leAt bs 0x31 1), cls := BitVec.ofNat 8 (leAt bs 0x30 1)
    drawCount := BitVec.ofNat 64 (leAt bs 0x38 8), sweeps := BitVec.ofNat 64 (leAt bs 0x40 8), gen := genOfImage bs }

/-- Whether an image with BOUND = 1 breaks R121. -/
def genBlockBad (bs : List Byte) : Bool :=
  let g := genOfImage bs
  let w := leAt bs 0x100 8
  let fl := leAt bs 0x118 8
  g.bound && (g.set == 0 || g.set == 3 || (g.set == 2 && g.row != 0)
    || fl % 2048 != (if g.set = 1 then g.row.toNat * 64 else 1024)
    || decide (2 ^ 34 ≤ fl) || bitsOf w 0 58 != 0
    || ((bs.drop 0x120).take (0x700 - 0x120)).any fun b => b != 0)

/-- The position of a set as a bound GEN_BLOCK (R117, R119). -/
def LaneSet.block (l : LaneSet) (set : Nat) : GenBlock :=
  ⟨true, l.family, if set < 4 then 1 else 2, if set < 4 then BitVec.ofNat 2 set else 0, l.seed, BitVec.ofNat 64 l.count, l.first⟩

/-- Every resident context bound to a set takes the set's position (R119, R120). -/
def copyPosition (ctxs : List Ctx) (lanes : List LaneSet) (set : Nat) : List Ctx :=
  match lanes[set]? with
  | none => ctxs
  | some l => ctxs.map fun c => if c.gen.bound && c.gen.setNo == set then { c with gen := l.block set } else c

/-- The contexts c0 .. c0 + n - 1 that are not bound become bound to a set (R119). -/
def bindCtxs (ctxs : List Ctx) (lanes : List LaneSet) (set c0 n : Nat) : List Ctx :=
  match lanes[set]? with
  | none => ctxs
  | some l => (ctxs.zipIdx).map fun p =>
    if c0 ≤ p.2 && p.2 < c0 + n && !p.1.gen.bound then { p.1 with gen := l.block set } else p.1

/-! ## Control instructions (R199) -/

/-- CTRL.SETA (R199). -/
def Croft.seta (x : Croft) (w : InstrWord) : Croft :=
  let r := InstrWord.bits w 100 4
  { x with seq := { x.seq with
      areg := x.seq.areg.set r ⟨BitVec.ofNat 26 (InstrWord.bits w 70 26), BitVec.ofNat 26 (InstrWord.bits w 44 26)⟩ } }

/-- CTRL.ADDA (R199). -/
def Croft.adda (x : Croft) (w : InstrWord) : Croft :=
  let r := InstrWord.bits w 100 4
  let k : Int := if bitOf w.toNat 96 then ((x.seq.cnt.getD (InstrWord.bits w 97 3) 0).toNat : Int) else 1
  let delta := signedOf 64 (wrapInt 64 (signedOf 27 (InstrWord.bits w 69 27) * k))
  let a := x.seq.areg.getD r ⟨0, 0⟩
  { x with seq := { x.seq with
      areg := x.seq.areg.set r { a with base := BitVec.ofNat 26 (wrapInt 26 (a.base.toNat + delta)) } } }

/-- CTRL.SETC (R199). -/
def Croft.setc (x : Croft) (w : InstrWord) : Croft :=
  { x with seq := { x.seq with
      cnt := x.seq.cnt.set (InstrWord.bits w 97 3) (BitVec.ofNat 32 (InstrWord.bits w 64 32)) } }

/-- CTRL.ADDC (R199). -/
def Croft.addc (x : Croft) (w : InstrWord) : Croft :=
  let r := InstrWord.bits w 97 3
  { x with seq := { x.seq with
      cnt := x.seq.cnt.set r (x.seq.cnt.getD r 0 + BitVec.ofNat 32 (InstrWord.bits w 64 32)) } }

/-- The signed OFFSET of CTRL.LOOP (16 bits at 80) or CTRL.JUMP (20 bits at 76) (R199). -/
def branchOffset (w : InstrWord) (loop : Bool) : Int :=
  if loop then signedOf 16 (InstrWord.bits w 80 16) else signedOf 20 (InstrWord.bits w 76 20)

/-- Whether a branch target lies outside the program (R199). -/
def Croft.targetBad (x : Croft) (w : InstrWord) (loop : Bool) : Bool :=
  let t : Int := x.seq.pc + branchOffset w loop
  decide (t < 0) || decide ((x.seq.count : Int) ≤ t)

/-- The index a branch goes to. -/
def Croft.branchTo (x : Croft) (w : InstrWord) (loop : Bool) : Nat := (x.seq.pc + branchOffset w loop : Int).toNat

/-- CTRL.LOOP's decrement (R199). -/
def Croft.loopDec (x : Croft) (w : InstrWord) : Croft :=
  let r := InstrWord.bits w 97 3
  { x with seq := { x.seq with cnt := x.seq.cnt.set r (x.seq.cnt.getD r 0 - 1) } }

/-- Whether CTRL.LOOP branches, after its decrement (R199). -/
def Croft.loopTaken (x : Croft) (w : InstrWord) : Bool := x.seq.cnt.getD (InstrWord.bits w 97 3) 0 != 0

/-- CTRL.CINIT (R31, R199). -/
def Croft.cinit (x : Croft) (w : InstrWord) : Croft :=
  let c0 := InstrWord.bits w 98 6
  let n := InstrWord.bits w 91 7
  let ctxs := (x.ctxs.zipIdx).map fun p =>
    if c0 ≤ p.2 ∧ p.2 < c0 + n then
      Ctx.init (bitOf w.toNat 90) (BitVec.ofNat 2 (InstrWord.bits w 88 2))
        (BitVec.ofNat 16 (InstrWord.bits w 72 16 + (p.2 - c0))) (BitVec.ofNat 8 (InstrWord.bits w 64 8))
    else p.1
  { x with ctxs := ctxs }

/-- C0, COUNT and the device address of a context instruction (R199). -/
def ctxOperands (w : InstrWord) : Nat × Nat × Nat :=
  (InstrWord.bits w 98 6, InstrWord.bits w 91 7, InstrWord.bits w 32 32 * 2048)

/-- CTX_RANGE of a context instruction (R199). -/
def ctxRangeBad (w : InstrWord) : Bool :=
  let o := ctxOperands w
  o.2.1 < 1 || 64 < o.2.1 || 63 < o.1 + o.2.1 - 1

/-- The sets that images or contexts of the range are bound to. -/
def boundSets (cs : List Ctx) : List Nat := (cs.filter fun c => c.gen.bound).map fun c => c.gen.setNo

/-- One context restored (R32, R120); `free` is LANE_MODE = FREE. -/
def Croft.restoreOne (free : Bool) (x : Croft) (k : Nat) (img : List Byte) : Croft :=
  let c := ctxOfImage img
  let x := if x.field.loaded && x.field.ctx == k then { x with field := { x.field with synced := false, store := [] } } else x
  if free then { x with ctxs := x.ctxs.set k { c with gen := GenBlock.initial } }
  else if !c.gen.bound then { x with ctxs := x.ctxs.set k c }
  else
    let set := c.gen.setNo
    let l : LaneSet := ⟨c.gen.seed, c.gen.family, c.gen.firstLane, c.gen.count.toNat, [], false⟩
    let lanes := x.lanes.set set l
    { x with lanes := lanes, ctxs := copyPosition (x.ctxs.set k c) lanes set }

/-- The count of the run in its ledger element once contexts `c0` to `c0 + n - 1` were written: SWEEPS of the run context is the run's
count (12_determinism_and_ledger.md R367, 06_lattice_field.md R189). -/
def Croft.trackRun (x : Croft) (c0 n : Nat) : Croft :=
  if c0 ≤ x.field.ctx ∧ x.field.ctx < c0 + n then
    { x with runs := modifyAt x.runs (x.runs.length - 1) fun q =>
        { q with sweeps := ((x.ctxs[x.field.ctx]?).map (·.sweeps)).getD q.sweeps } }
  else x

/-! ## Step boundaries (R213, R214) -/

/-- Whether every instruction issued is complete, FIELD instructions apart unless `field` is set (R214, R223). -/
def Croft.drained (x : Croft) (field : Bool) : Bool :=
  (x.inFlight).all fun r => !field && InstrWord.cls r.ins.word == 5

/-- Whether an instruction of a queue selected in QMASK is not complete (R211). -/
def Croft.fenceBusy (x : Croft) (mask : Nat) : Bool :=
  x.inFlight.any fun r => match InstrWord.queue r.ins.word with
    | some q => bitOf mask q
    | none => false

/-- The step record at a boundary (R214), with a new step opened (R213, R226). -/
def Croft.boundary (x : Croft) (next : Nat) : Croft :=
  let seq := { x.seq with
    pc := next, held := false, claimed := false, step := x.seq.step + 1, inStep := 0, signals := []
    fieldDone := 0, fieldSkip := 0, replaying := false
    semOwn := x.seq.semOwn.map fun _ => 0 }
  { x with
    seq := seq, failures := 0, fencedBy := [], lost := x.lost.filter fun w => match w with
      | .journal _ => false
      | _ => true
    record := ⟨next, seq.areg, seq.cnt, seq.sems, x.lanes, x.ctxs, x.banks, x.hand, x.tally⟩ }

/-- A 64-bit counter with one more, saturating (13_checking_replay_test.md R391). -/
def satInc (v : Word64) : Word64 := BitVec.ofNat 64 (satAdd 64 v.toNat 1)

/-- A pending signal as it leaves the croft (R210). -/
def PendSig.toRemote (p : PendSig) (c : CroftRef) (srcDev : Nat) : RemoteSig :=
  ⟨c.job, srcDev, c.n, p.dev, p.croft, p.sem, p.count⟩

/-- The device at a step boundary of a croft: the record is written, the signals leave in program order, the slot counts
the boundary, and a slot over its replay rate is fenced (R214, R210, R376). -/
def Dev.boundary (d : Dev) (c : CroftRef) (x : Croft) (next ldev : Nat) : Dev :=
  let sigs := x.seq.signals.map fun p => p.toRemote c ldev
  let here := sigs.filter fun s => s.tgtDev == ldev
  let there := sigs.filter fun s => s.tgtDev != ldev
  let d := (d.setCroft (x.boundary next))
  let d := { d with signals := d.signals ++ here, sent := d.sent ++ there.map Sent.signal }
  match x.slot with
  | none => d
  | some s =>
    match d.slot s with
    | some t =>
      let d := d.onSlot s fun u => { u with stepsDone := satInc u.stepsDone, fencing := false }
      if t.fencing && t.spare == .active then
        (d.onSlot s fun u => { u with spare := .fenced }).eventOpen 0xE002 1 s.val
      else d
    | none => d

/-! ## Issue (R20 to R22, R195) -/

/-- Whether a launched croft has not begun yet: nothing of its program has been issued or started. A barrier in step 0 is the
implicit one of its launch (09_fohal_scale_out.md R285), since SYNC.BAR opens a further step. -/
def Croft.unstarted (x : Croft) : Bool :=
  x.seq.step == 0 && x.seq.inStep == 0 && match x.seq.state with
    | .running => true
    | .barrier _ _ _ _ => true
    | .reeve => (x.units.queues.getD 6 []).length == 3
    | _ => false

/-- The bound crofts of the command that launched a croft that have not begun either. -/
def Dev.startPeers (d : Dev) (x : Croft) : List Croft :=
  match d.commandOf ⟨x.job, x.n⟩ with
  | some q => d.crofts.filter fun y => y.job == x.job && q.names y.n && y.unstarted && y.slot.isSome
  | none => []

/-- Whether the free-mode states of a croft are delivered, or its job is seeded; a launch waits until those of each of
its crofts are (04_lane_generators.md R110). -/
def Dev.lanesDelivered (d : Dev) (x : Croft) : Bool :=
  (d.job x.job).all fun j => !j.params.laneFree
    || (x.lanes.all (·.ready) && (!x.unstarted || (d.startPeers x).all fun y => y.lanes.all (·.ready)))

/-- Whether no unit of a croft runs, the Field apart. -/
def Croft.quiet (x : Croft) : Bool :=
  (x.units.mill ++ x.units.drain ++ x.units.row ++ [x.units.move, x.units.mesh]).all Option.isNone

/-- Whether a FIELD.SNAP or FIELD.READ runs on the Field: it changes nothing until it completes. -/
def Croft.outRuns (x : Croft) : Bool :=
  match x.units.field with
  | some r => InstrWord.operation r.ins.word == some .snap || InstrWord.operation r.ins.word == some .read
  | none => false

/-- Whether a FIELD.SWEEP runs on the Field. -/
def Croft.sweepRuns (x : Croft) : Bool :=
  match x.units.field with
  | some r => InstrWord.operation r.ins.word == some .sweep
  | none => false

/-- Whether the first instruction of the step waits at the head of its queue for its header wait (R218). -/
def Croft.firstWaits (x : Croft) : Bool :=
  (x.units.queues.filterMap List.head?).any fun i =>
    i.seq + x.seq.inStep == x.seq.nextSeq && InstrWord.waitEn i.word && x.sem (InstrWord.waitSem i.word) == 0

/-- Whether a croft, its Field apart, stands where its program may be interrupted: nothing of the step issued, the step's
first instruction waiting (R218), or a FIELD.SWEEP running, whose sweep boundaries count (R182). -/
def Croft.stepRests (x : Croft) : Bool :=
  x.quiet && ((x.seq.inStep == 0 && x.drained false) || x.firstWaits || x.sweepRuns)

/-- Whether a croft stands at a step boundary with its Field at a sweep boundary (R39, R182, R218), or was put back to one
(R374). -/
def Croft.atRest (x : Croft) : Bool := x.stepRests && x.field.phase == 0

/-- Whether a croft may issue or start anything: it is on an active slot in Run, not paused, no emergency has stopped the
croft clocks, and its free-mode states are delivered (R39, R110, R380, R389, R449). On a slot that was fenced in the middle
of its step it goes on to its boundary (R249, R376, R385). -/
def Dev.resident (d : Dev) (x : Croft) : Bool :=
  match x.slot with
  | none => false
  | some s => !x.paused && !d.power.emPower && !d.power.emThermal && d.lanesDelivered x && match d.slot s with
    | some t => (t.spare == .active || (t.spare == .fenced && !x.atRest)) && t.island == .run
    | none => false

/-- TO_SAMPLER of a DRAIN.RED as the sequencer sees it at issue: the descriptor word as it stands in the Granary then. The
manual has the sequencer match by it at issue (R126) and the drain read its descriptor at the start (R78), and does not say
what a change in between does; here the pairing follows the value at issue and the rows the value at the start
(DESIGN CHOICE, log 91). -/
def Croft.handsOver (x : Croft) (w : InstrWord) : Bool :=
  InstrWord.operation w == some .red && bitOf (leAt (x.peek ⟨0, 0, w, [], none⟩) 0x208 4) 18

/-- The hand-over side of a drain. -/
def Croft.handOf (x : Croft) (n : Nat) : HandOver := x.hand.getD n ⟨none, []⟩

/-- The fault codes of an instruction at issue (R126, R195, R199, R210, R213). -/
def Croft.issueFaults (x : Croft) (w : InstrWord) (job : Job) : List Nat :=
  let u := InstrWord.unit w
  let un := (x.handOf u).unmatched
  let samp := InstrWord.cls w == 4 && InstrWord.src w == 1
  let edge := InstrWord.operation w == some .chk || InstrWord.operation w == some .bar || InstrWord.operation w == some .end_
  let remote := InstrWord.operation w == some .sig && bitOf w.toNat 98
  let dev := InstrWord.bits w 45 15
  let croft := InstrWord.bits w 60 8
  when_ (InstrWord.operation w).isNone 0x0201
    ++ when_ ((InstrWord.operation w == some .loop && x.targetBad w true)
        || (InstrWord.operation w == some .jump && x.targetBad w false)) 0x0203
    ++ when_ (decide (4096 ≤ x.seq.inStep)) 0x0205
    ++ when_ (remote && (job.params.devices ≤ dev || job.params.crofts ≤ croft
        || (dev == job.params.ldev && croft == x.n.val))) 0x0209
    ++ when_ (remote && 64 ≤ x.seq.signals.length) 0x020A
    ++ when_ (x.handsOver w && un.isSome) 0x0404
    ++ when_ (samp && (InstrWord.operation w).isSome && un.isNone) 0x0405
    ++ when_ (samp && match un with
        | some p => p.2 != InstrWord.rows w
        | none => false) 0x0406
    ++ when_ (edge && x.hand.any fun h => h.unmatched.isSome) 0x0407

/-- An instruction put into its queue (R21, R126, R198); the queue has room. -/
def Croft.enqueue (x : Croft) (w : InstrWord) (q : Nat) : Croft :=
  let u := InstrWord.unit w
  let seqNo := x.seq.nextSeq
  let samp := InstrWord.cls w == 4 && InstrWord.src w == 1
  let h := x.handOf u
  let i : Issued := ⟨seqNo, x.seq.pc, w, if InstrWord.cls w = 2 then millRegs w x.seq.areg else [],
    if samp then h.unmatched.map (·.1) else none⟩
  let hand := if x.handsOver w then x.hand.set u { h with unmatched := some (seqNo, InstrWord.rows w) }
    else if samp then x.hand.set u { h with unmatched := none } else x.hand
  { x with
    hand := hand
    units := { x.units with queues := modifyAt x.units.queues q fun l => l ++ [i] } }

/-- Bytes of the context images of a CTRL.CSAVE or CTRL.CREST. -/
def imageBytes (n : Nat) : Nat := 2048 * n

/-- Whether a context of a range holds a poisoned word (R378, R379). -/
def Croft.ctxLost (x : Croft) (c0 n : Nat) : Bool :=
  x.lost.any fun w => match w with
    | .context o => c0 ≤ o / 2048 && o / 2048 < c0 + n
    | _ => false

/-- The poison of contexts that a context instruction writes anew (R378). -/
def Croft.cureCtx (x : Croft) (c0 n : Nat) : Croft :=
  { x with lost := x.lost.filter fun w => match w with
      | .context o => !(c0 ≤ o / 2048 && o / 2048 < c0 + n)
      | _ => true }

/-- The fault codes of a context instruction at its start (R199, R253, R257, R121, R379). -/
def Dev.ctxFaults (d : Dev) (w : InstrWord) (memory restore : Bool) : List Nat :=
  let o := ctxOperands w
  let n := imageBytes o.2.1
  when_ (ctxRangeBad w) 0x020B
    ++ when_ (memory && outsideTiers o.2.2 n) 0x020C
    ++ when_ (memory && d.units.unbackedIn o.2.2 n) 0x0601
    ++ when_ (memory && d.mesh.broken) 0x0603
    ++ when_ (restore && !ctxRangeBad w
        && (List.range o.2.1).any fun i => genBlockBad (d.read (o.2.2 + 2048 * i) 2048)) 0x0803
    ++ when_ (restore && meetsPoison d.memPoison o.2.2 n) 0x0A01

/-- The header wait of an instruction that does not start given back (R207, R226). -/
def Croft.unclaim (x : Croft) (w : InstrWord) : Croft :=
  if InstrWord.waitEn w && x.seq.claimed then
    let y := x.addSem (InstrWord.waitSem w) 1 true
    { y with seq := { y.seq with claimed := false } }
  else x

/-- A context instruction issued (R200, R120). -/
def Dev.issueCtx (d : Dev) (c : CroftRef) (x : Croft) (w : InstrWord) (op : Op) (free : Bool) : Dev :=
  let o := ctxOperands w
  let imgs := (List.range o.2.1).map fun i => d.read (o.2.2 + 2048 * i) 2048
  let saved := ctxRange x.ctxs o.1 o.2.1
  let setsBusy := match op with
    | .csave => (boundSets saved).any x.setBusy
    | .crest => !free && (boundSets (imgs.map ctxOfImage)).any x.setBusy
    | _ => false
  if x.ctxBusy o.1 o.2.1 || setsBusy then d.setCroft x.hold
  else
    match lowest (d.ctxFaults w (op != .cinit) (op == .crest)) with
    | some code => (d.setCroft (x.unclaim w)).croftFault c code x.seq.pc
    | none =>
      match op with
      | .cinit => d.apply c ((((x.cinit w).trackRun o.1 o.2.1).cureCtx o.1 o.2.1).done w (x.seq.pc + 1))
      | .csave =>
        if x.ctxLost o.1 o.2.1 then (d.setCroft (x.unclaim w)).croftFault c 0x0A01 x.seq.pc else
        let d := d.write o.2.2 (saved.flatMap Ctx.image)
        d.apply c (x.done w (x.seq.pc + 1))
      | _ =>
        let y := (imgs.zipIdx).foldl (fun y p => y.restoreOne free (o.1 + p.2) p.1) x
        d.apply c (((y.trackRun o.1 o.2.1).cureCtx o.1 o.2.1).done w (x.seq.pc + 1))

/-- A boundary instruction issued (R214, R217, R223): it holds until earlier instructions complete. -/
def Dev.issueEdge (d : Dev) (c : CroftRef) (x : Croft) (w : InstrWord) (op : Op) (job : Job) : Dev :=
  if !x.drained (op == .end_) then d.setCroft x.hold
  else
    let next := x.seq.pc + 1
    match op with
    | .chk =>
      match (x.advance next).signal w x.seq.pc with
      | .ok y => d.boundary c y next job.params.ldev
      | .fault code i => (d.boundary c (x.advance next) next job.params.ldev).croftFaultIn c code i x.seq.step
    | .bar =>
      let y := x.advance next
      let st : SeqState := .barrier (bitOf w.toNat 93) (InstrWord.bits w 94 4) (InstrWord.bits w 21 24) false
      d.boundary c { y with seq := { y.seq with state := st } } next job.params.ldev
    | _ =>
      match (x.advance next).signal w x.seq.pc with
      | .ok y => d.boundary c { y with seq := { y.seq with state := .stopped } } next job.params.ldev
      | .fault code i => (d.boundary c (x.advance next) next job.params.ldev).croftFaultIn c code i x.seq.step

/-- A SYNC instruction other than a boundary issued (R209 to R211). -/
def Dev.issueSync (d : Dev) (c : CroftRef) (x : Croft) (w : InstrWord) (op : Op) : Dev :=
  let s := InstrWord.bits w 99 5
  let n := InstrWord.bits w 68 16
  let next := x.seq.pc + 1
  match op with
  | .wait => if x.sem s < n then d.setCroft x.hold else d.apply c ((x.subSem s n true).done w next)
  | .fence => if x.fenceBusy (InstrWord.bits w 84 9) then d.setCroft x.hold else d.apply c (x.done w next)
  | _ =>
    if bitOf w.toNat 98 then
      let p : PendSig := ⟨InstrWord.bits w 45 15, Fin.ofNat 256 (InstrWord.bits w 60 8), Fin.ofNat 32 s, BitVec.ofNat 16 n⟩
      d.apply c ({ x with seq := { x.seq with signals := x.seq.signals ++ [p] } }.done w next)
    else
      let y := x.addSem s n true
      if x.semOverflows s n then (d.setCroft (y.advance next)).croftFault c 0x0206 x.seq.pc
      else d.apply c (y.done w next)

/-- A CTRL instruction that is not a context instruction or CTRL.END issued (R199). -/
def Dev.issueCtrl (d : Dev) (c : CroftRef) (x : Croft) (w : InstrWord) (op : Op) : Dev :=
  let next := x.seq.pc + 1
  match op with
  | .seta => d.apply c ((x.seta w).done w next)
  | .adda => d.apply c ((x.adda w).done w next)
  | .setc => d.apply c ((x.setc w).done w next)
  | .addc => d.apply c ((x.addc w).done w next)
  | .loop =>
    let y := x.loopDec w
    d.apply c (y.done w (if y.loopTaken w then x.branchTo w true else next))
  | .jump => d.apply c (x.done w (x.branchTo w false))
  | _ => d.apply c (x.done w next)

/-- The launch or FIELD_RUN of a croft is over when every croft it names has stopped (R223). Its completion status is
the OR of the reports of the crofts it named (R320). -/
def Dev.closeLaunch (d : Dev) (c : CroftRef) : Dev :=
  match d.commandOf c with
  | none => d
  | some cmd =>
    let named := d.crofts.filter fun x => x.job == c.job && cmd.names x.n
    if cmd.opcode == 0x01 && named.all (fun x => x.seq.state == .stopped) then
      let cmds := d.cmds.map fun q =>
        if q.id == cmd.id then { q with state := .finished, cflags := q.cflags ||| d.reportOf cmd } else q
      { d with cmds := cmds }
    else d

/-- The operation issued, once its header wait is met and it raised no fault at issue. -/
def Dev.issueOp (d : Dev) (c : CroftRef) (x : Croft) (w : InstrWord) (op : Op) (job : Job) : Dev :=
  match InstrWord.queue w with
  | some q =>
    if InstrWord.cls w == 5 && 0 < x.seq.fieldSkip then
      d.setCroft ({ x with seq := { x.seq with fieldSkip := x.seq.fieldSkip - 1, fieldDone := x.seq.fieldDone + 1 } }.advance (x.seq.pc + 1))
    else if queueDepth q ≤ (x.units.queues.getD q []).length then d.setCroft x.hold
    else
      let y := x.enqueue w q
      let n := if InstrWord.cls w == 5 then y.seq.fieldDone + 1 else y.seq.fieldDone
      d.setCroft ({ y with seq := { y.seq with fieldDone := n } }.advance (x.seq.pc + 1))
  | none =>
    match op with
    | .cinit | .csave | .crest => d.issueCtx c x w op job.params.laneFree
    | .chk | .bar => d.issueEdge c x w op job
    | .end_ => (d.issueEdge c x w op job).closeLaunch c
    | .wait | .sig | .fence => d.issueSync c x w op
    | _ => d.issueCtrl c x w op

/-- Whether the sequencer begins no further step: its slot has been fenced and the step has ended (R249, R381). -/
def Dev.stepHeld (d : Dev) (x : Croft) : Bool :=
  x.seq.inStep == 0 && match x.slot.bind d.slot with
    | some t => t.spare == .fenced
    | none => false

/-- Whether the word of the instruction at the sequencer's position is poisoned (13_checking_replay_test.md R379). -/
def Croft.wordLost (x : Croft) : Bool := meetsPoison x.poison (x.seq.loadOffset + 16 * x.seq.pc) 16

/-- The sequencer of a croft takes the instruction at its position (R20, R193): past the program's end it raises
PROG_RANGE, and a poisoned word DATA_LOST (R379); a fault of the instruction at issue is raised; a header wait that is not
met holds it (R207); then it issues. -/
def Dev.issue (d : Dev) (c : CroftRef) : Dev :=
  match d.croft c, d.job c.job with
  | some x, some job =>
    if x.seq.state != .running || !d.resident x || d.stepHeld x then d
    else if x.seq.count ≤ x.seq.pc then d.croftFault c 0x0203 x.seq.pc
    else if x.wordLost then d.croftFault c 0x0A01 x.seq.pc
    else
      let w := x.wordAt x.seq.pc
      match lowest (x.issueFaults w job) with
      | some code => d.croftFault c code x.seq.pc
      | none =>
        let waits := InstrWord.waitEn w && (InstrWord.queue w).isNone && !x.seq.claimed
        if waits && x.sem (InstrWord.waitSem w) == 0 then d.setCroft x.hold
        else
          let x := if waits then x.subSem (InstrWord.waitSem w) 1 true else x
          let x := { x with seq := { x.seq with claimed := x.seq.claimed || waits } }
          match InstrWord.operation w with
          | some op => d.issueOp c x w op job
          | none => d
  | _, _ => d

/-- A held instruction tried again after an event at its croft (R22, R207, R209, R211, R214). -/
def Dev.settle (d : Dev) (c : CroftRef) : Dev :=
  match d.croft c with
  | some x => if x.seq.held then d.issue c else d
  | none => d

/-- A row of the instruction set at a croft: it acts when the instruction at the sequencer's position is the row's
(R195). A reserved code acts in the row of CTRL.NOP, and so does issue past the program's end. -/
def Dev.issueRow (op : Op) (d : Dev) (c : CroftRef) : Dev :=
  match d.croft c with
  | none => d
  | some x =>
    if x.seq.state != .running then d
    else if x.seq.count ≤ x.seq.pc then d.issue c
    else
      let o := InstrWord.operation (x.wordAt x.seq.pc)
      if o = some op ∨ (o = none ∧ op = .nop) then d.issue c else d

end Sys2Proof.Machine
end

