-- ==== Sys2Proof/Machine/FieldOps.lean ====
section
/-!
DEFINITION. The Field of a croft as commands drive it (06_lattice_field.md R168 to R192): the checks and the effect of
its four instructions, the handshake, phases, sweeps, snapshots and arriving records.
-/

namespace Sys2Proof.Machine

/-- The bytes of a Field model image (R171). -/
def fieldImageSize : Nat := 148032

/-- Z of a Field's snapshots (R186). -/
def snapBytes (img : Array Byte) (s : Nat) : Nat := snapSize s (haloEdges img).length

/-- Whether a context is a Field run context (R168, R192: KIND and LAST_CLASS alone). -/
def runCtxOk (ctxs : List Ctx) (k : Nat) : Bool :=
  match ctxs[k]? with
  | some c => c.kind == 3 && c.lastClass == 1
  | none => false

/-- Whether some byte of a descriptor range is not zero. -/
def reservedSet (bs : List Byte) (off n : Nat) : Bool := leAt bs off n != 0

/-- The ranges a FIELD.LOAD reads, before its snapshot and history (R173). -/
def LoadDesc.reads (d : LoadDesc) : List (Nat × Nat) :=
  (if d.hasModel then [(d.model, fieldImageSize)] else [])
    ++ (if d.hasSched then [(d.sched, 2048)] else [])
    ++ (if d.hasStates then [(d.state, 4096)] else [])

/-- The schedule table in 2,048 bytes (R166). -/
def schedOf (bs : List Byte) : List Word64 := (List.range 256).map fun i => BitVec.ofNat 64 (leAt bs (8 * i) 8)

/-- The model image a FIELD.LOAD leaves in the Field. -/
def Croft.loadImage (x : Croft) (d : LoadDesc) : Array Byte :=
  if d.hasModel && !rangesBreak [(d.model, fieldImageSize)] then (x.read d.model fieldImageSize).toArray else x.field.image

/-- The schedule a FIELD.LOAD leaves in the Field. -/
def Croft.loadSched (x : Croft) (d : LoadDesc) : List Word64 :=
  if d.hasSched && !rangesBreak [(d.sched, 2048)] then schedOf (x.read d.sched 2048) else x.field.sched

/-- Every range a FIELD.LOAD names (R471): what it reads and the two snapshot slots. -/
def Croft.loadRanges (x : Croft) (s : Nat) (d : LoadDesc) : List (Nat × Nat) :=
  let z := snapBytes (x.loadImage d) s
  d.reads ++ [(d.snap, 2 * z)] ++ (if d.hasStates && d.hasHistory then [(d.state + 4096, z - 4096)] else [])

/-- The fault codes of FIELD.LOAD (R169 to R172, R192, R471). -/
def Croft.loadFaults (x : Croft) (job : Job) (desc : Nat) (bs : List Byte) : List Nat :=
  let d := loadDesc bs
  let img := x.loadImage d
  let rs := x.loadRanges job.params.staleness d
  let formatBad := bitsOf d.control 4 28 != 0 || bitsOf d.ctxWord 6 26 != 0 || d.tail != 0
    || (d.hasHistory && !d.hasStates) || (d.hasModel && imageBad img job.params.ldev x.n.val)
  when_ (rangesBreak rs) 0x0216
    ++ when_ formatBad 0x0501
    ++ when_ (desc % 32 != 0 || d.snap % 32 != 0 || (d.hasModel && d.model % 32 != 0)
        || (d.hasSched && d.sched % 32 != 0) || (d.hasStates && d.state % 32 != 0)) 0x0502
    ++ when_ (!runCtxOk x.ctxs d.ctx) 0x0504
    ++ when_ (d.hasSched && (x.loadSched d).any fun v => bitsOf v.toNat 49 15 != 0) 0x0505
    ++ when_ ((d.reads ++ (if d.hasStates && d.hasHistory then rs.drop (rs.length - 1) else [])).any
        fun r => meetsPoison x.poison r.1 r.2) 0x0A01

/-- The faults that FIELD.SWEEP, FIELD.SNAP and FIELD.READ share (R175, R192, R168). -/
def Croft.fieldCommon (x : Croft) (desc : Nat) (bs : List Byte) : List Nat :=
  when_ (desc % 32 != 0) 0x0502
    ++ when_ (!x.field.loaded) 0x0503
    ++ when_ (fieldCtx bs != x.field.ctx || !runCtxOk x.ctxs (fieldCtx bs)) 0x0504

/-- The slot that the next snapshot goes to (R187). -/
def FieldSt.nextSlot (f : FieldSt) : Nat :=
  match f.committed with
  | some r => if r.slot = 0 then 1 else 0
  | none => 0

/-- The snapshot slots a FIELD.SWEEP of `n` sweeps from `w` writes (R186, R187). -/
def FieldSt.slotRanges (f : FieldSt) (s w n : Nat) : List (Nat × Nat) :=
  let z := snapBytes f.image s
  let k := (if f.firstSweep then 1 else 0) + (w + n) / 256 - w / 256
  (List.range (min k 2)).map fun i => (f.snapAddr + (f.nextSlot + i) % 2 * z, z)

/-- The fault codes of FIELD.SWEEP (R175, R192, R112, R119, R222). -/
def Croft.sweepFaults (x : Croft) (job : Job) (desc : Nat) (bs : List Byte) : List Nat :=
  let c := x.ctxs[fieldCtx bs]?
  let n := leAt bs 8 4
  let w := (c.map (·.sweeps.toNat)).getD 0
  let count := (x.lanes[4]?.map (·.count)).getD 0
  when_ (x.progHit (x.field.slotRanges job.params.staleness w n)) 0x0204
    ++ x.fieldCommon desc bs
    ++ when_ ((c.map fun v => v.cls != 0).getD false) 0x0504
    ++ when_ (x.field.sched.all fun v => schedCount v == 0) 0x0505
    ++ when_ (n == 0) 0x0506
    ++ when_ (!job.params.laneFree && decide (2 ^ 64 - 1 < count + 8 * n)) 0x0801
    ++ when_ ((c.map fun v => boundElsewhere v.gen 2 0).getD false) 0x0802

/-- The range FIELD.SNAP or FIELD.READ writes (R189, R190). -/
def FieldSt.outRange (f : FieldSt) (read : Bool) (s : Nat) (bs : List Byte) : Nat × Nat :=
  (leAt bs 8 4, if read then (if bitOf (leAt bs 0 4) 0 then 4160 else 64) else snapBytes f.image s)

/-- The fault codes of FIELD.SNAP and FIELD.READ (R189, R190, R192, R222, R471). -/
def Croft.outFaults (x : Croft) (job : Job) (read : Bool) (desc : Nat) (bs : List Byte) : List Nat :=
  let r := x.field.outRange read job.params.staleness bs
  when_ (x.progHit [r]) 0x0204 ++ when_ (rangesBreak [r]) 0x0216 ++ x.fieldCommon desc bs ++ when_ (r.1 % 32 != 0) 0x0502

/-- FIELD.LOAD (R173). -/
def Croft.fieldLoad (x : Croft) (s : Nat) (bs : List Byte) : Croft :=
  let d := loadDesc bs
  let img := x.loadImage d
  let base : Array Bool := if d.hasModel then (List.replicate 32768 false).toArray else x.field.states
  let st := if d.hasStates then statesOf (x.read d.state 4096).toArray else base
  let hist := if d.hasStates && d.hasHistory then
      historyOf img (x.read (d.state + 4096) (snapBytes img s - 4096)) s 0 else []
  let run : FieldRunRec := ⟨d.ctx, (x.ctxs[d.ctx]?.map (·.sweeps)).getD 0, 0, sha384 (x.read d.model fieldImageSize)⟩
  { x with
    runs := if d.hasModel then x.runs ++ [run] else x.runs
    field := { x.field with
      loaded := x.field.loaded || d.hasModel
      ctx := d.ctx, image := img, sched := x.loadSched d, states := st
      modelAddr := if d.hasModel then d.model else x.field.modelAddr
      schedAddr := if d.hasSched then some d.sched else x.field.schedAddr
      snapAddr := d.snap
      eInt := energyInt img st
      bestE := 2 ^ 63 - 1, bestSweep := 0xFFFFFFFFFFFFFFFF, best := st
      synced := false, history := hist, store := [], phase := 0, firstSweep := true, pending := [], committed := none
      rollbacks := if d.hasModel then 0 else x.field.rollbacks
      errors := 0, fencedOn := none } }

/-- A snapshot latched at sweep `b` (R184, R186, R187). -/
def Croft.latch (x : Croft) (b : Nat) : Croft :=
  let f := x.field
  let snap : Snap := ⟨b, f.states, f.eInt, (x.lanes[4]?.map (·.count)).getD 0, f.best, f.bestE, f.bestSweep⟩
  { x with field := { f with pending := f.pending ++ [snap] } }

/-- The handshake record a Field sends on edge `e` (R179). -/
def Croft.handshake (x : Croft) (ldev s e : Nat) : Handshake :=
  ⟨haloSource ldev x.n.val e, BitVec.ofNat 64 x.runSweeps, BitVec.ofNat 8 s, crc32 (edgeBonds x.field.image e),
    boundaryOf x.field.states e 1 ++ boundaryOf x.field.states e 0⟩

/-- Whether a received handshake meets R179 on edge `e`. -/
def Croft.handshakeOk (x : Croft) (s e : Nat) (h : Handshake) : Bool :=
  match edgeMode x.field.image e with
  | .halo dev croft =>
    h.source == haloSource dev croft (opposite e) && h.sweeps.toNat == x.runSweeps && h.s.toNat == s
      && h.crc == crc32 (edgeBonds x.field.image e)
  | _ => false

/-- Whether every HALO edge has received its handshake. -/
def FieldSt.handshakesIn (f : FieldSt) : Bool := (haloEdges f.image).all fun e => (f.incoming.getD e none).isSome

/-- The run synchronised by the handshakes received (R177, R179). Records that a neighbour sent after its own
synchronisation may be in already; versions before W_h come from the history or the handshake. -/
def Croft.sync (x : Croft) : Croft :=
  { x with field := { x.field with
      synced := true, wh := x.runSweeps, store := x.field.store.filter fun h => decide ((x.runSweeps : Int) ≤ h.sweep)
      handshakes := x.field.incoming, incoming := List.replicate 4 none, askedAt := none } }

/-- A synchronised FIELD.SWEEP begun (R119, R175, R176, R186): the snapshot at W0 is latched, the run context bound to the
Field's set, and the sweeps counted from SWEEPS. Only here does a FIELD instruction bind its context: R168 lets FIELD.SWEEP
alone consume generator outputs, while R119 lists FIELD instructions in general (DESIGN CHOICE, log 91). -/
def Croft.beginSweep (free : Bool) (r : Running) (x : Croft) : Croft :=
  if InstrWord.operation r.ins.word == some .sweep then
    let w := x.runSweeps
    let y := if x.field.firstSweep then x.latch w else x
    let ctxs := if free then y.ctxs else bindCtxs y.ctxs y.lanes 4 y.field.ctx 1
    { y with ctxs := ctxs, field := { y.field with firstSweep := false, phase := 0, target := w + leAt r.desc 8 4 } }
  else x

/-- The handshake of a running instruction once all its records are in: synchronised and begun, or HALO_MISMATCH with the
instruction stopped before it changed anything (R179, R192). -/
def Croft.trySync (x : Croft) (s : Nat) (free : Bool) : Did :=
  match x.units.field with
  | none => .ok x
  | some r =>
    if x.field.synced || InstrWord.operation r.ins.word == some .load || !x.field.handshakesIn then .ok x
    else
      let good := (haloEdges x.field.image).all fun e => match x.field.incoming.getD e none with
        | some h => x.handshakeOk s e h
        | none => false
      if good then .ok (x.sync.beginSweep free r) else .fault 0x0507 r.ins.index

/-- A croft whose Field instruction ends by a fault of its own: the unit is free and the run unsynchronised. -/
def Croft.dropField (x : Croft) : Croft :=
  { x with units := { x.units with field := none }, field := { x.field with incoming := List.replicate 4 none, askedAt := none, pending := [] } }

/-- The outcome of `trySync` on the device. -/
def Dev.applySync (d : Dev) (c : CroftRef) (x : Croft) (s : Nat) (free : Bool) : Dev :=
  match x.trySync s free with
  | .ok y => d.setCroft y
  | .fault code i => (d.setCroft x.dropField).croftFault c code i

/-- The copy of the map in the move unit (`false`) or the mesh unit (`true`) of a croft's slot (01_croft_anatomy.md R38). -/
def Dev.unitMap (d : Dev) (x : Croft) (mesh : Bool) : MapCopy :=
  match x.slot.bind d.slot with
  | some s => if mesh then s.meshMap else s.moveMap
  | none => ⟨0, []⟩

/-- The slot of a logical croft in a copy of the map (01_croft_anatomy.md R38). -/
def MapCopy.slotOf (m : MapCopy) (c : CroftRef) : Option (Fin 80) := (m.binds.find? fun b => b.1 == c).map (·.2)

/-- The records the edges of a Field send, each to the neighbour it names. The mesh unit translates a croft of this device to
the slot of its copy of the map; it has none for one that is switched out, and for another device's (01_croft_anatomy.md R38). -/
def Dev.sendEdges (d : Dev) (x : Croft) (ldev : Nat) (mk : Nat → Nat → Option (Fin 80) → Nat → Sent) : Dev :=
  (haloEdges x.field.image).foldl (fun d e => match edgeMode x.field.image e with
    | .halo dev croft =>
      d.send (mk dev croft (if dev = ldev then (d.unitMap x true).slotOf ⟨x.job, Fin.ofNat 256 croft⟩ else none) e)
    | _ => d) d

/-- A FIELD.SWEEP, FIELD.SNAP or FIELD.READ set running on the Field (R175, R179): a synchronised one begins at once, another
first exchanges its handshakes. -/
def Dev.startField (d : Dev) (c : CroftRef) (x : Croft) (job : Job) (r : Running) : Dev :=
  let s := job.params.staleness
  let x : Croft := { x with units := { x.units with field := some r } }
  if x.field.synced then d.setCroft (x.beginSweep job.params.laneFree r)
  else
    let x : Croft := { x with field := { x.field with askedAt := some d.time.elapsed } }
    let d := (d.setCroft x).sendEdges x job.params.ldev fun dev croft slot e =>
      .handshake c.job dev croft slot (opposite e) (x.handshake job.params.ldev s e)
    d.applySync c x s job.params.laneFree

/-! ## The events of a running sweep -/

/-- Whether a FIELD.SWEEP runs and may go on. -/
def Dev.sweeping (d : Dev) (x : Croft) : Bool :=
  d.resident x && x.field.synced && (x.lanes[4]?.map (·.ready)).getD false && match x.units.field with
    | some r => InstrWord.operation r.ins.word == some .sweep
    | none => false

/-- A halted croft whose Field comes to wait for a halo record stops it at once (R226 step 3). -/
def Croft.stopIfHalted (x : Croft) (s : Nat) : Croft :=
  if x.seq.state == .halted && x.fieldWaits s then x.stopField else x

/-- A phase of the sweep in progress (R161 to R165, R176, R177, R178, R183): the states and E_INT take effect, four
outputs of every sub-lane are consumed, PHASE.CLASS changes and a record goes out on every HALO edge. In a free-mode job the
phase spans four croft cycles, in which every lane set steps (R110). -/
def Dev.fieldPhaseEnd (c : CroftRef) (d : Dev) : Dev :=
  match d.croft c, d.job c.job with
  | some x, some job =>
    let s := job.params.staleness
    let w := x.runSweeps
    let f := x.field
    let recs := f.phaseRecords s w f.phase
    if !d.sweeping x || 2 ≤ f.phase || f.target ≤ w || !haloPresent f.image recs then d
    else
      match x.lanes[4]? with
      | none => d
      | some l =>
        let outs := phaseOutputs l.family l.gens
        let res := runPhase f.image f.states recs (schedEntry f.sched w) outs f.phase
        let free := job.params.laneFree
        let y : Croft := { x with
          lanes := (x.lanes.zipIdx).map fun q =>
            if q.2 = 4 then { l with gens := l.gens.map (genSteps l.family 4), count := if free then l.count else l.count + 4 }
            else if free then { q.1 with gens := q.1.gens.map (genSteps q.1.family 4) }
            else q.1
          ctxs := modifyAt x.ctxs f.ctx fun v => { v with cls := if f.phase = 0 then 1 else 0 }
          field := { f with
            prior := if f.phase = 0 then f.states else f.prior
            priorE := if f.phase = 0 then f.eInt else f.priorE
            states := res.1, eInt := res.2 + f.eInt, phase := f.phase + 1 } }
        let d := match x.slot with
          | some n => if free then d.onSlot n fun t => { t with cycles := t.cycles + 4 } else d
          | none => d
        (d.setCroft (y.stopIfHalted s)).sendEdges x job.params.ldev fun dev croft slot e =>
          .halo c.job dev croft slot ⟨BitVec.ofNat 64 (f.phase * 2 ^ 63 + w), haloSource job.params.ldev x.n.val e,
            boundaryOf res.1 e f.phase⟩
  | _, _ => d

/-- BEST_E, BEST_SWEEP and the best plane at the end of sweep `w` (R185). -/
def FieldSt.takeBest (f : FieldSt) (w : Nat) : FieldSt :=
  if f.eInt < f.bestE then { f with best := f.states, bestE := f.eInt, bestSweep := BitVec.ofNat 64 w } else f

/-- The end of a sweep (R176, R184 to R186). -/
def Dev.fieldSweepEnd (c : CroftRef) (d : Dev) : Dev :=
  match d.croft c, d.job c.job with
  | some x, some job =>
    match x.units.field with
    | some r =>
      if !d.sweeping x || x.field.phase != 2 then d
      else
        let w := x.runSweeps
        let f := if bitOf (leAt r.desc 0 4) 0 then x.field.takeBest w else x.field
        let y : Croft := { x with
          ctxs := modifyAt x.ctxs f.ctx fun v => { v with sweeps := v.sweeps + 1 }
          field := { f with phase := 0 }
          runs := modifyAt x.runs (x.runs.length - 1) fun q => { q with sweeps := BitVec.ofNat 64 (w + 1) } }
        d.setCroft (if (w + 1) % 256 = 0 && x.seq.state != .halted then y.latch (w + 1)
          else y.stopIfHalted job.params.staleness)
    | none => d
  | _, _ => d

/-- The oldest snapshot not committed, its audit passed, commits once its records are present (R187): it is written into the
slot that does not hold the committed one, and the retention floor rises (R180). -/
def Dev.commitSnapshot (c : CroftRef) (d : Dev) : Dev :=
  match d.croft c, d.job c.job with
  | some x, some job =>
    let s := job.params.staleness
    match x.field.pending with
    | [] => d
    | p :: rest =>
      match x.field.snapHistory s p.sweep with
      | none => d
      | some hist =>
        if !x.field.synced then d
        else
          let z := snapBytes x.field.image s
          let slot := x.field.nextSlot
          let bytes := stateImage p.states ++ hist
          let y := x.write (x.field.snapAddr + slot * z) (bytes ++ List.replicate (z - bytes.length) 0)
          d.setCroft { y with field := { y.field with
            pending := rest
            committed := some ⟨slot, p.sweep, p.laneCount, p.eInt, p.best, p.bestE, p.bestSweep⟩
            errors := 0
            store := y.field.store.filter fun h => decide ((p.sweep : Int) - 1 - s ≤ h.sweep) } }
  | _, _ => d

/-- The edge of a Field that a halo record reaches: the edge in HALO mode towards its source (R178, R159). -/
def haloEdgeOf (img : Array Byte) (src : Word32) : Option Nat :=
  (haloEdges img).find? fun e => match edgeMode img e with
    | .halo dev croft => src == haloSource dev croft (opposite e)
    | _ => false

/-- A halo record arrives (R178, R180): a version already held, or below the retention floor, is discarded. -/
def Dev.haloRecord (c : CroftRef) (r : HaloRec) (d : Dev) : Dev :=
  match d.croft c with
  | some x =>
    match haloEdgeOf x.field.image r.source with
    | none => d
    | some e =>
      let w : Nat := bitsOf r.version.toNat 0 63
      let cls := bitOf r.version.toNat 63
      let floor := (x.field.committed.map (·.sweep)).getD 0
      let held := x.field.store.any fun h => h.edge.val == e && h.cls == cls && h.sweep == (w : Int)
      if held || decide (w < floor) then d
      else d.setCroft { x with field := { x.field with store := x.field.store ++ [⟨Fin.ofNat 4 e, cls, w, r.states⟩] } }
  | none => d

/-- The latency H that a handshake measures (R181, R294): half the round trip of the exchange, in cycles of the nominal croft
clock, the last begun one counted (DESIGN CHOICE, log 94). -/
def haloLatency (asked now : Nat) : Nat := ceilDiv (now - asked) (2 * cycleUnits 0)

/-- FIELD_HALO_MAX of an edge after a handshake measured its latency H (R191, R294); one that comes before this Field has sent
its own measures nothing. -/
def Dev.measureHalo (d : Dev) (x : Croft) (e : Fin 4) : Dev :=
  match x.slot, x.field.askedAt with
  | some s, some t => d.onSlot s fun u =>
      { u with haloMax := modifyAt u.haloMax e.val fun h => max h (min (2 ^ 32 - 1) (haloLatency t d.time.elapsed)) }
  | _, _ => d

/-- A handshake record arrives on an edge (R179). -/
def Dev.haloHandshake (c : CroftRef) (e : Fin 4) (h : Handshake) (d : Dev) : Dev :=
  match d.croft c, d.job c.job with
  | some x, some job =>
    let y : Croft := { x with field := { x.field with incoming := x.field.incoming.set e.val (some h) } }
    (d.applySync c y job.params.staleness job.params.laneFree).measureHalo x e
  | _, _ => d

/-- Whether the Field's instruction still lacks a record of edge `e`: its handshake while the run is not synchronised, else a
version it needs (R177, R179, R186), which for FIELD.READ are those of the east and south edges (R183, R190). -/
def Croft.lacksRecord (x : Croft) (s e : Nat) : Bool :=
  let f := x.field
  let w := x.runSweeps
  isHalo f.image e && match x.units.field with
    | none => false
    | some r =>
      if !f.synced then (f.incoming.getD e none).isNone
      else match InstrWord.operation r.ins.word with
        | some .sweep => ((f.phaseRecords s w f.phase).getD e none).isNone
        | some .snap => (snapVersions s w).any fun v => (f.version e v.1 v.2).isNone
        | some .read => (e == 1 || e == 2)
            && (((f.edgeRecords false w).getD e none).isNone || ((f.edgeRecords true w).getD e none).isNone)
        | _ => false

/-- Whether a croft is off every slot, or paused for a test (R41, R380, R389). -/
def Croft.away (x : Croft) : Bool := x.slot.isNone || x.paused

/-- Whether the Field waits for a record of a neighbour on this device that is switched out (R182). -/
def Dev.awaitsAway (d : Dev) (x : Croft) (job : Job) : Bool :=
  (haloEdges x.field.image).any fun e => x.lacksRecord job.params.staleness e && match edgeMode x.field.image e with
    | .halo dev n => dev == job.params.ldev && (d.croft ⟨x.job, Fin.ofNat 256 n⟩).any Croft.away
    | _ => false

/-- A halo wait has passed HALO_TIMEOUT (R182): SWEEPS stays at the last completed sweep with its states, and
HALO_STALL is raised. Nothing happens while no FIELD instruction waits, while the count pauses for a croft that is switched
out, or while an emergency holds the limit (R449). -/
def Dev.haloStall (c : CroftRef) (d : Dev) : Dev :=
  match d.croft c, d.job c.job with
  | some x, some job =>
    match x.units.field with
    | some r =>
      if d.resident x && !d.limitsHeld c.job && x.fieldWaits job.params.staleness && !d.awaitsAway x job then (d.setCroft x.stopField).croftFault c 0x0508 r.ins.index
      else d
    | none => d
  | _, _ => d

/-! ## Completion of FIELD instructions -/

/-- The record of FIELD.READ (R190). -/
def Croft.readRecord (x : Croft) : List Byte :=
  let f := x.field
  let w := x.runSweeps
  leBytes 8 (wrapInt 64 f.eInt) ++ leBytes 8 (wrapInt 64 (energyEdge f.image f.states (f.edgeRecords false w) (f.edgeRecords true w)))
    ++ leBytes 8 w ++ leBytes 8 (wrapInt 64 f.bestE) ++ leBytes 8 f.bestSweep.toNat ++ leBytes 8 f.rollbacks ++ leBytes 16 0

/-- A FIELD instruction's effect at completion; none while it cannot complete (R173, R176, R189, R190, R119). -/
def Croft.finishField (x : Croft) (s : Nat) (r : Running) : Option Croft :=
  let w := x.runSweeps
  match InstrWord.operation r.ins.word with
  | some .load => some x
  | some .sweep =>
    if x.field.phase = 0 && x.field.target ≤ w && x.field.pending.isEmpty then
      some { x with ctxs := copyPosition x.ctxs x.lanes 4 }
    else none
  | some .snap =>
    if !x.field.synced then none
    else (x.field.snapHistory s w).map fun hist =>
      let z := snapBytes x.field.image s
      let bytes := stateImage x.field.states ++ hist
      x.write (leAt r.desc 8 4) (bytes ++ List.replicate (z - bytes.length) 0)
  | some .read =>
    if !x.field.synced || !x.field.edgePresent w then none
    else
      let y := x.write (leAt r.desc 8 4) x.readRecord
      some (if bitOf (leAt r.desc 0 4) 0 then y.write (leAt r.desc 8 4 + 64) (stateImage x.field.best) else y)
  | _ => none

end Sys2Proof.Machine
end

