-- ==== Sys2Proof/Machine/Traffic.lean ====
section
/-!
DEFINITION. Routes of the package mesh and the flits granted along them (08_mesh_and_memory.md R229 to R231, R234, R237 to R240, R250).
-/

namespace Sys2Proof.Machine

/-- The node of a slot (R229). -/
def slotXY (s : Nat) : Nat × Nat := (1 + s % 10, 1 + s / 10)

/-- Whether a node lies in a declared fault region (R249). -/
def MeshState.covers (m : MeshState) (x y : Nat) : Bool :=
  m.regions.any fun r => r.1 ≤ x && x ≤ r.2.2.1 && r.2.1 ≤ y && y ≤ r.2.2.2

/-- The rows of a transfer: `rows` rows of `bytes` bytes each, `stride` apart, from `base`. -/
structure Rows where
  base   : Nat
  bytes  : Nat
  stride : Nat
  rows   : Nat
deriving DecidableEq, Repr

/-- Whether some row has a byte in [lo, hi). The first row that ends above `lo` decides, since rows only rise. -/
def Rows.meets (r : Rows) (lo hi : Nat) : Bool :=
  let i := if lo < r.base + r.bytes then 0
    else if r.stride = 0 then r.rows
    else (lo - r.base - r.bytes) / r.stride + 1
  0 < r.bytes && i < r.rows && r.base + i * r.stride < hi

/-- Where one end of a transfer lies: at a node, at the hub, in device memory, or in the image of a Granary that is saved in
HBM3E (01_croft_anatomy.md R41), whose place the manual does not give. -/
inductive Place where
  | node (x y : Nat)
  | hub
  | memory (r : Rows)
  | saved
deriving DecidableEq, Repr

/-- The ring sides, north 0, east 1, south 2 and west 3, that an end of a transfer in memory is attached to (R230). -/
def Place.sides : Place → List Nat
  | .memory r => (List.range 4).filter fun s =>
      r.meets (3 * s * 2 ^ 36) (3 * (s + 1) * 2 ^ 36)
        || (s == 1 && r.meets lpBase (lpBase + 12 * 2 ^ 36)) || (s == 3 && r.meets (lpBase + 12 * 2 ^ 36) (lpBase + 24 * 2 ^ 36))
  | .saved => [0, 1, 2, 3]
  | _ => []

/-- The entry node of a ring side from a node (R240). -/
def entryNode (p : Nat × Nat) (side : Nat) : Nat × Nat :=
  let x := max 1 (min 10 p.1)
  let y := max 1 (min 8 p.2)
  match side with
  | 0 => (x, 0)
  | 1 => (11, y)
  | 2 => (x, 9)
  | _ => (0, y)

/-- The numbers from one to another, both included. -/
def runOf (a b : Nat) : List Nat := (List.range (max a b + 1 - min a b)).map (min a b + ·)

/-- Whether a router node stands at a coordinate (R229). -/
def nodePresent (x y : Nat) : Bool := !((x == 0 || x == 11) && (y == 0 || y == 9))

/-- The nodes of the route between two nodes (R234): along x first, or along y first where the turn node is absent. -/
def meshRoute (p q : Nat × Nat) : List (Nat × Nat) :=
  if nodePresent q.1 p.2 then (runOf p.1 q.1).map (fun x => (x, p.2)) ++ (runOf p.2 q.2).map fun y => (q.1, y)
  else (runOf p.2 q.2).map (fun y => (p.1, y)) ++ (runOf p.1 q.1).map fun x => (x, q.2)

/-- The nodes around a fault region (R250). -/
def aroundRegion (r : Nat × Nat × Nat × Nat) : List (Nat × Nat) :=
  ((runOf (r.1 - 1) (r.2.2.1 + 1)).flatMap fun x => (runOf (r.2.1 - 1) (r.2.2.2 + 1)).map fun y => (x, y)).filter fun p =>
    !(r.1 ≤ p.1 && p.1 ≤ r.2.2.1 && r.2.1 ≤ p.2 && p.2 ≤ r.2.2.2)

/-- The nodes that the flits between two places may pass: those of the routes, and around each fault region that a route would
enter (R234, R240, R250). The hub reaches the north side without the mesh (R239). -/
def MeshState.nodesOf (m : MeshState) (a b : Place) : List (Nat × Nat) :=
  let at_ := fun (p : Place) => match p with
    | .node x y => [(x, y)]
    | .hub => [(5, 0), (6, 0)]
    | _ => []
  let route := (at_ a).flatMap fun p =>
    (at_ b).flatMap (meshRoute p) ++ ((b.sides.filter fun s => !(a == .hub && s == 0)).flatMap fun s => meshRoute p (entryNode p s))
  let around := (m.regions.filter fun r => route.any fun p => r.1 ≤ p.1 && p.1 ≤ r.2.2.1 && r.2.1 ≤ p.2 && p.2 ≤ r.2.2.2).flatMap aroundRegion
  (route ++ around).filter fun p => !m.covers p.1 p.2

/-- The flits of one transfer granted on some virtual channels at the nodes it may pass (R231, R232, R250): how many at each is free
(log 107). -/
def Dev.grant (d : Dev) (vcs : List Nat) (nodes : List (Nat × Nat)) : Dev :=
  let one := fun (p : Nat × Nat) =>
    if nodes.contains (p.2 / 4 % 12, p.2 / 4 / 12) && vcs.contains (p.2 % 4)
    then satAdd 64 p.1 (Config.grantedFlits d.freeCount (p.2 / 4) (p.2 % 4)) else p.1
  if nodes.isEmpty then d
  else { d with freeCount := d.freeCount + 1, mesh := { d.mesh with granted := d.mesh.granted.zipIdx.map one } }

/-- Where the Granary of a logical croft lies: at its slot, or saved. -/
def Dev.granaryPlace (d : Dev) (c : CroftRef) : Place :=
  match (d.croft c).bind (·.slot) with
  | some s => .node (slotXY s.val).1 (slotXY s.val).2
  | none => .saved

/-- The flits of data between two places: requests, replies and writes (R232). -/
def Dev.carry (d : Dev) (a b : Place) : Dev := d.grant [1, 2, 3] (d.mesh.nodesOf a b ++ d.mesh.nodesOf b a)

/-- The flits of a hub command, its completion entry among them, between the hub and the ring sides (log 107). -/
def Dev.hubTraffic (d : Dev) : Dev := d.carry .hub .saved

/-- A control message between two places: a VC0 flit under CTRL_PATH = COMPAT (R238), else on the control network (R237). -/
def Dev.control (d : Dev) (job : Job) (a b : Place) : Dev := if job.params.compat then d.grant [0] (d.mesh.nodesOf a b) else d

end Sys2Proof.Machine
end

