-- ==== Sys2Proof/Machine/Transfer.lean ====
section
/-!
DEFINITION. Transfers of the move unit and the mesh unit (07_croft_instruction_set.md R203 to R205, R222;
08_mesh_and_memory.md R243 to R246, R253, R257): their checks at the start and the landing of their data.
-/

namespace Sys2Proof.Machine

/-- Whether some byte lies at or beyond 2^26 (R471). -/
def Rows.pastGranary (r : Rows) : Bool :=
  0 < r.bytes && 0 < r.rows && granarySize < r.base + (r.rows - 1) * r.stride + r.bytes

/-- An address beyond every row. -/
def farAddr : Nat := 2 ^ 64

/-- Whether some byte lies outside the memory tiers (R253). -/
def Rows.outside (r : Rows) : Bool := r.meets (12 * 2 ^ 36) lpBase || r.meets (lpBase + 24 * 2 ^ 36) farAddr

/-- Whether some byte lies in a tier beyond its backed size (R251, R252, R253). -/
def Rows.unbacked (u : MemUnits) (r : Rows) : Bool :=
  ((List.range 12).any fun k => r.meets (k * 2 ^ 36 + u.hbmBacked.getD k 0) ((k + 1) * 2 ^ 36))
    || ((List.range 24).any fun k => r.meets (lpBase + k * 2 ^ 36 + u.lpBacked k) (lpBase + (k + 1) * 2 ^ 36))

/-- Whether some byte lies in a poisoned word (R379). -/
def Rows.poisoned (p : List Nat) (r : Rows) : Bool := p.any fun w => r.meets w (w + 8)

/-- Whether a row meets the running program of a croft (R222). -/
def Croft.progMeets (x : Croft) (r : Rows) : Bool :=
  match x.progRange with
  | some p => r.meets p.1 (p.1 + p.2)
  | none => false

/-- Whether a reference breaks R203 for job croft count `n`: of device memory, one that is misaligned or outside the tiers. -/
def MemRef.bad (n : Nat) : MemRef → Bool
  | .reserved => true
  | .device a => a % 32 != 0 || !inTiers a
  | .own o => o % 32 != 0
  | .croft k o => n ≤ k || o % 32 != 0

/-- Whether a reference is to the issuing croft's own Granary by SPACE 0b01. -/
def MemRef.isOwn : MemRef → Bool
  | .own _ => true
  | _ => false

/-- The croft a reference names from croft `c`; none for device memory. -/
def MemRef.target (c : CroftRef) : MemRef → Option CroftRef
  | .own _ => some c
  | .croft k _ => some ⟨c.job, Fin.ofNat 256 k⟩
  | _ => none

/-- The fault codes of one end of a transfer, at its rows (R203, R253, R471, R222, R379). -/
def Dev.endFaults (d : Dev) (c : CroftRef) (ref : MemRef) (r : Rows) (writes : Bool) : List Nat :=
  match ref with
  | .device _ =>
    when_ r.outside 0x0212 ++ when_ (r.unbacked d.units) 0x0601 ++ when_ (!writes && r.poisoned d.memPoison) 0x0A01
  | .reserved => []
  | _ =>
    match (ref.target c).bind d.croft with
    | none => when_ r.pastGranary 0x0216
    | some x =>
      when_ (writes && x.progMeets r) 0x0204 ++ when_ r.pastGranary 0x0216 ++ when_ (!writes && r.poisoned x.poison) 0x0A01

/-- Source rows of a move. -/
def MoveDesc.srcRows (d : MoveDesc) : Rows := ⟨d.src.offset, d.rowBytes, d.srcStride, d.rows⟩
/-- Destination rows of a move. -/
def MoveDesc.dstRows (d : MoveDesc) : Rows := ⟨d.dst.offset, d.rowBytes, d.dstStride, d.rows⟩

/-- The fault codes of MOVE.DMA and MOVE.ZERO (R203, R204, R253, R257). A move inside the own Granary needs no route. -/
def Dev.moveFaults (d : Dev) (c : CroftRef) (job : Job) (zero : Bool) (m : MoveDesc) : List Nat :=
  let n := job.params.crofts
  when_ ((!zero && m.src.bad n) || m.dst.bad n || (!zero && !m.src.isOwn && !m.dst.isOwn)) 0x0212
    ++ when_ (!m.shapeOk) 0x0213
    ++ (if zero then [] else d.endFaults c m.src m.srcRows false) ++ d.endFaults c m.dst m.dstRows true
    ++ when_ (d.mesh.broken && !(m.dst.isOwn && (zero || m.src.isOwn))) 0x0603

/-- The requested targets of MESH.MCAST, without the issuing croft's own bit (R205). -/
def MeshDesc.targets (m : MeshDesc) (self : Fin 256) : List (Fin 256) :=
  (List.finRange 256).filter fun n => bitOf m.mask n.val && n != self

/-- The fault codes of MESH.PUT and MESH.MCAST (R205, R222, R471, R379, R257). Whether a MESH.PUT to another device meets a program
that runs there is not known here: free (log 22). -/
def Dev.meshFaults (d : Dev) (c : CroftRef) (x : Croft) (job : Job) (mcast : Bool) (m : MeshDesc) : List Nat :=
  let n := job.params.crofts
  let lenOk := m.length % 32 == 0 && 32 ≤ m.length && m.length ≤ 2 ^ 26
  let src : Rows := ⟨m.src, m.length, 0, 1⟩
  let dst : Rows := ⟨m.dst, m.length, 0, 1⟩
  let tgts := m.targets c.n
  let targetBad := if mcast then tgts.isEmpty || tgts.any fun t => n ≤ t.val
    else n ≤ m.croft || job.params.devices ≤ m.dev
  let here := if mcast then tgts else if m.dev = job.params.ldev then [Fin.ofNat 256 m.croft] else []
  let prog := here.any fun t => match d.croft ⟨c.job, t⟩ with
    | some y => y.progMeets dst
    | none => false
  let away := !mcast && !targetBad && m.dev != job.params.ldev
    && Config.remoteProgram job.params.handle m.dev m.croft m.dst m.length d.time.elapsed
  when_ (prog || away || (mcast && x.progMeets ⟨m.result, 32, 0, 1⟩)) 0x0204
    ++ when_ targetBad 0x0214
    ++ when_ (!lenOk || m.src % 32 != 0 || m.dst % 32 != 0 || (mcast && m.result % 32 != 0)) 0x0215
    ++ when_ (src.pastGranary || dst.pastGranary || (mcast && granarySize < m.result + 32)) 0x0216
    ++ when_ (src.poisoned x.poison) 0x0A01
    ++ when_ (d.mesh.broken && (mcast || m.dev != job.params.ldev || m.croft != c.n.val)) 0x0603

/-- The crofts that the transfer waits for: a croft of the job without a Granary yet has none to write or read (R246). -/
def Dev.transferHolds (d : Dev) (c : CroftRef) (op : Op) (bs : List Byte) (job : Job) : Bool :=
  let absent := fun (k : Nat) => decide (k < job.params.crofts) && (d.croft ⟨c.job, Fin.ofNat 256 k⟩).isNone
  let ref := fun (r : MemRef) => match r with
    | .croft k _ => absent k
    | _ => false
  match op with
  | .dma => ref (moveDesc bs).src || ref (moveDesc bs).dst
  | .zero => ref (moveDesc bs).dst
  | .put => (meshDesc bs).dev == job.params.ldev && absent (meshDesc bs).croft
  | _ => false

/-- The delivered mask of a multicast now (R246): launched crofts of the mask that are on an ACTIVE slot, or whose
state is saved while they are off every slot. -/
def Dev.deliverable (d : Dev) (j : Fin 64) (tgts : List (Fin 256)) : List (Fin 256) :=
  tgts.filter fun t => match d.croft ⟨j, t⟩ with
    | none => false
    | some y => match y.slot with
      | none => true
      | some s => (d.slot s).any fun u => u.spare == .active || u.spare == .underTest

/-- A set of logical crofts in the layout of MASK (R205). -/
def maskOf (l : List (Fin 256)) : Nat := l.foldl (fun v t => if bitOf v t.val then v else v + 2 ^ t.val) 0

/-- The croft whose Granary a transfer to croft `t` reaches (01_croft_anatomy.md R38): the one that the slot of `t` in the
source's copy of the map carries; a croft the copy gives no slot is reached in its saved state. -/
def Dev.reached (d : Dev) (map : MapCopy) (t : CroftRef) : CroftRef :=
  match map.binds.find? fun b => b.1 == t with
  | none => t
  | some b => match d.carried b.2 with
    | some y => ⟨y.job, y.n⟩
    | none => t

/-- The croft a reference reaches from croft `c` through a copy of the map; none for device memory. The own Granary needs
no translation. -/
def Dev.translated (d : Dev) (map : MapCopy) (c : CroftRef) (ref : MemRef) : Option CroftRef :=
  if ref.isOwn then some c else (ref.target c).map (d.reached map)

/-- Bytes at a place of the memory of R203, seen from croft `c`. -/
def Dev.getAt (d : Dev) (map : MapCopy) (c : CroftRef) (ref : MemRef) (a n : Nat) : List Byte :=
  match d.translated map c ref with
  | none => d.read a n
  | some t => match d.croft t with
    | some x => x.read a n
    | none => List.replicate n 0

/-- Bytes put at a place of the memory of R203, seen from croft `c`. -/
def Dev.putAt (d : Dev) (map : MapCopy) (c : CroftRef) (ref : MemRef) (a : Nat) (bs : List Byte) : Dev :=
  match d.translated map c ref with
  | none => d.write a bs
  | some t => d.onCroft t fun x => x.write a bs

/-- MOVE.DMA and MOVE.ZERO carried out (R204): every source row is read, then the destination rows are written in increasing
order. The manual gives no order where source and destination overlap (DESIGN CHOICE, log 8). -/
def Dev.moveData (d : Dev) (map : MapCopy) (c : CroftRef) (zero : Bool) (m : MoveDesc) : Dev :=
  let rows := (List.range m.rows).map fun i =>
    if zero then List.replicate m.rowBytes 0 else d.getAt map c m.src (m.src.offset + i * m.srcStride) m.rowBytes
  (rows.zipIdx).foldl (fun d p => d.putAt map c m.dst (m.dst.offset + p.2 * m.dstStride) p.1) d

/-- Where a reference of a transfer of croft `c` lies, at its rows. -/
def Dev.refPlace (d : Dev) (c : CroftRef) (ref : MemRef) (r : Rows) : Place :=
  match ref.target c with
  | none => .memory r
  | some t => d.granaryPlace t

/-- The flits of a move, which passes the issuing croft's node (08_mesh_and_memory.md R240, R250). -/
def Dev.moveTraffic (d : Dev) (c : CroftRef) (zero : Bool) (m : MoveDesc) : Dev :=
  let own := d.granaryPlace c
  let to_ := fun (ref : MemRef) (r : Rows) (e : Dev) => if ref.isOwn then e else e.carry own (d.refPlace c ref r)
  to_ m.dst m.dstRows (if zero then d else to_ m.src m.srcRows d)

/-- The flits of a MESH instruction to targets of this device. -/
def Dev.meshTraffic (d : Dev) (c : CroftRef) (tgts : List (Fin 256)) : Dev :=
  let own := d.granaryPlace c
  d.grant [1, 3] (tgts.flatMap fun t => d.mesh.nodesOf own (d.granaryPlace ⟨c.job, t⟩))

/-- The data of a MESH instruction landing at its targets on this device (R205, R245). A MESH.MCAST's descriptor is
followed by the mask that could be delivered at its start. -/
def Dev.meshData (d : Dev) (c : CroftRef) (x : Croft) (mcast : Bool) (bs : List Byte) (ldev : Nat) : Dev :=
  let m := meshDesc bs
  let data := x.read m.src m.length
  if mcast then
    let start := leAt bs 64 32
    (d.deliverable c.job ((m.targets c.n).filter fun t => bitOf start t.val)).foldl
      (fun d t => d.onCroft (d.reached (d.unitMap x true) ⟨c.job, t⟩) fun y => y.write m.dst data) d
  else if m.dev = ldev then
    d.onCroft (d.reached (d.unitMap x true) ⟨c.job, Fin.ofNat 256 m.croft⟩) fun y => y.write m.dst data
  else d

/-- MESH.MCAST's delivered mask written at RESULT, with PARTIAL when it differs from the request (R205, R246). -/
def Dev.mcastResult (d : Dev) (c : CroftRef) (bs : List Byte) : Dev :=
  let m := meshDesc bs
  let start := leAt bs 64 32
  let got := maskOf (d.deliverable c.job ((m.targets c.n).filter fun t => bitOf start t.val))
  let asked := maskOf (m.targets c.n)
  d.onCroft c fun x =>
    let y := x.write m.result (leBytes 32 got)
    if got = asked then y else { y with report := y.report ||| 0x20 }

/-- The transfer running on the move unit (`false`) or the mesh unit (`true`). -/
def Croft.transfer (x : Croft) (mesh : Bool) : Option Running := if mesh then x.units.mesh else x.units.move

/-- The running transfer with its data landed. -/
def Croft.setLanded (x : Croft) (mesh : Bool) : Croft :=
  let land := fun (o : Option Running) => o.map fun r => { r with landed := true }
  if mesh then { x with units := { x.units with mesh := land x.units.mesh } }
  else { x with units := { x.units with move := land x.units.move } }

/-- The write acknowledgement of a transfer (R196): its data are in place. MESH.MCAST has acceptances instead. -/
def Dev.writeAcknowledgement (c : CroftRef) (mesh : Bool) (d : Dev) : Dev :=
  match d.croft c, d.job c.job with
  | some x, some job =>
    match x.transfer mesh with
    | none => d
    | some r =>
      let op := InstrWord.operation r.ins.word
      if r.landed || op == some .mcast then d
      else
        let m := meshDesc r.desc
        let d := if mesh then
            (d.meshData c x false r.desc job.params.ldev).meshTraffic c
              (if m.dev = job.params.ldev then [Fin.ofNat 256 m.croft] else [])
          else (d.moveData (d.unitMap x false) c (op == some .zero) (moveDesc r.desc)).moveTraffic c (op == some .zero) (moveDesc r.desc)
        d.onCroft c fun y => y.setLanded mesh
  | _, _ => d

/-- The last missing acceptance of a MESH.MCAST (R245): every target of the delivered mask has the data. -/
def Dev.multicastAcceptance (c : CroftRef) (d : Dev) : Dev :=
  match d.croft c, d.job c.job with
  | some x, some job =>
    match x.units.mesh with
    | none => d
    | some r =>
      if r.landed || InstrWord.operation r.ins.word != some .mcast then d
      else
        let d := (d.meshData c x true r.desc job.params.ldev).meshTraffic c ((meshDesc r.desc).targets c.n)
        d.onCroft c fun y => y.setLanded true
  | _, _ => d

/-- A transfer not complete within MESH_ACK_LIMIT (R257), which an emergency holds (R449): the fault is raised while it
runs, and the unit lets go of it. -/
def Dev.transferTimeout (c : CroftRef) (mesh : Bool) (d : Dev) : Dev :=
  match d.croft c with
  | none => d
  | some x =>
    match x.transfer mesh with
    | none => d
    | some r =>
      if r.landed || d.limitsHeld c.job then d
      else
        let y : Croft := if mesh then { x with units := { x.units with mesh := none } }
          else { x with units := { x.units with move := none } }
        (d.setCroft y).croftFault c 0x0604 r.ins.index

end Sys2Proof.Machine
end

