-- ==== Sys2Proof/Machine/Flags.lean ====
section
/-!
DEFINITION. Flags (02_mill_arithmetic.md R75; 03_drain_and_reductions.md R99; 05_dense_sampling.md R141;
10_queues_and_hub.md R320; 12_determinism_and_ledger.md R365): what a drain or sampler instruction reports, how the
reports gather in CFLAGS, and what enters the job ledger.
-/

namespace Sys2Proof.Machine

/-- The flags of a tile as bits [3:0] of CFLAGS (R320). -/
def TileFlags.cflags (f : TileFlags) : BitVec 8 :=
  (if f.ovf then 1 else 0) ||| (if f.invalid then 2 else 0) ||| (if f.boundVoid then 4 else 0) ||| (if f.cancel then 8 else 0)

/-- The flags of a sampler instruction as bits of CFLAGS (R141, R320). -/
def sampCflags (invalid empty : Bool) : BitVec 8 := (if invalid then 2 else 0) ||| (if empty then 0x10 else 0)

/-- The flags a tile reports at the completion of a DRAIN.RED that raised `fl` (R99). -/
def Tile.reported (t : Tile) (fl : ElemFlags) : TileFlags where
  ovf := t.flags.ovf || fl.ovf
  invalid := t.flags.invalid || fl.invalid
  boundVoid := t.flags.boundVoid
  cancel := t.flags.cancel || cancelOf t

/-- A count that saturates at 2^64 - 1 (R365). -/
def bump (n : Nat) (b : Bool) : Nat := if b then satAdd 64 n 1 else n

/-- The ledger counts with a released tile's flags (R99, R365). -/
def Tally.release (t : Tally) (f : TileFlags) : Tally :=
  { t with
    ovf := bump t.ovf f.ovf
    invalid := bump t.invalid f.invalid
    boundVoid := bump t.boundVoid f.boundVoid
    cancel := bump t.cancel f.cancel }

/-- The ledger counts with a sampler instruction's flags (R141, R365). -/
def Tally.sampler (t : Tally) (invalid empty : Bool) : Tally :=
  { t with invalid := bump t.invalid invalid, emptyDraw := bump t.emptyDraw empty }

/-- Ledger counts added up (R365). -/
def Tally.add (a b : Tally) : Tally :=
  ⟨satAdd 64 a.ovf b.ovf, satAdd 64 a.invalid b.invalid, satAdd 64 a.boundVoid b.boundVoid, satAdd 64 a.cancel b.cancel,
    satAdd 64 a.emptyDraw b.emptyDraw⟩

/-- No flag counted. -/
def Tally.zero : Tally := ⟨0, 0, 0, 0, 0⟩

/-- The ledger counts with every tile still open released at the job's end (R99). -/
def Croft.finalTally (x : Croft) : Tally :=
  x.banks.foldl (fun t bank => bank.foldl (fun t u => t.release u.flags) t) x.tally

end Sys2Proof.Machine
end

