-- ==== Sys2Proof/Machine/Start.lean ====
section
/-!
DEFINITION. Start and completion of queued instructions (07_croft_instruction_set.md R196, R207, R471;
01_croft_anatomy.md R23, R24; and the interlocks and checks of each unit's chapter). A start checks everything and
reads the descriptor; a completion carries out the effect and signals.
-/

namespace Sys2Proof.Machine

/-- What runs on a unit. -/
def Croft.running (x : Croft) : UnitId → Option Running
  | .mill i => (x.units.mill.getD i.val none)
  | .drain i => (x.units.drain.getD i.val none)
  | .row i => (x.units.row.getD i.val none)
  | .field => x.units.field
  | .move => x.units.move
  | .mesh => x.units.mesh

/-- The croft with what runs on a unit replaced. -/
def Croft.setRunning (x : Croft) (u : UnitId) (r : Option Running) : Croft :=
  match u with
  | .mill i => { x with units := { x.units with mill := x.units.mill.set i.val r } }
  | .drain i => { x with units := { x.units with drain := x.units.drain.set i.val r } }
  | .row i => { x with units := { x.units with row := x.units.row.set i.val r } }
  | .field => { x with units := { x.units with field := r } }
  | .move => { x with units := { x.units with move := r } }
  | .mesh => { x with units := { x.units with mesh := r } }

/-- The croft with the head of a queue taken. -/
def Croft.dequeue (x : Croft) (q : Nat) : Croft :=
  { x with units := { x.units with queues := modifyAt x.units.queues q List.tail } }

/-- The instructions in flight that were issued before `n`. -/
def Croft.earlier (x : Croft) (n : Nat) : List Running := x.inFlight.filter fun r => decide (r.ins.seq < n)

/-- Whether an instruction is a DRAIN.RED of a drain with SR set (R95). -/
def Running.isSrRed (r : Running) (unit : Nat) : Bool :=
  InstrWord.operation r.ins.word == some .red && InstrWord.unit r.ins.word == unit && (drainDesc r.desc).sr

/-- The SUM_DST range of an accumulating DRAIN.RED (R85). -/
def Running.sumAccRange (r : Running) : Option (Nat × Nat) :=
  let d := drainDesc r.desc
  if InstrWord.operation r.ins.word == some .red && d.sum && d.sumAcc then some (d.sumDst, 4 * InstrWord.rows r.ins.word) else none

/-- Whether an instruction is a drain instruction that names contexts of a range (R97). -/
def Running.drainNames (r : Running) (p : Nat × Nat) : Bool :=
  InstrWord.cls r.ins.word == 3 && match ctxNamed r with
    | some q => ctxMeet p q
    | none => false

/-- The context orders of R97 for a drain instruction. -/
def Croft.drainCtxHeld (x : Croft) (r : Running) : Bool :=
  match ctxNamed r with
  | none => false
  | some p => (x.earlier r.ins.seq).any fun e => e.drainNames p && (ctxWriter r || ctxWriter e)

/-- Rows waiting in a drain's hand-over buffer (R126). -/
def HandOver.rowCount (h : HandOver) : Nat := h.buffer.foldl (fun n b => n + b.rows.length) 0

/-- Whether a lane set is positioned (R116, R120). -/
def Croft.setReady (x : Croft) (set : Nat) : Bool := (x.lanes[set]?.map (·.ready)).getD false

/-- The interlocks that hold an instruction at the head of its queue (R24, R74, R85, R95, R97, R116, R132). R74 holds back the
bank writes of a MILL instruction alone; the model holds its start, so its start checks see the tile as the earlier drain
instructions leave it (DESIGN CHOICE, log 103). -/
def Croft.interlocked (x : Croft) (r : Running) : Bool :=
  let w := r.ins.word
  let u := InstrWord.unit w
  let before := x.earlier r.ins.seq
  let notReady := match setConsumed r with
    | some s => !x.setReady s
    | none => false
  match InstrWord.operation w with
  | some .mm =>
    let o := millOp r.ins
    before.any fun e => InstrWord.operation e.ins.word == some .red && InstrWord.unit e.ins.word == u
      && InstrWord.drainTile e.ins.word == o.tile && InstrWord.rows e.ins.word == o.m
  | some .red =>
    let d := drainDesc r.desc
    let tileBusy := before.any fun e => InstrWord.operation e.ins.word == some .mm && InstrWord.unit e.ins.word == u
      && (millOp e.ins).tile == InstrWord.drainTile w && (millOp e.ins).m == InstrWord.rows w
    let laneBusy := d.sr && before.any fun e => InstrWord.cls e.ins.word == 4 && InstrWord.unit e.ins.word == u
    let sumBusy := match r.sumAccRange with
      | none => false
      | some p => before.any fun e => match e.sumAccRange with
        | some q => spansMeet p q
        | none => false
    tileBusy || laneBusy || sumBusy || x.drainCtxHeld r || notReady
  | some .emit => x.drainCtxHeld r
  | some .load | some .snap | some .read | some .sweep => notReady
  | some .bern | some .gibbs | some .gumb | some .take | some .mask | some .fill =>
    (before.any fun e => e.isSrRed u) || notReady
  | _ => false

/-- Whether the rows of K of a Mill instruction's weights meet a poisoned word. -/
def MillOp.poisoned (o : MillOp) (p : List Nat) : Bool :=
  let w := 8 * ((opFmt o.wfmt).map (·.width)).getD 0
  (o.ranges.any fun r => meetsPoison p r.1 r.2)
    || (decide (0 < o.k) && Rows.poisoned p ⟨o.wa.base.toNat, w, o.wa.stride.toNat, o.k⟩)

/-- The reference traffic class (10_queues_and_hub.md R305, 12_determinism_and_ledger.md R363). -/
def Job.reference (j : Job) : Bool := j.params.cls == 0

/-- The fault codes of a drain instruction at its start (R100, R112, R119, R222, R379). -/
def Croft.drainFaults (x : Croft) (job : Job) (r : Running) (op : Op) : List Nat :=
  let w := r.ins.word
  let d := drainDesc r.desc
  let m := InstrWord.rows w
  let u := InstrWord.unit w
  let align := when_ (InstrWord.desc w % 32 != 0) 0x0211
  if op = .emit then
    when_ (x.progHit (d.emitWrites m)) 0x0204 ++ align ++ d.emitFaults m x.ctxs
  else
    let t := findTile (x.banks.getD u []) m (InstrWord.drainTile w)
    let width := match t with
      | some t => entryWidth t.isInt t.comp
      | none => 4
    let l := x.lanes[u]?
    let cs := if d.usesCtx then ctxRange x.ctxs d.ctx0 m else []
    when_ (x.progHit (d.writes m width)) 0x0204
      ++ when_ t.isNone 0x020E ++ align ++ d.redFaults m t x.ctxs
      ++ when_ (d.consumes && !job.params.laneFree && decide (2 ^ 64 - 1 < (l.map (·.count)).getD 0 + m)) 0x0801
      ++ when_ (d.consumes && cs.any fun c => boundElsewhere c.gen 1 u) 0x0802
      ++ when_ (d.sum && d.sumAcc && meetsPoison x.poison d.sumDst (4 * m)) 0x0A01

/-- The fault codes of a sampler instruction at its start (R129, R222, R379). -/
def Croft.samplerFaults (x : Croft) (job : Job) (r : Running) (op : Op) : List Nat :=
  let w := r.ins.word
  let d := sampDesc r.desc
  let m := InstrWord.rows w
  let u := InstrWord.unit w
  when_ (x.progHit (sampWrites op d m)) 0x0204
    ++ sampFaults op u (InstrWord.src w) (InstrWord.desc w) m d x.ctxs ((x.lanes[u]?.map (·.count)).getD 0)
        job.params.laneFree job.reference
    ++ when_ ((sampReads op (InstrWord.src w) d m).any fun p => meetsPoison x.poison p.1 p.2) 0x0A01

/-- The fault codes of an instruction at its start, its descriptor read (R227, R471). -/
def Dev.startFaults (d : Dev) (c : CroftRef) (x : Croft) (job : Job) (r : Running) : List Nat :=
  let w := r.ins.word
  let desc := InstrWord.desc w
  match InstrWord.operation w with
  | some .mm =>
    let o := millOp r.ins
    o.faults job.params.plainSum (x.banks.getD o.unit []) ++ when_ (o.poisoned x.poison) 0x0A01
  | some .red => x.drainFaults job r .red
  | some .emit => x.drainFaults job r .emit
  | some .load => x.loadFaults job desc r.desc
  | some .sweep => x.sweepFaults job desc r.desc
  | some .snap => x.outFaults job false desc r.desc
  | some .read => x.outFaults job true desc r.desc
  | some .dma => d.moveFaults c job false (moveDesc r.desc)
  | some .zero => d.moveFaults c job true (moveDesc r.desc)
  | some .put => d.meshFaults c x job false (meshDesc r.desc)
  | some .mcast => d.meshFaults c x job true (meshDesc r.desc)
  | some op => x.samplerFaults job r op
  | none => []

/-- The fault codes of an instruction whose descriptor cannot be read (R471, R204, R205): the conditions that need no
descriptor. -/
def Croft.unreadFaults (x : Croft) (w : InstrWord) (op : Op) : List Nat :=
  let desc := InstrWord.desc w
  let past := when_ (granarySize < desc + descSize op) 0x0216
  match op with
  | .red => when_ (findTile (x.banks.getD (InstrWord.unit w) []) (InstrWord.rows w) (InstrWord.drainTile w)).isNone 0x020E
      ++ when_ (desc % 32 != 0) 0x0211 ++ past
  | .emit => when_ (desc % 32 != 0) 0x0211 ++ past
  | .dma | .zero => when_ (desc % 32 != 0) 0x0212 ++ past
  | .put | .mcast => when_ (desc % 32 != 0) 0x0215 ++ past
  | _ => past

/-- Whether the descriptor of an instruction is read (R471, R204, R205). -/
def descReadable (w : InstrWord) (op : Op) : Bool :=
  let desc := InstrWord.desc w
  let aligned := match op with
    | .dma | .zero | .put | .mcast => desc % 32 == 0
    | _ => true
  op == .mm || (aligned && desc + descSize op ≤ granarySize)

/-- Whether a word of the descriptor is poisoned (R379). -/
def Croft.descPoisoned (x : Croft) (w : InstrWord) (op : Op) : Bool :=
  op != .mm && meetsPoison x.poison (InstrWord.desc w) (descSize op)

/-- Whether a bank range holds a poisoned word (R378). -/
def Croft.bankLost (x : Croft) (mill : Nat) (span : Nat × Nat) : Bool :=
  x.lost.any fun w => match w with
    | .bank i o => i.val == mill && spansMeet (o, 8) span
    | _ => false

/-- DATA_LOST by a poisoned word of a bank or of the context store that the instruction reads (R379). -/
def Croft.storeFaults (x : Croft) (r : Running) : List Nat :=
  let u := InstrWord.unit r.ins.word
  let tile := match InstrWord.operation r.ins.word with
    | some .mm => if (millOp r.ins).acc then findTile (x.banks.getD u []) (millOp r.ins).m (millOp r.ins).tile else none
    | some .red => findTile (x.banks.getD u []) (InstrWord.rows r.ins.word) (InstrWord.drainTile r.ins.word)
    | _ => none
  when_ ((tile.map fun t => x.bankLost u t.span).getD false) 0x0A01
    ++ when_ ((ctxNamed r).map (fun p => x.ctxLost p.1 p.2) |>.getD false) 0x0A01

/-- The poison of a bank range that an opening tile overwrites (R378). -/
def Croft.cureBank (x : Croft) (mill : Nat) (span : Nat × Nat) : Croft :=
  { x with lost := x.lost.filter fun w => match w with
      | .bank i o => !(i.val == mill && span.1 ≤ o && o + 8 ≤ span.1 + span.2)
      | _ => true }

/-- The instruction at the head of a queue as a start would run it. -/
def Croft.headOf (x : Croft) (q : Nat) : Option Running :=
  match x.units.queues.getD q [] with
  | [] => none
  | i :: _ => some ⟨i, if InstrWord.operation i.word = some .mm then [] else x.peek i, false⟩

/-- Whether the head of a queue waits on a semaphore and nothing else holds it. -/
def Croft.claims (x : Croft) (q sem : Nat) : Bool :=
  match x.headOf q with
  | none => false
  | some r => InstrWord.waitEn r.ins.word && InstrWord.waitSem r.ins.word == sem
      && (x.running (InstrWord.unitOf r.ins.word)).isNone && !x.interlocked r

/-- Whether the starts that come before this queue's in the order of R209 take all that the semaphore holds. -/
def Croft.outranked (x : Croft) (q : Nat) (w : InstrWord) : Bool :=
  InstrWord.waitEn w
    && decide (x.sem (InstrWord.waitSem w) ≤ ((List.range q).filter fun p => x.claims p (InstrWord.waitSem w)).length)

/-- The shadow registers of a Mill in the last pass of its instruction: they take the first pass of the next one in its queue,
unless its header wait holds the loading back (R54, R207). Faults are found at an instruction's start (R76): one that will fault
is preloaded too (DESIGN CHOICE, log 103). -/
def Croft.preload (x : Croft) (unit : Nat) : Croft :=
  match x.headOf unit with
  | none => x
  | some r =>
    if InstrWord.waitEn r.ins.word && x.sem (InstrWord.waitSem r.ins.word) == 0 then x
    else
      { x with weights := modifyAt x.weights unit fun m =>
          { m with shadow := (millOp r.ins).passWeights r.ins.seq 0 x.granary } }

/-- A Mill instruction's first pass begins as it starts (R54); of an instruction of one pass it is the last pass too. -/
def Croft.loadWeights (x : Croft) (r : Running) : Croft :=
  let o := millOp r.ins
  let y : Croft := { x with weights := modifyAt x.weights o.unit fun m => m.begin o r.ins.seq 0 x.granary }
  if o.passesOf o.k ≤ 1 then y.preload o.unit else y

/-- What a Mill's registers go through as its running instruction makes its passes (R54). -/
def Croft.millPasses (x : Croft) (r : Running) : List WeightSet × MillRegs :=
  (x.weights.getD (millOp r.ins).unit .zero).run (millOp r.ins) r.ins.seq x.granary

/-- An instruction set running on its unit (R60, R73, R119, R175, R205): an opening MILL.MM opens its tile, a
consuming instruction binds its contexts, FIELD.LOAD takes its images, a MESH instruction sends what leaves the device. -/
def Dev.launchUnit (d : Dev) (c : CroftRef) (x : Croft) (job : Job) (r : Running) : Dev :=
  let w := r.ins.word
  let u := InstrWord.unit w
  let y := x.setRunning (InstrWord.unitOf w) (some r)
  match InstrWord.operation w with
  | some .mm =>
    let o := millOp r.ins
    let y := y.loadWeights r
    if o.acc then d.setCroft y
    else
      let t := o.openTile job.params.plainSum
      d.setCroft ({ y with banks := modifyAt y.banks o.unit fun b => putTile b t }.cureBank o.unit t.span)
  | some .load => d.setCroft (y.fieldLoad job.params.staleness r.desc)
  | some .sweep | some .snap | some .read => d.startField c x job r
  | some .put =>
    let m := meshDesc r.desc
    if m.dev = job.params.ldev then d.setCroft y
    else
      let tag := d.fabric.nextTag
      let d := d.setCroft (x.setRunning .mesh (some { r with desc := r.desc ++ leBytes 4 tag }))
      let d : Dev := { d with fabric := { d.fabric with nextTag := (tag + 1) % 2 ^ 32 } }
      d.send (.put c.job m.dev m.croft m.dst tag false (x.read m.src m.length))
  | some .mcast =>
    let start := maskOf (d.deliverable c.job ((meshDesc r.desc).targets c.n))
    d.setCroft (x.setRunning .mesh (some { r with desc := r.desc ++ leBytes 32 start }))
  | some .red =>
    let q := drainDesc r.desc
    if q.consumes && q.usesCtx && !job.params.laneFree then
      d.setCroft { y with ctxs := bindCtxs y.ctxs y.lanes u q.ctx0 (InstrWord.rows w) }
    else d.setCroft y
  | some op =>
    let q := sampDesc r.desc
    if InstrWord.cls w == 4 && op != .take && sampUsesCtx op q && !job.params.laneFree then
      d.setCroft { y with ctxs := bindCtxs y.ctxs y.lanes u q.ctx0 (InstrWord.rows w) }
    else d.setCroft y
  | none => d.setCroft y

/-- INSTRUCTION_START (R196): the head of a queue starts when its unit is free, its header wait is met, no start that comes
before it takes the semaphore's last count (R209) and no interlock holds it; its start checks raise the lowest fault,
or it subtracts its wait and runs. -/
def Dev.instructionStart (c : CroftRef) (q : QueueId) (d : Dev) : Dev :=
  match d.croft c, d.job c.job with
  | some x, some job =>
    match x.units.queues.getD (QueueId.index q) [] with
    | [] => d
    | i :: _ =>
      match InstrWord.operation i.word with
      | none => d
      | some op =>
        let w := i.word
        let r : Running := ⟨i, if op = .mm then [] else x.peek i, false⟩
        let noWait := InstrWord.waitEn w && x.sem (InstrWord.waitSem w) == 0
        if !d.resident x || (x.running (InstrWord.unitOf w)).isSome || noWait || x.outranked (QueueId.index q) w
            || x.interlocked r then d
        else
          let y := x.dequeue (QueueId.index q)
          let y := if InstrWord.waitEn w then y.subSem (InstrWord.waitSem w) 1 (InstrWord.ownSem w) else y
          let codes := if descReadable w op then
              d.startFaults c y job r ++ y.storeFaults r ++ when_ (y.descPoisoned w op) 0x0A01
            else y.unreadFaults w op
          match lowest codes with
          | some code => (d.setCroft (x.dequeue (QueueId.index q))).croftFault c code i.index
          | none => if descReadable w op && d.transferHolds c op r.desc job then d else (d.launchUnit c y job r).settle c
  | _, _ => d

/-! ## Completion -/

/-- MILL.MM completed (R57 to R71): its passes, and in the last of several the next instruction's first weights loaded (R54). When
the last pass of several began the completion does not tell: the queue is taken as it stands then (DESIGN CHOICE, log 103). -/
def Croft.finishMill (x : Croft) (r : Running) : Croft :=
  let o := millOp r.ins
  match findTile (x.banks.getD o.unit []) o.m o.tile with
  | some t =>
    let p := x.millPasses r
    let y : Croft := { x with
      banks := modifyAt x.banks o.unit fun b => putTile b (o.apply p.1 x.granary t), weights := x.weights.set o.unit p.2 }
    if o.passesOf o.k ≤ 1 then y else y.preload o.unit
  | none => x

/-- A set with the outputs of `n` rows consumed; free mode keeps no output count (R110). -/
def consumed (free : Bool) (l : LaneSet) (gens : List Gen) (n : Nat) : LaneSet :=
  { l with gens := gens, count := if free then l.count else l.count + n }

/-- The lane sets of a croft after set `u` gave `n` outputs. In free mode the outputs are those of `n` successive croft cycles,
and the other sets step once in each of them (R110, log 67). -/
def Croft.consume (x : Croft) (free : Bool) (u n : Nat) (l : LaneSet) : List LaneSet :=
  if free then (x.lanes.zipIdx).map fun p =>
    if p.2 = u then l else { p.1 with gens := p.1.gens.map (genSteps p.1.family n) }
  else x.lanes.set u l

/-- Whether a drain can hand all its rows over (R126): it holds while its next row finds the buffer full. A halted drain whose
rows no running sampler instruction will make room for holds no longer (DESIGN CHOICE, log 17). -/
def Croft.handRoom (x : Croft) (r : Running) : Bool :=
  let u := InstrWord.unit r.ins.word
  !(drainDesc r.desc).toSampler || (x.handOf u).rowCount + InstrWord.rows r.ins.word ≤ 128
    || (x.seq.state == .halted && ((x.units.row[u]?).join).isNone)

/-- DRAIN.RED completed (R80 to R99). -/
def Croft.finishRed (x : Croft) (free : Bool) (r : Running) : Croft :=
  let w := r.ins.word
  let u := InstrWord.unit w
  let m := InstrWord.rows w
  let d := drainDesc r.desc
  match findTile (x.banks.getD u []) m (InstrWord.drainTile w), x.lanes[u]? with
  | some t, some l =>
    let s := (List.range m).foldl (drainRow d t l.family) ⟨x.granary, x.poison, x.ctxs, ⟨false, false⟩, l.gens, []⟩
    let fl := t.reported s.flags
    let lanes := if d.consumes then x.consume free u m (consumed free l s.gens m) else x.lanes
    let ctxs := if d.consumes then copyPosition s.ctxs lanes u else s.ctxs
    let h := x.handOf u
    let hand := if d.toSampler then x.hand.set u { h with buffer := h.buffer ++ [⟨r.ins.seq, d.idxBase, s.handed⟩] } else x.hand
    let bank := x.banks.getD u []
    { x with
      granary := s.granary, poison := s.poison, ctxs := ctxs, lanes := lanes, hand := hand
      report := x.report ||| fl.cflags
      tally := if InstrWord.release w then x.tally.release fl else x.tally
      banks := x.banks.set u (if InstrWord.release w then closeTile bank m (InstrWord.drainTile w) else putTile bank { t with flags := fl }) }
  | _, _ => x

/-- DRAIN.EMIT completed (R87). -/
def Croft.finishEmit (x : Croft) (r : Running) : Croft :=
  let d := drainDesc r.desc
  (List.range (InstrWord.rows r.ins.word)).foldl (fun x i => match x.ctxs[d.ctx0 + i]? with
    | some c => x.write (d.dst + i * d.dstStride) c.emitRecord
    | none => x) x

/-- The rows a sampler instruction works on: none for SRC = NONE; the hand-over's, or the Granary's FP32 rows. -/
def Croft.sampRows (x : Croft) (r : Running) (d : SampDesc) : Option (Nat × Option (List (List Word32))) :=
  let w := r.ins.word
  let m := InstrWord.rows w
  match InstrWord.src w with
  | 0 => some (d.idxBase, none)
  | 1 => ((x.handOf (InstrWord.unit w)).buffer.find? fun b => some b.seq == r.ins.matched).map fun b => (b.idxBase, some b.rows)
  | _ => some (d.idxBase, some ((List.range m).map fun i => fp32s (x.read (d.src + i * d.srcStride) 256) 0 64))

/-- A sampler instruction completed (R131, R138 to R149); none while its hand-over rows have not come. -/
def Croft.finishSamp (x : Croft) (free : Bool) (r : Running) (op : Op) : Option Croft :=
  let w := r.ins.word
  let u := InstrWord.unit w
  let m := InstrWord.rows w
  let d := sampDesc r.desc
  match x.sampRows r d, x.lanes[u]? with
  | some src, some l =>
    let s := (List.range m).foldl (sampRow op d l.family src.1 src.2) ⟨x.granary, x.poison, x.ctxs, l.gens, false, false⟩
    let n := sampOutputs op d m
    let lanes := if n = 0 then x.lanes else x.consume free u n (consumed free l s.gens n)
    let ctxs := if d.phaseAdv then (s.ctxs.zipIdx).map fun p =>
        if d.ctx0 ≤ p.2 && p.2 < d.ctx0 + m then phaseAdvance p.1 else p.1
      else s.ctxs
    let ctxs := if n = 0 then ctxs else copyPosition ctxs lanes u
    let h := x.handOf u
    some { x with
      granary := s.granary, poison := s.poison, ctxs := ctxs, lanes := lanes
      hand := x.hand.set u { h with buffer := h.buffer.filter fun b => some b.seq != r.ins.matched }
      report := x.report ||| sampCflags s.invalid s.empty
      tally := x.tally.sampler s.invalid s.empty }
  | _, _ => none

/-- The croft cycles in which an instruction of a free-mode job took its outputs, counted by its slot (R35, R110). -/
def Dev.freeCycles (d : Dev) (x : Croft) (job : Job) (r : Running) : Dev :=
  let n := match InstrWord.operation r.ins.word with
    | some .red => if (drainDesc r.desc).consumes then InstrWord.rows r.ins.word else 0
    | some op => if InstrWord.cls r.ins.word = 4 then sampOutputs op (sampDesc r.desc) (InstrWord.rows r.ins.word) else 0
    | none => 0
  match x.slot with
  | some s => if job.params.laneFree then d.onSlot s fun t => { t with cycles := t.cycles + BitVec.ofNat 64 n } else d
  | none => d

/-- The effect of the instruction on a unit at its completion; none while it cannot complete yet. -/
def Dev.finishUnit (d : Dev) (c : CroftRef) (x : Croft) (job : Job) (r : Running) : Option Dev :=
  match InstrWord.operation r.ins.word with
  | some .mm => some (d.setCroft (x.finishMill r))
  | some .red => if x.handRoom r then some ((d.setCroft (x.finishRed job.params.laneFree r)).freeCycles x job r) else none
  | some .emit => some (d.setCroft (x.finishEmit r))
  | some .load | some .sweep | some .snap | some .read => (x.finishField job.params.staleness r).map d.setCroft
  | some .dma => if r.landed then some d else if (moveDesc r.desc).dst.isOwn then some (d.moveData (d.unitMap x false) c false (moveDesc r.desc)) else none
  | some .zero => if r.landed then some d else if (moveDesc r.desc).dst.isOwn then some (d.moveData (d.unitMap x false) c true (moveDesc r.desc)) else none
  | some .put => if r.landed then some d else none
  | some .mcast => if r.landed then some (d.mcastResult c r.desc) else none
  | some op => (x.finishSamp job.params.laneFree r op).map fun y => (d.setCroft y).freeCycles x job r
  | none => none

/-- INSTRUCTION_COMPLETION (R196, R207): the effect, the unit free, the signal, and what was held at issue tried again. -/
def Dev.instructionCompletion (c : CroftRef) (u : UnitId) (d : Dev) : Dev :=
  match d.croft c, d.job c.job with
  | some x, some job =>
    match x.running u with
    | none => d
    | some r =>
      match d.finishUnit c x job r with
      | none => d
      | some e =>
        match e.croft c with
        | none => e
        | some y =>
          let y := y.setRunning u none
          match y.signal r.ins.word r.ins.index with
          | .ok z => (e.setCroft z).settle c
          | .fault code index => (e.setCroft y).croftFault c code index
  | _, _ => d

end Sys2Proof.Machine
end

