-- ==== Sys2Proof/Machine/Binding.lean ====
section
/-!
DEFINITION. Slots and bindings (01_croft_anatomy.md R34 to R41; 08_mesh_and_memory.md R229, R242, R474;
13_checking_replay_test.md R380 to R383): coordinates, the choice of a slot, installing bindings as one map change, and
taking a croft off its slot at its step boundary.
-/

namespace Sys2Proof.Machine

/-- Manhattan distance of two slots (R380). -/
def slotDist (a b : Nat) : Nat :=
  let p := slotXY a
  let q := slotXY b
  (max p.1 q.1 - min p.1 q.1) + (max p.2 q.2 - min p.2 q.2)

/-- Whether a slot lies in a fault region. -/
def Dev.inRegion (d : Dev) (s : Nat) : Bool := d.mesh.covers (slotXY s).1 (slotXY s).2

/-- The slots of a compute die in placement order (R242). -/
def dieSlots (die : Nat) : List Nat :=
  let a := 2 * (die % 5)
  let b := 2 * (die / 5)
  let s := fun (dx dy : Nat) => (b + dy) * 10 + a + dx
  let row := die / 5
  let eastward := row % 2 == 0
  if (eastward && die % 5 == 4) || (!eastward && die % 5 == 4) then [s 0 0, s 1 0, s 1 1, s 0 1]
  else if eastward then [s 0 0, s 0 1, s 1 1, s 1 0]
  else [s 1 1, s 1 0, s 0 0, s 0 1]

/-- The placement order over the device (R242). -/
def placement : List Nat :=
  ([0, 1, 2, 3, 4, 9, 8, 7, 6, 5, 10, 11, 12, 13, 14, 19, 18, 17, 16, 15] : List Nat).flatMap dieSlots

/-- The active croft count of a grade (R3). -/
def activeCount (grade : BitVec 2) : Nat := if grade = 2 then 64 else 76

/-- SPARE_MAP after power-up (R474): disabled by fuse, stored states kept, then ACTIVE in placement order up to the
grade's count, the rest SPARE. -/
def powerUpMap (grade : BitVec 2) (disable : BitVec 80) (old : List SpareState) : List SpareState :=
  let base := (List.range 80).map fun s =>
    if disable.getLsbD s then SpareState.disabled
    else match old.getD s .spare with
      | .fenced => .fenced
      | .retired => .retired
      | _ => .spare
  let act := (placement.filter fun s => base.getD s .disabled == .spare).take (activeCount grade)
  (base.zipIdx).map fun p => if act.contains p.2 then .active else p.1

/-- Whether a slot's state is the given one. -/
def Dev.slotIs (d : Dev) (s : Nat) (st : SpareState) : Bool := (d.slots[s]?.map fun t => t.spare == st).getD false

/-- The SPARE slot nearest to a slot, ties to the lower number, fault regions excluded (R380). -/
def Dev.nearestSpare (d : Dev) (s : Nat) : Option Nat :=
  ((List.range 80).filter fun t => d.slotIs t .spare && !d.inRegion t).foldl
    (fun (b : Option Nat) t => match b with
      | none => some t
      | some u => if slotDist s t < slotDist s u then some t else some u) none

/-- The slots of a job's crofts as CROFT_MAP and the MAP section show them (R37, R367): 0xFF for one that is switched out. A
croft of an open job that no launch has bound yet shows 0xFF too, for which R37 gives no value (DESIGN CHOICE, log 91). -/
def Dev.mapSlots (d : Dev) (j : Fin 64) (n : Nat) : List Byte :=
  (List.range n).map fun k => match (d.croft ⟨j, Fin.ofNat 256 k⟩).bind (·.slot) with
    | some s => BitVec.ofNat 8 s.val
    | none => 0xFF

/-- The bindings in force (R37). -/
def Dev.bindings (d : Dev) : List (CroftRef × Fin 80) :=
  d.crofts.filterMap fun x => x.slot.map fun s => (⟨x.job, x.n⟩, s)

/-- The present map installed, with its generation, in the copies of every move unit and mesh unit and of the queue engine
(R38, R39 step 3). -/
def Dev.installMap (d : Dev) : Dev :=
  let m : MapCopy := ⟨d.mapGen, d.bindings⟩
  { d with slots := d.slots.map fun t => { t with moveMap := m, meshMap := m }, hub := { d.hub with map := m } }

/-- One change of the map (R37, R38, R395): MAP_GENERATION, the sources' copies, the event, and the ledgers of the jobs it
binds (R365, R367). -/
def Dev.mapChange (d : Dev) (js : List (Fin 64)) : Dev :=
  let d := { d with mapGen := d.mapGen + 1 }.installMap
  let d := d.event 0xE00D 0 0 0 (BitVec.ofNat 64 d.mapGen)
  js.eraseDups.foldl (fun d j => d.onJob j fun q =>
    { q with
      bound := true
      ledger := { q.ledger with
        mapChanges := if q.bound then satAdd 64 q.ledger.mapChanges 1 else q.ledger.mapChanges
        maps := q.ledger.maps ++ [⟨d.mapGen, d.now, d.mapSlots j q.params.crofts⟩] } }) d

/-- The Well without a seeding request of a croft: the binding it was made for has ended (R110, R412). -/
def Dev.dropSeeding (d : Dev) (c : CroftRef) : Dev :=
  let mine := fun (r : WellReq) => match r with
    | .lanes k _ => k == c
    | _ => false
  { d with well := { d.well with requests := d.well.requests.filter fun r => !mine r } }

/-- The lane sets of a croft bound anew (R108, R110, R381, R412): in seeded mode they are positioned again from their
recorded positions; in free mode the Well is asked for fresh states, and a request it cannot take halts the job. -/
def Dev.rebindLanes (d : Dev) (c : CroftRef) : Dev :=
  match d.croft c, d.job c.job with
  | some x, some job =>
    let d := (d.dropSeeding c).onCroft c fun y => { y with lanes := y.lanes.map fun l => { l with ready := false } }
    if !job.params.laneFree then d
    else
      let refuse := fun (code : Nat) =>
        { d with well := { d.well with refused := satAdd 64 d.well.refused 1 } }.croftFault c code x.seq.pc
      match d.well.phase with
      | .disabled => refuse 0x0805
      | .failed => refuse 0x0806
      | _ => { d with well := { d.well with requests := d.well.requests ++ [.lanes c []] } }
  | _, _ => d

/-- Whether a sequencer has a program to run. -/
def SeqState.live : SeqState → Bool
  | .stopped => false
  | .halted => false
  | _ => true

/-- A slot taking a logical croft: ACTIVE, its island powered, in Run when the croft has a program to run (R34, R383). -/
def Slot.take (live : Bool) (t : Slot) : Slot :=
  { t with spare := .active, island := if live then .run else .idle, view := [], viewPoison := [] }

/-- A slot without power (R34): its Granary is lost, and its generators are to be checked again when it next enters Idle
(04_lane_generators.md R123). -/
def Slot.off (t : Slot) : Slot := { t with island := .off, view := [], viewPoison := [], checked := false }

/-- A slot that its croft leaves: an ACTIVE one keeps the bytes of its Granary while it is powered, which GRANARY_VIEW shows (R43);
one that is ACTIVE no longer goes to Off (R34). -/
def Slot.vacate (x : Croft) (t : Slot) : Slot :=
  if t.spare != .active then t.off
  else if t.island == .off then t else { t with view := x.granary, viewPoison := x.poison }

/-- The croft put back to its step boundary: the step record and the journaled state, flag counts among it, without the
step's own semaphore changes (R111, R214, R215, R374). Where others added meanwhile and the step's own
subtractions carry a count past 65,535 it wraps, which the manual does not settle (DESIGN CHOICE, log 103). The Field keeps its queue, its instruction, its run context and its
lane set, and does not take again what the step issued to it (R377). -/
def Croft.replay (free : Bool) (x : Croft) : Croft :=
  let r := x.record
  let sems := (x.seq.sems.zipIdx).map fun p =>
    BitVec.ofNat 16 ((p.1.toNat : Int) - x.seq.semOwn.getD p.2 0).toNat
  let keepField := fun (now then_ : List LaneSet) => match now[4]? with
    | some l => then_.set 4 l
    | none => then_
  let ctxs := if x.field.loaded then match x.ctxs[x.field.ctx]? with
      | some c => r.ctxs.set x.field.ctx c
      | none => r.ctxs
    else r.ctxs
  let queues := (x.units.queues.zipIdx).map fun p => if p.2 = 6 then p.1 else []
  let barrier := match x.seq.state with
    | .barrier _ _ _ _ => true
    | _ => false
  { x with
    seq := { x.seq with
      held := false, claimed := false, pc := if barrier then x.seq.pc else r.pc, areg := r.areg, cnt := r.cnt, sems := sems
      semOwn := x.seq.semOwn.map fun _ => 0
      inStep := 0, fieldSkip := x.seq.fieldDone + x.seq.fieldSkip, fieldDone := 0, signals := [], replaying := true }
    units := { queues := queues, mill := x.units.mill.map fun _ => none, drain := x.units.drain.map fun _ => none
               row := x.units.row.map fun _ => none, field := x.units.field, move := none, mesh := none }
    lanes := if free then x.lanes else keepField x.lanes r.lanes
    ctxs := ctxs, banks := r.banks, hand := r.hand, tally := r.tally
    weights := x.weights.map fun _ => MillRegs.zero }

/-- The Field put back to its last sweep boundary (R182, R381): a sweep in progress begins again, with its lane set at
the count it had then. -/
def Croft.unwindSweep (x : Croft) : Croft :=
  if x.field.phase = 0 then x
  else
    { x with
      ctxs := modifyAt x.ctxs x.field.ctx fun c => { c with cls := 0 }
      lanes := modifyAt x.lanes 4 fun l => { l with count := l.count - 4 * x.field.phase, ready := false }
      field := { x.field with states := x.field.prior, eInt := x.field.priorE, phase := 0 } }

/-- Whether a croft stands at a step boundary, a sweep boundary of its Field counting as one, and so does a Field that waits
for a neighbour which is switched out, in whatever FIELD instruction it waits (R39, R182, R218). A step that is being replayed
must end first (R377). -/
def Dev.atBoundary (d : Dev) (x : Croft) : Bool :=
  !x.seq.replaying && (x.atRest || ((x.stepRests || (x.quiet && x.outRuns)) && (d.job x.job).any (d.awaitsAway x)))

/-- Whether another croft's running transfer is addressed to a croft (R39). -/
def Dev.targeted (d : Dev) (c : CroftRef) (ldev : Nat) : Bool :=
  d.crofts.any fun y => y.job == c.job && y.n != c.n && (match y.units.move with
    | some r => (moveDesc r.desc).src.target ⟨y.job, y.n⟩ == some c || (moveDesc r.desc).dst.target ⟨y.job, y.n⟩ == some c
    | none => false)
    || (y.job == c.job && y.n != c.n && match y.units.mesh with
    | some r =>
      let m := meshDesc r.desc
      if InstrWord.operation r.ins.word == some .mcast then bitOf m.mask c.n.val else m.dev == ldev && m.croft == c.n.val
    | none => false)

/-- Whether Bailiff may take a croft off its slot now (R39). -/
def Dev.movable (d : Dev) (x : Croft) (ldev : Nat) : Bool := d.atBoundary x && !d.targeted ⟨x.job, x.n⟩ ldev

/-- Whether a slot may take a logical croft: the generator checks of R123 have run, the slot's own among them. -/
def Dev.bindReady (d : Dev) (s : Nat) : Bool := d.boot.genKat != 0 && (d.slots[s]?).any (·.checked)

/-- A croft on a new slot: failures of its step and errors of its Field count for that slot alone (13_checking_replay_test.md
R375, R384). -/
def Croft.settleOn (s : Fin 80) (x : Croft) : Croft :=
  { x with
    slot := some s, home := none, vacated := none, failures := 0
    seq := { x.seq with opening := false }
    field := { x.field with errors := 0 } }

/-- A croft off every slot: it shares `home` in turn, or waits for a slot in place of the one it vacated (R41, R380). -/
def Croft.switchOut (home vacated : Option (Fin 80)) (x : Croft) : Croft :=
  { x with slot := none, home := home, vacated := vacated }

/-- A croft taken off its slot; the seeding request of the binding that ends is dropped (R110). -/
def Dev.unbind (d : Dev) (c : CroftRef) (home vacated : Option (Fin 80)) : Dev :=
  match d.croft c with
  | none => d
  | some x =>
    let d := match x.slot with
      | some s => d.onSlot s (Slot.vacate x)
      | none => d
    (d.dropSeeding c).onCroft c (Croft.switchOut home vacated)

/-- A croft bound to a slot (R39, R41). The boundary of a launch that found no slot is counted there now (R212). -/
def Dev.bind (d : Dev) (c : CroftRef) (s : Fin 80) : Dev :=
  match d.croft c with
  | none => d
  | some x =>
    let d := (d.unbind c none none).onCroft c (Croft.settleOn s)
    let d := d.onSlot s fun t =>
      let u := Slot.take x.seq.state.live t
      if x.seq.opening then { u with stepsDone := satInc u.stepsDone } else u
    d.rebindLanes c

/-- How many of a job's logical crofts a slot carries, those that share it in turn included (R380). -/
def Dev.carries (d : Dev) (j : Fin 64) (s : Fin 80) : Nat :=
  (d.crofts.filter fun x => x.job == j && (x.slot == some s || (x.slot.isNone && x.home == some s))).length

/-- The ACTIVE slot of a job that carries the fewest of its logical crofts, the vacated one apart, ties to the lower number
(R380). -/
def Dev.sharedSlot (d : Dev) (j : Fin 64) (old : Option (Fin 80)) : Option (Fin 80) :=
  ((List.finRange 80).filter fun s => some s != old && d.slotIs s.val .active && 0 < d.carries j s).foldl
    (fun (b : Option (Fin 80)) s => match b with
      | none => some s
      | some t => if d.carries j s < d.carries j t then some s else some t) none

/-- Whether the replacement binding of a croft that leaves a slot can be made now: the slot it would take is checked
(R123). -/
def Dev.replaceable (d : Dev) (old : Fin 80) : Bool :=
  match d.nearestSpare old.val with
  | some t => d.bindReady t
  | none => true

/-- Whether the state of a croft cannot be moved: a word of its step record is uncorrectable (R382). -/
def Croft.recordLost (x : Croft) : Bool :=
  x.lost.any fun w => match w with
    | .journal _ => true
    | _ => false

/-- A logical croft moved off a slot (R380, R381): to the nearest SPARE slot; with none, to share an ACTIVE slot of its job in
turn; with no other slot, out until one comes free. -/
def Dev.moveOff (d : Dev) (c : CroftRef) (old : Fin 80) : Dev :=
  match d.nearestSpare old.val with
  | some t => (d.bind c (Fin.ofNat 80 t)).mapChange [c.job]
  | none => match d.sharedSlot c.job (some old) with
    | some h => (d.unbind c (some h) none).mapChange [c.job]
    | none => (d.unbind c none (some old)).mapChange [c.job]

end Sys2Proof.Machine
end

