-- ==== Sys2Proof/Machine/Recovery.lean ====
section
/-!
DEFINITION. Check errors and step replay (13_checking_replay_test.md R372 to R379), Field rollback (06_lattice_field.md
R188, R384), lane positioning (04_lane_generators.md R115), and moving a logical croft (R380 to R382).
-/

namespace Sys2Proof.Machine

/-- The window of R376 in ns. -/
def hourNs : Nat := 3600000000000

/-- The slot's step replays of the last 60 minutes with one more (R376). -/
def Slot.noteReplay (now rate : Nat) (t : Slot) : Slot :=
  let at_ := (t.replayAt.filter fun a => now < a + hourNs) ++ [now]
  { t with
    replayAt := at_
    fencing := t.fencing || decide (rate < at_.length)
    errors := { t.errors with replays := satAdd 64 t.errors.replays 1 } }

/-- A slot fenced while ACTIVE, with its event (R383, R395). One that carries no croft goes to Off (R34); one that does goes
there when its croft has left (R381). -/
def Dev.fence (d : Dev) (s : Fin 80) : Dev :=
  if d.slotIs s.val .active then
    let bare := (d.carried s).isNone
    (d.onSlot s fun t => { (if bare then t.off else t) with spare := .fenced }).eventOpen 0xE002 1 s.val
  else d

/-- A list of poisoned words with one more. -/
def addPoison (p : List Nat) (w : Nat) : List Nat := if p.contains w then p else p ++ [w]

/-- The unit 0..35 that holds a device address (R254, R256). -/
def memUnit (a : Nat) : Nat := if a < lpBase then a / 2 ^ 36 else 12 + (a - lpBase) / 2 ^ 36

/-- The event source of a memory unit (R393). -/
def unitSource (u : Nat) : Nat × Nat := if u < 12 then (2, u) else (3, u - 12)

/-- A memory unit's error counters mapped. -/
def Dev.onErrors (d : Dev) (u : Nat) (f : MemErrors → MemErrors) : Dev :=
  { d with units := { d.units with errors := modifyAt d.units.errors u f } }

/-- A POISONED event with its location (R379, R394). -/
def Dev.logPoison (d : Dev) (kind source : Nat) (detail : Nat) : Dev :=
  d.event 0xE007 (Config.eventSeverity 0xE007).val kind source (BitVec.ofNat 64 detail)

/-- A device memory word poisoned (R378, R379). -/
def Dev.poisonDevice (d : Dev) (a : Nat) : Dev :=
  let w := a / 8 * 8
  let u := memUnit w
  let d := { d with memPoison := addPoison d.memPoison w }
  let d := d.onErrors u fun e => { e with poisoned := satAdd 64 e.poisoned 1 }
  d.logPoison (unitSource u).1 (unitSource u).2 w

/-- DETAIL64 of a poisoned word of a slot (R394). -/
def WordLoc.detail (s : Nat) : WordLoc → Nat
  | .device a => a / 8 * 8
  | .granary o => 2 ^ 42 + s * 2 ^ 28 + o / 8 * 8
  | .bank m o => 1 * 2 ^ 60 + s * 2 ^ 52 + m.val * 2 ^ 48 + o / 8 * 8 % 2 ^ 32
  | .context o => 2 * 2 ^ 60 + s * 2 ^ 52 + o / 8 * 8 % 2 ^ 32
  | .journal o => 3 * 2 ^ 60 + s * 2 ^ 52 + o / 8 * 8 % 2 ^ 32

/-- The word of a store with its offset aligned to 8. -/
def WordLoc.aligned : WordLoc → WordLoc
  | .device a => .device (a / 8 * 8)
  | .granary o => .granary (o / 8 * 8)
  | .bank m o => .bank m (o / 8 * 8)
  | .context o => .context (o / 8 * 8)
  | .journal o => .journal (o / 8 * 8)

/-- A word that still fails on the replayed read is written back with poison (R378). -/
def Dev.poisonWord (d : Dev) (c : CroftRef) (s : Fin 80) (w : WordLoc) : Dev :=
  match w with
  | .device a => d.poisonDevice a
  | _ =>
    let d := d.onCroft c fun x => match WordLoc.aligned w with
      | .granary o => { x with poison := addPoison x.poison o }
      | v => { x with lost := if x.lost.contains v then x.lost else x.lost ++ [v] }
    let d := d.onSlot s fun t => { t with errors := { t.errors with poisoned := satAdd 64 t.errors.poisoned 1 } }
    d.logPoison 1 s.val (WordLoc.detail s.val w)

/-- The counters and the poison of a reported check error (R372, R378, R397). -/
def Dev.noteCheck (d : Dev) (c : CroftRef) (s : Fin 80) (k : CheckKind) : Dev :=
  match k with
  | .residue => d.onSlot s fun t => { t with errors := { t.errors with residue := satAdd 64 t.errors.residue 1 } }
  | .duplicate => d.onSlot s fun t => { t with errors := { t.errors with duplicate := satAdd 64 t.errors.duplicate 1 } }
  | .parity => d
  | .uncorrectable w again => if again then d.poisonWord c s w else d

/-- CHECK_ERROR_REPLAY (R374 to R377): the step is put back to its boundary; the third failure on one slot fences the
slot, and the third on a second slot halts the job. A further error on the slot that is fenced already only puts the step back
again. A halted job, or a croft without a step, only counts the error. -/
def Dev.checkErrorReplay (c : CroftRef) (k : CheckKind) (d : Dev) : Dev :=
  match d.croft c, d.job c.job with
  | some x, some job =>
    match x.slot with
    | none => d
    | some s =>
      let d := d.noteCheck c s k
      if job.fault.isSome || !x.seq.state.live then d
      else
        let free := job.params.laneFree
        let d := d.onCroft c fun y =>
          let y := y.replay free
          { y with failures := y.failures + 1, replays := satAdd 64 y.replays 1, report := y.report ||| 0x80 }
        let d := d.onSlot s (Slot.noteReplay d.elapsedNs d.settings.replayRate)
        let d := d.corrected 0xE001 1 s.val 1
        if x.recordLost then d.croftFault c 0x0A01 x.record.pc
        else if x.failures + 1 < 3 || x.fencedBy.contains s then d
        else if x.fencedBy.isEmpty then (d.onCroft c fun y => { y with fencedBy := [s] }).fence s
        else
          let d := (s :: x.fencedBy).foldl (fun d t => d.eventOpen 0xE009 1 t.val) d
          d.croftFault c 0x0A03 x.record.pc
  | _, _ => d

/-! ## Field rollback (R188, R384) -/

/-- The point a Field rolls back to: the committed snapshot, read from its slot; before the first commit, the snapshot
latched at W0 (log 20). -/
def Croft.rollbackPoint (x : Croft) (s : Nat) : Option (SnapRegs × Array Bool × List HaloHeld) :=
  match x.field.committed with
  | some r =>
    let z := snapBytes x.field.image s
    let bytes := x.read (x.field.snapAddr + r.slot * z) z
    some (r, statesOf (bytes.take 4096).toArray, historyOf x.field.image (bytes.drop 4096) s r.sweep)
  | none => match x.field.pending with
    | p :: _ => some (⟨1, p.sweep, p.laneCount, p.eInt, p.best, p.bestE, p.bestSweep⟩, p.states, [])
    | [] => none

/-- The schedule after a reload of the storage: as SCHED_ADDR holds it, once a schedule has been loaded (R173, R188 step 1). -/
def Croft.reloadedSched (x : Croft) (storage : Bool) : List Word64 :=
  match x.field.schedAddr with
  | some a => if storage then schedOf (x.read a 2048) else x.field.sched
  | none => x.field.sched

/-- The rollback of R188. `storage` reloads couplings, biases, edges and schedule. -/
def Croft.rollback (x : Croft) (s : Nat) (free storage : Bool) : Croft :=
  match x.rollbackPoint s with
  | none => x
  | some p =>
    let r := p.1
    let f := x.field
    let img := if storage then (x.read f.modelAddr fieldImageSize).toArray else f.image
    let sched := x.reloadedSched storage
    let fresh := p.2.2.filter fun h => !f.store.any fun g => g.edge == h.edge && g.cls == h.cls && g.sweep == h.sweep
    let keep := match f.committed, f.pending with
      | none, q :: _ => [q]
      | _, _ => []
    { x with
      ctxs := modifyAt x.ctxs f.ctx fun c => { c with sweeps := BitVec.ofNat 64 r.sweep, cls := 0 }
      lanes := if free then x.lanes else modifyAt x.lanes 4 fun l => { l with count := r.laneCount, ready := false }
      report := x.report ||| 0x80
      runs := modifyAt x.runs (x.runs.length - 1) fun q =>
        { q with sweeps := BitVec.ofNat 64 r.sweep, rollbacks := satAdd 64 q.rollbacks 1 }
      field := { f with
        image := img, sched := sched, states := p.2.1, store := f.store ++ fresh, eInt := r.eInt, bestE := r.bestE
        bestSweep := r.bestSweep, best := r.best, phase := 0, pending := keep, rollbacks := f.rollbacks + 1 } }

/-- FIELD_ERROR_ROLLBACK (R188, R384): the Field rolls back whether or not a FIELD.SWEEP runs; without one there is nothing to
resume (log 92). The third error on a slot with no snapshot committed after the first fences the slot, and the third on the
next slot halts the job; an error on a slot that is fenced already rolls back again. An error that rolls nothing back is
counted in SLOT_ERRORS alone. -/
def Dev.fieldErrorRollback (c : CroftRef) (storage : Bool) (d : Dev) : Dev :=
  match d.croft c, d.job c.job with
  | some x, some job =>
    match x.slot with
    | none => d
    | some s =>
      let d := d.onSlot s fun t => { t with errors := { t.errors with field := satAdd 64 t.errors.field 1 } }
      let n := x.field.errors + 1
      let fencedHere := x.field.fencedOn == some s
      if !x.field.loaded || job.fault.isSome then d
      else if 3 ≤ n && x.field.fencedOn.isSome && !fencedHere then d.croftFault c 0x0A03 x.seq.pc
      else
        let fences := decide (3 ≤ n) && !fencedHere
        let y := match x.rollbackPoint job.params.staleness with
          | some _ => x.rollback job.params.staleness job.params.laneFree (storage || fences)
          | none => if storage then
              { x with field := { x.field with
                  image := (x.read x.field.modelAddr fieldImageSize).toArray, sched := x.reloadedSched true } }
            else x
        let d := d.setCroft { y with field := { y.field with
          errors := if fences then 0 else n, fencedOn := if fences then some s else x.field.fencedOn } }
        let d := match x.rollbackPoint job.params.staleness with
          | some _ => d.onSlot s fun t => { t with rollbacks := satAdd 64 t.rollbacks 1 }
          | none => d
        if fences then d.fence s else d
  | _, _ => d

/-- SNAPSHOT_COMMIT (R184, R187): the audit recomputes E_INT from the latched states of the oldest snapshot; one that does not
agree is a Field error, and the snapshot never commits. -/
def Dev.snapshotCommit (c : CroftRef) (d : Dev) : Dev :=
  match (d.croft c).bind fun x => x.field.pending.head?.map fun p => decide (energyInt x.field.image p.states = p.eInt) with
  | some true => d.commitSnapshot c
  | some false => d.fieldErrorRollback c false
  | none => d

/-- LANE_POSITIONING_DONE (R115, R116): the set stands at its seed, family, first lane and count. Free mode positions
no set (R110). -/
def Dev.lanePositioningDone (c : CroftRef) (set : Fin 5) (d : Dev) : Dev :=
  match d.croft c, d.job c.job with
  | some x, some job =>
    match x.lanes[set.val]? with
    | none => d
    | some l =>
      if l.ready || job.params.laneFree then d
      else
        let gens := positionGens l.seed l.family l.first.toNat l.count (setSize set.val)
        d.setCroft { x with lanes := x.lanes.set set.val { l with gens := gens, ready := true } }
  | _, _ => d

/-- Whether a croft on a slot that is no longer ACTIVE has come to where it can be moved: at a boundary, or put back to one by
a replay (R374, R381). -/
def Dev.leavable (d : Dev) (x : Croft) (ldev : Nat) : Bool :=
  (d.atBoundary x || x.atRest) && !d.targeted ⟨x.job, x.n⟩ ldev

/-- A move of a croft off a slot that is to be left (R380 to R382): when the slot's state cannot be read the job halts with
CROFT_LOST and the slot is FENCED; otherwise the croft is bound anew and the old island goes to Off. -/
def Dev.relocate (d : Dev) (c : CroftRef) (old : Fin 80) (readable : Bool) : Dev :=
  match d.croft c with
  | none => d
  | some x =>
    if !readable || x.recordLost then (d.croftFault c 0x0A02 x.seq.pc).fence old
    else (d.moveOff c old).onSlot old Slot.off

/-- The slot in whose place a croft off every slot waits for another: the one it left, or the one it was bound to share once that
is no longer ACTIVE (R380). -/
def Dev.waitsInPlaceOf (d : Dev) (x : Croft) : Option (Fin 80) :=
  x.vacated.or (x.home.filter fun s => !d.slotIs s.val .active)

/-- The replacement binding of a croft off every slot (R380): the nearest SPARE slot once it is checked; with none, the slot of
its job that it is to share; with no such slot it goes on waiting. No transfer to it may be under way (R39). -/
def Dev.replace (d : Dev) (c : CroftRef) (x : Croft) (job : Job) (old : Fin 80) : Dev :=
  if x.paused || d.targeted c job.params.ldev then d
  else match d.nearestSpare old.val with
    | some _ => if d.replaceable old then d.moveOff c old else d
    | none =>
      let home := d.sharedSlot c.job (some old)
      d.onCroft c (Croft.switchOut home (if home.isNone then some old else none))

/-- CROFT_MOVE (R380 to R382): a croft leaves a slot that is no longer ACTIVE, at its boundary or with the step that the
fencing broke off to begin again on the new slot; a croft without a slot takes a replacement binding. -/
def Dev.croftMove (c : CroftRef) (readable : Bool) (d : Dev) : Dev :=
  match d.croft c, d.job c.job with
  | some x, some job =>
    match x.slot with
    | none => match d.waitsInPlaceOf x with
      | some old => d.replace c x job old
      | none => d
    | some s =>
      if !readable || x.recordLost then d.relocate c s false
      else if d.slotIs s.val .active || !d.leavable x job.params.ldev || !d.replaceable s then d
      else (d.onCroft c Croft.unwindSweep).relocate c s true
  | _, _ => d

/-- Whether a croft that is switched out may take a slot in turn with the one it carries (R36, R41, R380): both of one job,
which has more crofts than the grade's active count, or whose croft was bound to share this slot. -/
def Dev.shares (d : Dev) (s : Fin 80) (x y : Croft) (job : Job) : Bool :=
  x.job == y.job && (activeCount d.fuses.grade < job.params.crofts || y.home == some s)

/-- CROFT_SWITCH (R41): at its step boundary the slot's croft is saved, and another croft of its job that is switched out
takes the slot, no transfer to it being under way (R39); a slot that carries none takes one. A slot whose generators are to be checked first is only vacated
(R123). -/
def Dev.croftSwitch (slot : Fin 80) (into : CroftRef) (d : Dev) : Dev :=
  match d.croft into, d.job into.job with
  | some y, some job =>
    if y.slot.isSome || y.paused || !d.slotIs slot.val .active || d.targeted into job.params.ldev then d
    else
      match d.carried slot with
      | none => if d.bindReady slot.val then (d.bind into slot).mapChange [into.job] else d
      | some x =>
        if !d.movable x job.params.ldev || !d.shares slot x y job then d
        else
          let d := d.unbind ⟨x.job, x.n⟩ (some slot) none
          if d.bindReady slot.val then (d.bind into slot).mapChange [into.job] else d.mapChange [into.job]
  | _, _ => d

/-- Whether a set of bindings may be installed together (R39): every croft launched and at its boundary, every slot
ACTIVE, checked, and vacated or free. -/
def Dev.bindable (d : Dev) (j : Fin 64) (ldev : Nat) (binds : List (Fin 256 × Fin 80)) : Bool :=
  binds.all fun b =>
    (match d.croft ⟨j, b.1⟩ with
      | some x => d.movable x ldev && !x.paused
      | none => false)
    && d.slotIs b.2.val .active && d.bindReady b.2.val
    && (match d.carried b.2 with
      | none => true
      | some x => x.job == j && binds.any fun q => q.1 == x.n)

/-- MAP_CHANGED (R37, R39): the bindings Bailiff installs together, as one change of the map. -/
def Dev.mapChanged (j : Fin 64) (binds : List (Fin 256 × Fin 80)) (d : Dev) : Dev :=
  match d.job j with
  | none => d
  | some job =>
    if binds.isEmpty || !d.bindable j job.params.ldev binds then d
    else
      let d := binds.foldl (fun d b => d.unbind ⟨j, b.1⟩ none none) d
      (binds.foldl (fun d b => d.bind ⟨j, b.1⟩ b.2) d).mapChange [j]

end Sys2Proof.Machine
end

