-- ==== Sys2Proof/Machine/Slots.lean ====
section
/-!
DEFINITION. Happenings at slots, memories and routers (01_croft_anatomy.md R19, R34; 04_lane_generators.md R123;
08_mesh_and_memory.md R249, R254; 13_checking_replay_test.md R385 to R387), waits that pass their limit
(07_croft_instruction_set.md R212) and remote signals (R210).
-/

namespace Sys2Proof.Machine

/-- Whether every unit of a croft has stopped. -/
def Croft.unitsIdle (x : Croft) : Bool := x.inFlight.isEmpty

/-- Whether Bailiff parks the island of a slot (R34): nothing runs on it, or a warm boundary waits for it (R432). -/
def Dev.parks (d : Dev) (s : Fin 80) : Bool :=
  match d.carried s with
  | none => true
  | some x =>
    (!x.seq.state.live && x.unitsIdle)
      || (d.activationHolds && d.atBoundary x)

/-- ISLAND_PARK (R34). -/
def Dev.islandPark (s : Fin 80) (d : Dev) : Dev :=
  match d.slot s with
  | some t => if t.island == .run && d.parks s then d.onSlot s fun u => { u with island := .idle } else d
  | none => d

/-- ISLAND_RESUME (R34): a parked island that carries a croft with a program to run returns to Run. -/
def Dev.islandResume (s : Fin 80) (d : Dev) : Dev :=
  match d.slot s, d.carried s with
  | some t, some x =>
    if t.island == .idle && x.seq.state.live && !d.activationHolds then (d.onSlot s fun u => { u with island := .run }).settle ⟨x.job, x.n⟩ else d
  | _, _ => d

/-- The polynomial checks of R123 steps 1 and 2 for a family: degree 128, and x^(2^128) = x. -/
def polyGood (fam : Bool) : Bool :=
  let p := charPoly fam
  Nat.log2 p == 128 && jumpPoly p 128 == 2

/-- Whether step 4 of R123 may check a slot: steps 1 to 3 are done, the slot carries no logical croft, and it is ACTIVE in
Idle, or SPARE, in which case its island enters Idle for the check. -/
def Dev.checkable (d : Dev) (s : Fin 80) (t : Slot) : Bool :=
  (d.carried s).isNone && d.boot.genKat != 0
    && ((t.spare == .active && t.island == .idle) || (t.spare == .spare && d.power.main))

/-- A logical croft that a test paused takes its slot back once the slot is checked (R123, R389); on one whose generators failed it
is bound under R380. A transfer to the croft under way is awaited (R39). -/
def Dev.resumeChecked (d : Dev) (s : Fin 80) : Dev :=
  match d.crofts.find? fun x => x.paused && x.vacated == some s with
  | none => d
  | some x =>
    let c : CroftRef := ⟨x.job, x.n⟩
    let busy := (d.job c.job).any fun job => d.targeted c job.params.ldev
    if d.slotIs s.val .active then
      if busy then d else ((d.onCroft c fun y => { y with paused := false }).bind c s).mapChange [c.job]
    else
      let d := d.onCroft c fun y => { y with paused := false }
      if d.replaceable s && !busy then d.moveOff c s else d

/-- GENERATOR_CHECK (R123, R124): steps 1 to 3, or step 4 on one slot; a slot whose generators fail is FENCED and its island
goes to Off (R34, R383). R123 fences a SPARE slot that fails on its way to a binding too, which R383 lists for ACTIVE alone
(log 91). The manual does not say when a run is completed and PASS shown while slots are still to be checked: here the run is
counted and GEN_KAT becomes PASS with the end of steps 1 to 3, and a lane that fails later turns it to LANE_FAIL (DESIGN
CHOICE, log 91). The checks end an activation of Bailiff (15_boot_firmware_security.md R432). -/
def Dev.generatorCheck (slot : Option (Fin 80)) (lanesGood : Bool) (d : Dev) : Dev :=
  match slot with
  | none =>
    let good := polyGood false && polyGood true
    let d : Dev := { d with boot := { d.boot with genKat := if good then 1 else 2, genRuns := satAdd 64 d.boot.genRuns 1 } }
    if d.boot.act == .activating && d.boot.actClass = 2 && 1 ≤ d.boot.switched then d.endActivation 0 else d
  | some s =>
    match d.slot s with
    | some t =>
      if !d.checkable s t then d
      else if lanesGood then (d.onSlot s fun u => { u with checked := true, island := .idle }).resumeChecked s
      else
        let d : Dev := { d with boot := { d.boot with genKat := 3 } }
        ((d.onSlot s fun u => { u.off with spare := .fenced }).eventOpen 0xE002 1 s.val).resumeChecked s
    | none => d

/-- An uncorrectable word of a slot's Granary found by a scrub: it is poisoned and logged, and raises no fault (R379). -/
def Dev.poisonGranary (d : Dev) (s : Fin 80) (o : Nat) : Dev :=
  match d.carried s with
  | some x => d.poisonWord ⟨x.job, x.n⟩ s (.granary o)
  | none =>
    let d := d.onSlot s fun t =>
      { t with viewPoison := addPoison t.viewPoison (o / 8 * 8), errors := { t.errors with poisoned := satAdd 64 t.errors.poisoned 1 } }
    d.logPoison 1 s.val (WordLoc.detail s.val (.granary o))

/-- The corrected words of a slot counted (R395, R397). -/
def Dev.countCorrected (d : Dev) (s : Fin 80) (n : Nat) : Dev :=
  if n = 0 then d
  else (d.onSlot s fun u => { u with errors := { u.errors with corrected := satAdd 64 u.errors.corrected n } }).corrected 0xE00A 1 s.val n

/-- GRANARY_FORCED_SCRUB (R18, R19, R379): single-bit errors are corrected and counted, uncorrectable words poisoned. -/
def Dev.granaryForcedScrub (s : Fin 80) (_bank : Fin 64) (corrected : Nat) (lost : List Nat) (d : Dev) : Dev :=
  match d.slot s with
  | some t =>
    if t.island == .off then d
    else (lost.filter fun o => decide (o < granarySize)).foldl (fun d o => d.poisonGranary s o) (d.countCorrected s corrected)
  | none => d

/-- GRANARY_ROW_REPAIR (R385): the row is redirected to a spare row of its bank; with none left an ACTIVE slot is
FENCED (R383). -/
def Dev.granaryRowRepair (s : Fin 80) (bank : Fin 64) (row : Fin 32768) (d : Dev) : Dev :=
  match d.slot s with
  | some t =>
    if t.island == .off then d
    else if (t.rows.filter fun r => r.1 == bank).length < 32 then
      (d.onSlot s fun u => { u with rows := u.rows ++ [(bank, row)] }).eventOpen 0xE006 1 s.val
    else d.fence s
  | none => d

/-- PATROL_SCRUB (R254, R255, R379): what one patrol read found; `passEnd` publishes the end of a pass. -/
def Dev.patrolScrub (unit : Fin 36) (res : ScrubResult) (passEnd : Bool) (d : Dev) : Dev :=
  if !d.power.main then d
  else
    let u := unit.val
    let d := match res with
      | .clean => d
      | .corrected n =>
        (d.onErrors u fun e => { e with corrected := satAdd 64 e.corrected n }).corrected 0xE00A (unitSource u).1 (unitSource u).2 n
      | .uncorrectable a => if memUnit a = u && d.units.backed a then d.poisonDevice a else d
    if passEnd then { d with units := { d.units with scrubLast := d.units.scrubLast.set u d.now } } else d

/-- Whether no job is open (R313). -/
def Dev.noJob (d : Dev) : Bool := d.jobs.all Option.isNone

/-- The row repairs left in a memory unit (R387, R397). -/
def MemUnits.repairsLeft (u : MemUnits) (unit : Nat) : Nat := (u.errors[unit]?.map (·.left)).getD 0

/-- A row that needs repair (R387): repaired while the unit has resources left; with none its words stay poisoned, and the
device is to retire, or for LPDDR5X logs it. -/
def Dev.repairRow (d : Dev) (u : Nat) : Dev :=
  if d.units.repairsLeft u != 0 then
    (d.onErrors u fun e => { e with repaired := satAdd 32 e.repaired 1, left := e.left - 1 }).eventOpen 0xE006 (unitSource u).1 (unitSource u).2
  else if u < 12 then { d with units := { d.units with unfitDue := true } }
  else d.eventOpen 0xE00B (unitSource u).1 (unitSource u).2

/-- MEMORY_REPAIR (R387): a row that needs repair, or a lane spared. Whether a row's resources are exhausted is what the unit
has left. -/
def Dev.memoryRepair (unit : Fin 36) (k : RepairKind) (d : Dev) : Dev :=
  match k with
  | .row | .exhausted => d.repairRow unit.val
  | .lane => d

/-- The drift of R386 in units of 0.01 %: 10,000 x (1 - rho / rho0), rounded down and kept within U16 (log 21). -/
def driftOf (aged ref rho0 : Nat) : Nat :=
  if ref = 0 ∨ rho0 = 0 then 0
  else min 65535 (10000 - min 10000 (ceilDiv (10000 * aged * 2 ^ 40) (ref * rho0)))

/-- AGE_MEASURE (R386). -/
def Dev.ageMeasure (s : Fin 80) (aged ref : Nat) (d : Dev) : Dev :=
  match d.slot s with
  | some t =>
    if t.island == .off then d
    else
      let drift := driftOf aged ref (Config.ageRatio (d.fuses.ageRef.getD s.val 0))
      let marks := !t.marked && decide (d.settings.ageLimit ≤ drift)
      let d := d.onSlot s fun u => { u with aged := aged, refKhz := ref, drift := drift, marked := u.marked || marks }
      if marks then d.eventOpen 0xE004 1 s.val else d
  | none => d

/-- AGE_RETIRE (R386): at the idle point of a marked slot its croft moves to a SPARE slot and the slot is RETIRED; at
AGE_LIMIT + 100 it is retired without one, and its croft is bound under the second rule of R380. A croft whose step record
cannot be read is lost instead (R382). -/
def Dev.ageRetire (s : Fin 80) (d : Dev) : Dev :=
  match d.slot s with
  | some t =>
    let forced := decide (d.settings.ageLimit + 100 ≤ t.drift)
    if !t.marked || t.spare != .active || ((d.nearestSpare s.val).isNone && !forced) then d
    else
      let retire := fun (d : Dev) => (d.onSlot s fun u => { u.off with spare := .retired }).eventOpen 0xE003 1 s.val
      match d.carried s with
      | none => retire d
      | some x =>
        match d.job x.job with
        | some job =>
          if !d.movable x job.params.ldev || !d.replaceable s then d
          else if x.recordLost then d.relocate ⟨x.job, x.n⟩ s false
          else (retire d).relocate ⟨x.job, x.n⟩ s true
        | none => d
  | none => d

/-- 24 hours in ns of elapsed time. -/
def dayNs : Nat := 86400000000000

/-- AGE_NO_SPARE (R386): logged, every 24 h, for a marked slot that stays ACTIVE for want of a SPARE slot. -/
def Dev.ageNoSpare (s : Fin 80) (d : Dev) : Dev :=
  match d.slot s with
  | some t =>
    if t.marked && t.spare == .active && (d.nearestSpare s.val).isNone
        && t.noSpareAt.all (fun at_ => decide (at_ + dayNs ≤ d.elapsedNs)) then
      (d.onSlot s fun u => { u with noSpareAt := some d.elapsedNs }).eventOpen 0xE005 1 s.val
    else d
  | none => d

/-! ## Failed routers (R249) -/

/-- Whether two nodes are joined by a link. -/
def nodesAdjacent (a b : Nat × Nat) : Bool :=
  (a.1 == b.1 && (a.2 == b.2 + 1 || b.2 == a.2 + 1)) || (a.2 == b.2 && (a.1 == b.1 + 1 || b.1 == a.1 + 1))

/-- The failed routers joined to a set by adjacency; `fuel` bounds the growth. -/
def growFault (failed : List (Nat × Nat)) : Nat → List (Nat × Nat) → List (Nat × Nat)
  | 0, l => l
  | n + 1, l => growFault failed n (l ++ failed.filter fun q => !l.contains q && l.any fun p => nodesAdjacent p q)

/-- The smallest rectangle that holds a set of nodes. -/
def rectOf (l : List (Nat × Nat)) : Nat × Nat × Nat × Nat :=
  l.foldl (fun r p => (min r.1 p.1, min r.2.1 p.2, max r.2.2.1 p.1, max r.2.2.2 p.2)) (100, 100, 0, 0)

/-- Whether two regions are separated by at least one healthy row or column. -/
def rectsApart (a b : Nat × Nat × Nat × Nat) : Bool :=
  a.2.2.1 + 1 < b.1 || b.2.2.1 + 1 < a.1 || a.2.2.2 + 1 < b.2.1 || b.2.2.2 + 1 < a.2.1

/-- Whether a node carries a slot. -/
def isSlotNode (p : Nat × Nat) : Bool := 1 ≤ p.1 && p.1 ≤ 10 && 1 ≤ p.2 && p.2 ≤ 8

/-- The conditions of R249 under which the device keeps routing. -/
def regionsOk (rs : List (Nat × Nat × Nat × Nat)) : Bool :=
  rs.length ≤ 4
    && (rs.all fun r => (r.2.2.1 + 1 - r.1) * (r.2.2.2 + 1 - r.2.1) ≤ 4 && 2 ≤ r.1 && r.2.2.1 ≤ 9 && 2 ≤ r.2.1 && r.2.2.2 ≤ 7)
    && (rs.zipIdx).all fun p => (rs.zipIdx).all fun q => p.2 == q.2 || rectsApart p.1 q.1

/-- A slot of a fault region FENCED (R249): one that carries no croft goes to Off (R34). RETIRED and DISABLED slots keep their
state, which R383 lets nothing change. -/
def Dev.fenceRegion (d : Dev) (s : Nat) : Dev :=
  let n : Fin 80 := Fin.ofNat 80 s
  let bare := (d.carried n).isNone
  (d.onSlot n fun t => { (if bare then t.off else t) with spare := .fenced }).eventOpen 0xE002 1 n.val

/-- A node's router failed (R249, R250): the fault region is declared and its slots FENCED; a ring node, or a pattern outside
the conditions, leaves the device to retire as UNFIT. -/
def Dev.nodeFailure (x : Fin 12) (y : Fin 10) (d : Dev) : Dev :=
  let p := (x.val, y.val)
  let corner := (x.val == 0 || x.val == 11) && (y.val == 0 || y.val == 9)
  if corner || d.mesh.failed.contains p then d
  else
    let failed := d.mesh.failed ++ [p]
    let r := rectOf (growFault (failed.filter isSlotNode) 4 [p])
    let inside := fun (q : Nat × Nat × Nat × Nat) => r.1 ≤ q.1 && r.2.1 ≤ q.2.1 && q.2.2.1 ≤ r.2.2.1 && q.2.2.2 ≤ r.2.2.2
    if !isSlotNode p then { d with mesh := { d.mesh with failed := failed, broken := true } }
    else
      let regions := (d.mesh.regions.filter fun q => !inside q) ++ [r]
      let d : Dev := { d with mesh := { d.mesh with failed := failed, regions := regions, broken := d.mesh.broken || !regionsOk regions } }
      let hit := (List.range 80).filter fun s => d.inRegion s && !d.slotIs s .disabled && !d.slotIs s .retired && !d.slotIs s .fenced
      hit.foldl Dev.fenceRegion d

/-- The nodes the hub connects to, through one port on each (R230). -/
def hubNodes : List (Fin 12 × Fin 10) := [(5, 0), (6, 0)]

/-- ROUTER_FAILURE (R249): a failed router, or a failed hub port, which makes the device retire as UNFIT; a node without a hub
port has none to fail. -/
def Dev.routerFailure (part : MeshPart) (node : Fin 12 × Fin 10) (d : Dev) : Dev :=
  match part with
  | .router => d.nodeFailure node.1 node.2
  | .hubPort => if hubNodes.contains node then { d with mesh := { d.mesh with broken := true } } else d

/-! ## Waits past their limit, and remote signals -/

/-- The index of the L3 wait a croft is in (R212): a barrier; the header wait of an instruction at the head of its
queue, the oldest of several; or else an instruction held at issue by a header wait, a SYNC wait or a step boundary.
Where a queued header wait and a held instruction both wait, the limit is the older instruction's. -/
def Croft.waitingAt (x : Croft) : Option Nat :=
  let w := x.wordAt x.seq.pc
  let op := InstrWord.operation w
  let header := InstrWord.waitEn w && (InstrWord.queue w).isNone && !x.seq.claimed
  let l3 := op == some .wait || op == some .fence || op == some .chk || op == some .bar || op == some .end_
  let heads := (x.units.queues.filterMap List.head?).filter fun i =>
    InstrWord.waitEn i.word && x.sem (InstrWord.waitSem i.word) == 0 && (x.running (InstrWord.unitOf i.word)).isNone
  let queued := heads.find? fun i => heads.all fun k => i.seq ≤ k.seq
  match x.seq.state with
  | .barrier _ _ _ true => some (x.seq.pc - 1)
  | .running => if queued.isNone && x.seq.held && (header || l3) then some x.seq.pc else queued.map (·.index)
  | _ => queued.map (·.index)

/-- The crofts of its job that a waiting croft waits for (R212): at a barrier those that have not arrived at it; at a header
wait or SYNC.WAIT any other, since each may signal; at SYNC.FENCE and a step boundary none, its own units apart. The manual
does not say which croft a semaphore waits for (DESIGN CHOICE, log 91). -/
def Croft.waitsFor (x y : Croft) : Bool :=
  x.job == y.job && x.n != y.n && match x.seq.state with
    | .barrier js b p true => y.seq.state != .barrier js b p true
    | _ =>
      let w := x.wordAt x.seq.pc
      x.firstWaits || (InstrWord.waitEn w && (InstrWord.queue w).isNone && !x.seq.claimed) || InstrWord.operation w == some .wait
        || (x.units.queues.filterMap List.head?).any fun i => InstrWord.waitEn i.word && x.sem (InstrWord.waitSem i.word) == 0

/-- Whether the count of a wait pauses (R212): a croft it waits for, or the neighbour its Field waits for, is switched out or
waits for a slot. -/
def Dev.waitPauses (d : Dev) (x : Croft) (job : Job) : Bool :=
  (d.crofts.any fun y => x.waitsFor y && y.away) || d.awaitsAway x job

/-- SYNC_TIMEOUT (R212): the wait has passed SYNC_WAIT_LIMIT. It is raised only while the croft is resident, no
emergency stands for its job (R449), a wait of class L3 is on and its count does not pause. -/
def Dev.syncTimeout (c : CroftRef) (d : Dev) : Dev :=
  match d.croft c, d.job c.job with
  | some x, some job =>
    match x.waitingAt with
    | some i => if d.resident x && !d.limitsHeld c.job && !d.waitPauses x job then d.croftFault c 0x0207 i else d
    | none => d
  | _, _ => d

/-- A signal's addition at its target croft (R209, R210). -/
def Dev.deliverSignal (d : Dev) (sig : RemoteSig) : Dev :=
  let c : CroftRef := ⟨sig.job, sig.tgtCroft⟩
  match d.croft c with
  | none => d
  | some x =>
    let past := x.semOverflows sig.sem.val sig.count.toNat
    let d := d.setCroft (x.addSem sig.sem.val sig.count.toNat false)
    if past then d.croftFault c 0x0206 x.seq.pc else d.settle c

/-- Signals that other devices sent, which reached a croft held by an emergency: they take effect as it clears, in the order they came
(16_power_clocks_thermal.md R449). -/
def Dev.takeHeld (d : Dev) : Dev :=
  let foreign := fun (s : RemoteSig) => (d.job s.job).any fun q => s.srcDev != q.params.ldev
  (d.signals.filter foreign).foldl Dev.deliverSignal { d with signals := d.signals.filter fun s => !foreign s }

/-- REMOTE_SIGNAL (R210): a signal reaches its target on this device. One that a croft of this device sent must be in
flight, and the oldest of its source and target comes first. While an emergency holds every croft state (R449), a signal waits at its
target. -/
def Dev.remoteSignal (sig : RemoteSig) (d : Dev) : Dev :=
  match d.job sig.job with
  | none => d
  | some job =>
    if sig.tgtDev != job.params.ldev || (d.croft ⟨sig.job, sig.tgtCroft⟩).isNone then d
    else if sig.srcDev != job.params.ldev then if d.emergency then { d with signals := d.signals ++ [sig] } else d.deliverSignal sig
    else if d.emergency then d
    else
      let same := fun (t : RemoteSig) => t.job == sig.job && t.srcDev == sig.srcDev && t.srcCroft == sig.srcCroft && t.tgtCroft == sig.tgtCroft && t.tgtDev == sig.tgtDev
      match d.signals.find? same with
      | some t =>
        if t != sig then d
        else
          let d : Dev := { d with signals := d.signals.erase sig }
          (d.control job (d.granaryPlace ⟨sig.job, sig.srcCroft⟩) (d.granaryPlace ⟨sig.job, sig.tgtCroft⟩)).deliverSignal sig
      | none => d

end Sys2Proof.Machine
end

