-- ==== Sys2Proof/Machine/Fohal.lean ====
section
/-!
DEFINITION. Fohal ports, routes, flits and device loss (09_fohal_scale_out.md R258 to R282, R294 to R298). What a received
flit does is in Arrive.lean.
-/

namespace Sys2Proof.Machine

/-- A port. -/
def Dev.port (d : Dev) (p : Nat) : Option Port := d.fabric.ports[p]?

/-- The device with a port mapped. -/
def Dev.onPort (d : Dev) (p : Nat) (f : Port → Port) : Dev :=
  { d with fabric := { d.fabric with ports := modifyAt d.fabric.ports p f } }

/-- FABRIC_ADDR when assigned (R270). -/
def Dev.ownAddr (d : Dev) : Nat := d.live.fabricAddr

/-- The unassigned address (R298). -/
def noAddr : Nat := 0x7FFF

/-- Byte `i` of a flit. -/
def flitByte (f : BitVec 2048) (i : Nat) : Byte := f.extractLsb' (8 * i) 8

/-- A little-endian number of `n` bytes of a flit (R260). -/
def flitAt (f : BitVec 2048) (off n : Nat) : Nat := leNat ((List.range n).map fun i => flitByte f (off + i))

/-- The bytes of a flit. -/
def flitBytes (f : BitVec 2048) : List Byte := (List.range 256).map (flitByte f)

/-- A flit of 256 bytes. -/
def flitOf (bs : List Byte) : BitVec 2048 := BitVec.ofNat 2048 (leNat (bs.take 256))

/-- Whether the CRC of a flit holds (R260). -/
def flitCrcOk (f : BitVec 2048) : Bool := (crc32 ((flitBytes f).take 252)).toNat == flitAt f 0xFC 4

/-- A flit with its SEQ and ACK set and its CRC made anew (R260, R262). -/
def sealFlit (f : BitVec 2048) (seq ack : BitVec 16) : BitVec 2048 :=
  let body := leBytes 2 seq.toNat ++ leBytes 2 ack.toNat ++ ((flitBytes f).take 252).drop 4
  flitOf (body ++ leBytes 4 (crc32 body).toNat)

/-- Whether sequence number `a` precedes `b` (R262). -/
def seqPrecedes (a b : BitVec 16) : Bool :=
  let k := (b - a).toNat
  1 ≤ k && k ≤ 4095

/-- The SEQ of a flit. -/
def flitSeq (f : BitVec 2048) : BitVec 16 := BitVec.ofNat 16 (flitAt f 0 2)

/-- Source address, tag and type of a flit (R260). -/
def flitSrc (f : BitVec 2048) : Nat := flitAt f 0xA 2 % 2 ^ 15
/-- See `flitSrc`. -/
def flitTag (f : BitVec 2048) : Nat := flitAt f 0xC 4
/-- See `flitSrc`. -/
def flitType (f : BitVec 2048) : Nat := flitAt f 4 1

/-- A flit of one of the types without a payload: IDLE 0, NAK 2, LINK 3 (R260). -/
def bareFlit (type : Nat) : BitVec 2048 := flitOf (leBytes 4 0 ++ leBytes 1 type ++ List.replicate 251 0)

/-- Flits that a sender may hold unacknowledged (R262). -/
def replayCap : Nat := 4096

/-- A flit sent on a port: the next SEQ, held in the replay buffer until acknowledged (R262). -/
def Dev.sendFlit (d : Dev) (p : Nat) (f : BitVec 2048) : Dev :=
  match d.port p with
  | none => d
  | some q =>
    let g := sealFlit f q.sendSeq q.expectSeq
    (d.onPort p fun q => { q with
      sendSeq := q.sendSeq + 1, replay := q.replay ++ [g]
      counters := { q.counters with sent := satAdd 64 q.counters.sent 1 } }).send (.flit p g)

/-- A flit of the link itself, sent at once, or ahead of the waiting ones when the replay buffer is full (R262, R263). -/
def Dev.sendLink (d : Dev) (p : Nat) (f : BitVec 2048) : Dev :=
  match d.port p with
  | none => d
  | some q => if q.replay.length < replayCap then d.sendFlit p f
    else d.onPort p fun q => { q with out := ⟨0, f, 0, false⟩ :: q.out }

/-- The replay buffer without what a cumulative acknowledgement covers (R262). -/
def Port.acked (q : Port) (ack : BitVec 16) : Port :=
  { q with replay := q.replay.filter fun f => !seqPrecedes (flitSeq f) ack }

/-! ## Port states (R265 to R269) -/

/-- PORT_SIGNAL_DETECT (R265). -/
def Dev.portSignalDetect (p : Fin 12) (d : Dev) : Dev :=
  match d.port p.val with
  | some q => if q.state == .down && d.settings.portEnable.getD p.val false && d.power.main && !d.units.unfit then
      d.onPort p.val fun q => { q with state := .detect } else d
  | none => d

/-- The capability record the device sends (R267). -/
def Dev.capability (d : Dev) (p : Nat) : List Byte :=
  let torus := d.live.topology == 0
  leBytes 8 d.fuses.deviceId.toNat ++ leBytes 2 d.ownAddr ++ leBytes 1 p ++ leBytes 1 d.fuses.grade.toNat
    ++ leBytes 2 0x0B00 ++ leBytes 2 d.boot.bundle
    ++ leBytes 4 (if torus then d.live.coord.1 + 256 * d.live.coord.2.1 + 65536 * d.live.coord.2.2 + 2 ^ 31 else 0)
    ++ leBytes 4 (70 * 64) ++ leBytes 4 (110 * 64) ++ leBytes 4 7 ++ leBytes 32 0

/-- The link-state record of the device (R270): for each port its state and its partner's fabric address. -/
def Dev.ownLinkState (d : Dev) (lost : List Nat) : LinkState where
  deviceId := d.fuses.deviceId
  address := d.ownAddr
  generation := d.fabric.ownGen
  ports := d.fabric.ports.map fun q =>
    ((match q.state with
      | .down => 0 | .detect => 1 | .train => 2 | .measure => 3 | .exchange => 4 | .up => 5 | .retrain => 6),
      leAt q.partner 8 2 % 2 ^ 15)
  lost := lost
  timeSource := d.power.ppsValid || d.fabric.ptpValid

/-- The own record with the next generation, flooded (R270). -/
def Dev.flood (d : Dev) (lost : List Nat) : Dev :=
  let d := { d with fabric := { d.fabric with ownGen := d.fabric.ownGen + 1 } }
  d.send (.linkState (d.ownLinkState lost))

/-- A job halted on this device by the loss of a device, or for want of a route to one (R296): the crofts halt, and every
outstanding command completes with that fault. -/
def Dev.loseJob (d : Dev) (code : Nat) (j : Fin 64) : Dev :=
  d.haltJob j ⟨code, 0, 0⟩ none (d.launchOf j) code

/-- A device declared lost: every job that includes it halts (R296). This device is not lost to itself: a record that names it
halts its jobs alone (log 106). -/
def Dev.loseDevice (d : Dev) (addr : Nat) : Dev :=
  let known := addr == d.ownAddr || d.fabric.lost.contains addr
  let d := { d with fabric := { d.fabric with lost := if known then d.fabric.lost else d.fabric.lost ++ [addr] } }
  (List.finRange 64).foldl (fun d j => match d.job j with
    | some job => if job.devs.contains addr && job.fault.isNone then d.loseJob 0x0703 j else d
    | none => d) d

/-- Whether another port joins the same partner. -/
def Dev.otherPortTo (d : Dev) (p : Nat) (addr : Nat) : Bool :=
  (d.fabric.ports.zipIdx).any fun q => q.2 != p && (q.1.state == .up || q.1.state == .retrain) && leAt q.1.partner 8 2 % 2 ^ 15 == addr

/-- Whether a link of a port stands or is held for RETRAIN. -/
def Port.joined (q : Port) : Bool := q.state == .up || q.state == .retrain

/-- A port in DOWN: nothing of its link is left (R265, R353). -/
def Port.fallen (q : Port) : Port :=
  { q with
    state := .down, replay := [], out := [], nakSent := false, nakCount := 0, lanes := 0, spare := false, width := 0
    fullRate := false, loss := List.replicate 9 0, rtt := 0, partner := List.replicate 64 0, bad := 0 }

/-- Why a port goes to DOWN, as far as the loss of its device goes (R296). -/
inductive PortLoss where
  /-- The partner sent LEAVE. -/
  | left
  /-- RETRAIN failed. -/
  | failed
  /-- Anything else: no loss is declared. -/
  | closed
deriving DecidableEq, Repr

/-- A port goes to DOWN: when it was joined the leave is logged and the record flooded, and its partner no longer mismatches; after
LEAVE, or when the last port to its device failed RETRAIN, the device is declared lost (R265, R270, R271, R296). -/
def Dev.dropPort (d : Dev) (p : Nat) (why : PortLoss) : Dev :=
  match d.port p with
  | none => d
  | some q =>
    let addr := leAt q.partner 8 2 % 2 ^ 15
    let d := d.onPort p Port.fallen
    let d : Dev := { d with fabric := { d.fabric with mismatch := d.fabric.mismatch.filter (· != p) } }
    if !q.joined then d
    else
      let d := d.eventNamed .linkLeave 4 p
      if why == .left || (why == .failed && !d.otherPortTo p addr) then (d.flood [addr]).loseDevice addr else d.flood []

/-- Entry to RETRAIN (R263, R265, R269). -/
def Dev.retrain (d : Dev) (p : Nat) : Dev :=
  d.onPort p fun q => { q with
    state := .retrain, nakCount := 0
    counters := { q.counters with retrains := satAdd 64 q.counters.retrains 1 } }

/-- The flits of the replay buffer resent from a sequence number on (R263, R265). PORT_COUNTERS does not count them as sent again, for
which R298 has no rule (DESIGN CHOICE, log 106). -/
def Dev.resendFrom (d : Dev) (p : Nat) (seq : BitVec 16) : Dev :=
  match d.port p with
  | none => d
  | some q =>
    (q.replay.filter fun f => flitSeq f == seq || seqPrecedes seq (flitSeq f)).foldl (fun d f => d.send (.flit p f)) d

/-- The expected torus neighbour of a port (R271). -/
def Dev.torusNeighbour (d : Dev) (p : Nat) : Nat × Nat × Nat :=
  let c := d.live.coord
  let n := d.live.dims
  match p / 2 with
  | 0 => ((c.1 + 1) % n.1, c.2.1, c.2.2)
  | 1 => ((c.1 + n.1 - 1) % n.1, c.2.1, c.2.2)
  | 2 => (c.1, (c.2.1 + 1) % n.2.1, c.2.2)
  | 3 => (c.1, (c.2.1 + n.2.1 - 1) % n.2.1, c.2.2)
  | 4 => (c.1, c.2.1, (c.2.2 + 1) % n.2.2)
  | _ => (c.1, c.2.1, (c.2.2 + n.2.2 - 1) % n.2.2)

/-- Whether the partner of a port is not the neighbour that the torus expects there (R271). -/
def Dev.mismatches (d : Dev) (p : Nat) (partner : List Byte) : Bool :=
  let coord := leAt partner 0x10 4
  let n := d.torusNeighbour p
  d.live.topology == 0
    && !(bitOf coord 31 && coord % 256 == n.1 && coord / 256 % 256 == n.2.1 && coord / 65536 % 256 == n.2.2)

/-- The partner of a joined port held against the torus, with TOPOLOGY_MISMATCH logged when it is not the neighbour expected
(R271). -/
def Dev.checkNeighbour (d : Dev) (p : Nat) : Dev :=
  match d.port p with
  | none => d
  | some q =>
    let bad := q.joined && d.mismatches p q.partner
    let others := d.fabric.mismatch.filter (· != p)
    let d : Dev := { d with fabric := { d.fabric with mismatch := if bad then others ++ [p] else others } }
    if bad then d.eventNamed .topologyMismatch 4 p else d

/-- Every unacknowledged flit resent (R265, R269). -/
def Dev.resendAll (d : Dev) (p : Nat) : Dev :=
  match (d.port p).bind fun q => q.replay.head? with
  | some f => d.resendFrom p (flitSeq f)
  | none => d

/-- PORT_PHASE_DONE (R259, R265, R266). -/
def Dev.portPhaseDone (p : Fin 12) (r : PhaseResult) (d : Dev) : Dev :=
  match d.port p.val with
  | none => d
  | some q =>
    match q.state, r with
    | .detect, .detected => d.onPort p.val fun q => { q with state := .train }
    | .train, .trained full => d.onPort p.val fun q => { q with state := .measure, fullRate := full, width := 8, lanes := 0xFF, spare := false, bad := 0 }
    | .measure, .measured loss rtt =>
      (d.onPort p.val fun q => { q with state := .exchange, loss := loss, rtt := rtt }).send (.capability p.val (d.capability p.val))
    | .retrain, .trained full => d.onPort p.val fun q => { q with fullRate := full }
    | .retrain, .measured loss rtt =>
      let d := d.onPort p.val fun q => { q with state := .up, loss := loss, rtt := rtt, nakSent := false }
      d.resendAll p.val
    | _, _ => d

/-- PORT_STATE_TIMEOUT (R265): the time limit of the state has passed; in UP, 10 µs without a flit. What follows in MEASURE and in
EXCHANGE the state table does not say: DOWN (DESIGN CHOICE, log 106). -/
def Dev.portStateTimeout (p : Fin 12) (d : Dev) : Dev :=
  match d.port p.val with
  | none => d
  | some q =>
    match q.state with
    | .down => if d.settings.portEnable.getD p.val false && d.power.main && !d.units.unfit then d.onPort p.val fun q => { q with state := .detect } else d
    | .up => d.retrain p.val
    | .retrain => d.dropPort p.val .failed
    | _ => d.dropPort p.val .closed

/-- What is kept of CTRL sequences with a device that has joined anew (R279). -/
def Fabric.forget (f : Fabric) (addr : Nat) : Fabric :=
  { f with
    lost := f.lost.filter (· != addr)
    ctrlSeq := f.ctrlSeq.filter fun p => p.1 != addr
    ctrlSeen := f.ctrlSeen.filter fun p => p.1 != addr }

/-- CAPABILITY_RECORD (R267, R268, R270, R271): the partner is checked and the port enters UP, or returns to DOWN. -/
def Dev.capabilityRecord (p : Fin 12) (rec_ : BitVec 512) (d : Dev) : Dev :=
  match d.port p.val with
  | none => d
  | some q =>
    if q.state != .exchange then d
    else
      let bytes := leBytes 64 rec_.toNat
      let addr := leAt bytes 8 2 % 2 ^ 15
      let id := leAt bytes 0 8
      if leAt bytes 0xE 2 / 256 != d.boot.bundle / 256 then (d.dropPort p.val .closed).eventNamed .bundleMismatch 4 p.val
      else if addr == noAddr || d.ownAddr == noAddr || addr == d.ownAddr
          || d.fabric.topo.any (fun r => (r.address == addr && r.deviceId.toNat != id)
            || (r.address == d.ownAddr && r.deviceId != d.fuses.deviceId)) then
        (d.dropPort p.val .closed).eventNamed .fabricAddrConflict 4 p.val
      else
        let d := d.onPort p.val fun q => { q with state := .up, partner := bytes, sendSeq := 0, expectSeq := 0, replay := [], nakSent := false, nakCount := 0 }
        let fresh := !d.otherPortTo p.val addr
        let d : Dev := { d with fabric := if fresh then d.fabric.forget addr else d.fabric }
        let d := d.checkNeighbour p.val
        (d.eventNamed .linkJoin 4 p.val).flood []

/-- RTT_REMEASURE (R266). -/
def Dev.rttRemeasure (p : Fin 12) (rtt : Nat) (d : Dev) : Dev :=
  match d.port p.val with
  | some q => if q.state == .up then d.onPort p.val fun q => { q with rtt := rtt } else d
  | none => d

/-- LEAVE from the partner (R265, R296). -/
def Dev.leave (p : Fin 12) (d : Dev) : Dev :=
  match d.port p.val with
  | some q => if q.state == .up || q.state == .retrain then d.dropPort p.val .left else d
  | none => d

/-- The lowest four lanes of a set. -/
def lowestFour (m : BitVec 9) : BitVec 9 :=
  (((List.range 9).filter fun l => m.getLsbD l).take 4).foldl (fun (v : BitVec 9) l => v ||| (1#9 <<< l)) 0

/-- How many lanes a set holds. -/
def laneCount (m : BitVec 9) : Nat := ((List.range 9).filter fun l => m.getLsbD l).length

/-- LANE_SPARED (R269): a failing lane takes the spare: the swap is agreed in LINK flits, and then what was in flight is resent.
With the spare in use the port retrains to half width, on the lowest four lanes that are good (DESIGN CHOICE, log 93); a port
that cannot hold four lanes goes to DOWN. -/
def Dev.laneSpared (p : Fin 12) (lane : Fin 9) (d : Dev) : Dev :=
  match d.port p.val with
  | none => d
  | some q =>
    if q.state != .up || !q.lanes.getLsbD lane.val then d
    else
      let bad := q.bad ||| (1#9 <<< lane.val)
      let d := d.onPort p.val fun q => { q with bad := bad }
      if !q.spare then
        let d := d.onPort p.val fun q => { q with spare := true, lanes := (q.lanes &&& ~~~(1#9 <<< lane.val)) ||| 0x100 }
        let flight := q.replay
        let d := d.sendLink p.val (bareFlit 3)
        (flight.foldl (fun d f => d.send (.flit p.val f)) d).eventNamed .laneSpared 4 p.val
      else if 4 ≤ laneCount (~~~bad) then
        ((d.retrain p.val).onPort p.val fun q => { q with width := 4, lanes := lowestFour (~~~bad) }).eventNamed .portHalfWidth 4 p.val
      else d.dropPort p.val .closed

/-! ## Routes (R270 to R274) -/

/-- A link of the database: two fabric addresses and the port at the first. -/
def linksOf (r : LinkState) : List (Nat × Nat × Nat) :=
  (r.ports.zipIdx).filterMap fun p => if p.1.1 = 5 then some (r.address, p.1.2, p.2) else none

/-- Every record that counts: the own and the database's. The record of a device declared lost counts neither for the root and the
levels nor for the links, on which the manual is silent (DESIGN CHOICE, log 106). -/
def Dev.records (d : Dev) : List LinkState :=
  (d.ownLinkState [] :: d.fabric.topo.filter fun r => r.address != d.ownAddr).filter fun r => !d.fabric.lost.contains r.address

/-- The links that both ends report UP. -/
def Dev.links (d : Dev) : List (Nat × Nat × Nat) :=
  let all := d.records.flatMap linksOf
  all.filter fun l => all.any fun m => m.1 == l.2.1 && m.2.1 == l.1

/-- Breadth-first levels from an address; `fuel` bounds the depth. Each pass adds the unseen neighbours of the last. -/
def bfsLevels (links : List (Nat × Nat × Nat)) : Nat → Nat → List (Nat × Nat) → List Nat → List (Nat × Nat)
  | 0, _, seen, _ => seen
  | fuel + 1, lvl, seen, front =>
    let next := ((links.filter fun l => front.contains l.1 && !seen.any fun s => s.1 == l.2.1).map (·.2.1)).eraseDups
    if next.isEmpty then seen else bfsLevels links fuel (lvl + 1) (seen ++ next.map fun a => (a, lvl + 1)) next

/-- The level of a device: its hop distance from the device of lowest DEVICE_ID (R273). -/
def Dev.levels (d : Dev) : List (Nat × Nat) :=
  let rs := d.records
  match rs with
  | [] => []
  | r :: t =>
    let root := (t.foldl (fun (a : LinkState) b => if b.deviceId < a.deviceId then b else a) r).address
    bfsLevels d.links rs.length 0 [(root, 0)] [root]

/-- Whether the hop from `a` to `b` goes up: towards lower (level, fabric address) (R273). -/
def upHop (levels : List (Nat × Nat)) (a b : Nat) : Bool :=
  let lv := fun (x : Nat) => ((levels.find? fun s => s.1 == x).map (·.2)).getD 0
  lv b < lv a || (lv b == lv a && b < a)

/-- Shortest legal distances: states are (address, a down link taken), each with its distance; no up link follows a
down link (R273). -/
def legalBfs (links : List (Nat × Nat × Nat)) (levels : List (Nat × Nat)) :
    Nat → Nat → List (Nat × Bool × Nat) → List (Nat × Bool) → List (Nat × Bool × Nat)
  | 0, _, seen, _ => seen
  | fuel + 1, k, seen, front =>
    let next := (front.flatMap fun s => links.filterMap fun l =>
      if l.1 != s.1 then none
      else
        let up := upHop levels l.1 l.2.1
        let t : Nat × Bool := (l.2.1, s.2 || !up)
        if (up && s.2) || seen.any fun q => q.1 == t.1 && q.2.1 == t.2 then none else some t).eraseDups
    if next.isEmpty then seen
    else legalBfs links levels fuel (k + 1) (seen ++ next.map fun t => (t.1, t.2, k + 1)) next

/-- The distance from a state to a destination, if any. -/
def distTo (seen : List (Nat × Bool × Nat)) (dest : Nat) : Option Nat :=
  (seen.filter fun s => s.1 == dest).foldl (fun (b : Option Nat) s => match b with
    | none => some s.2.2
    | some v => some (min v s.2.2)) none

/-- The distance to a destination by way of each UP port under the TABLE rule (R273). -/
def Dev.tableVia (d : Dev) (dest : Nat) : List (Nat × Nat) :=
  let links := d.links
  let levels := d.levels
  let n := 2 * d.records.length
  (links.filter fun l => l.1 == d.ownAddr).filterMap fun l =>
    let s : Nat × Bool := (l.2.1, !upHop levels l.1 l.2.1)
    (distTo (legalBfs links levels n 0 [(s.1, s.2, 0)] [s]) dest).map fun k => (l.2.2, k + 1)

/-- The lowest port of least distance. -/
def bestVia (l : List (Nat × Nat)) : Option (Nat × Nat) :=
  l.foldl (fun (b : Option (Nat × Nat)) q => match b with
    | none => some q
    | some v => if q.2 < v.2 ∨ (q.2 = v.2 ∧ q.1 < v.1) then some q else some v) none

/-- The torus coordinates of a fabric address (R271). -/
def Dev.coordOf (d : Dev) (a : Nat) : Nat × Nat × Nat :=
  let n := d.live.dims
  (a % n.1, a / n.1 % n.2.1, a / (n.1 * n.2.1))

/-- The steps along a dimension of size `n`, and whether they go in the positive direction (R272). -/
def torusSteps (n src dst : Nat) : Nat × Bool :=
  let k := (dst + n - src) % n
  if 2 * k ≤ n then (k, true) else (n - k, false)

/-- The pair of ports that serves the next hop of a torus route: the first dimension not yet resolved (R271, R272). -/
def Dev.torusPair (d : Dev) (dest : Nat) : Option Nat :=
  let c := d.live.coord
  let t := d.coordOf dest
  let n := d.live.dims
  let x := torusSteps n.1 c.1 t.1
  let y := torusSteps n.2.1 c.2.1 t.2.1
  let z := torusSteps n.2.2 c.2.2 t.2.2
  if x.1 != 0 then some (if x.2 then 0 else 2)
  else if y.1 != 0 then some (if y.2 then 4 else 6)
  else if z.1 != 0 then some (if z.2 then 8 else 10)
  else none

/-- The ports of the directions that are minimal along one dimension of size `n`; both directions at half way (R272, R274). -/
def minimalPorts (n src dst base : Nat) : List Nat :=
  let k := (dst + n - src) % n
  if k = 0 then []
  else if 2 * k = n then [base, base + 1, base + 2, base + 3]
  else if 2 * k < n then [base, base + 1]
  else [base + 2, base + 3]

/-- The ports that lie on a minimal path of the torus (R274): those of every dimension not yet resolved. -/
def Dev.torusMinimal (d : Dev) (dest : Nat) : List Nat :=
  let c := d.live.coord
  let t := d.coordOf dest
  let n := d.live.dims
  minimalPorts n.1 c.1 t.1 0 ++ minimalPorts n.2.1 c.2.1 t.2.1 4 ++ minimalPorts n.2.2 c.2.2 t.2.2 8

/-- Hops of the torus route. -/
def Dev.torusHops (d : Dev) (dest : Nat) : Nat :=
  let c := d.live.coord
  let t := d.coordOf dest
  let n := d.live.dims
  (torusSteps n.1 c.1 t.1).1 + (torusSteps n.2.1 c.2.1 t.2.1).1 + (torusSteps n.2.2 c.2.2 t.2.2).1

/-- Whether a port is UP. -/
def Dev.portUp (d : Dev) (p : Nat) : Bool := (d.port p).any fun q => q.state == .up

/-- Whether the device routes as a torus (R271). -/
def Dev.routesTorus (d : Dev) : Bool := d.live.topology == 0 && d.fabric.mismatch.isEmpty

/-- The route to a destination address (R272 to R274); none when it cannot be reached. -/
def Dev.routeTo (d : Dev) (dest : Nat) : Option Route :=
  let via := d.tableVia dest
  match bestVia via with
  | none => none
  | some b =>
    let table : Route := ⟨dest, b.1, (via.filter fun q => q.2 == b.2).map (·.1), b.2⟩
    if !d.routesTorus then some table
    else
      match d.torusPair dest with
      | none => some table
      | some lo =>
        let p := if dest % 2 = 0 then lo else lo + 1
        let q := if dest % 2 = 0 then lo + 1 else lo
        let ports := (d.torusMinimal dest).filter d.portUp
        if d.portUp p then some ⟨dest, p, ports, d.torusHops dest⟩
        else if d.portUp q then some ⟨dest, q, ports, d.torusHops dest⟩
        else some table

/-- Whether this device can reach a fabric address (R274, R296). -/
def Dev.reaches (d : Dev) (a : Nat) : Bool := a == d.ownAddr || d.fabric.routes.any fun r => r.dest == a

/-- Whether this device is the time master (R281): the lowest address of those whose own time source is valid, or of all when
none is. -/
def Dev.isMaster (d : Dev) : Bool :=
  let valid := d.records.filter (·.timeSource)
  let field := if valid.isEmpty then d.records else valid
  (field.any fun r => r.address == d.ownAddr) && field.all fun r => d.ownAddr ≤ r.address

/-- TIME_STATE after the time master is chosen (R281, R282, log 65). A device that becomes MASTER with a source of its own may
step to it once, unless it was SYNCED: then it keeps its device time. -/
def Dev.electMaster (d : Dev) : Dev :=
  let f := d.fabric
  if d.isMaster then
    { d with fabric := { f with
        timeState := .master
        stepDue := if f.timeState == .master then f.stepDue else f.timeState != .synced && (d.power.ppsValid || f.ptpValid) } }
  else { d with fabric := { f with timeState := if f.timeState == .master then .syncing else f.timeState, stepDue := false } }

/-- ROUTES_UPDATED (R270, R273, R274, R281, R296): the routes are computed from the database, the time master is chosen,
and a job with a device that cannot be reached halts. -/
def Dev.routesUpdated (d : Dev) : Dev :=
  let dests := (d.records.map (·.address)).filter fun a => a != d.ownAddr && a != noAddr
  let d : Dev := { d with fabric := { d.fabric with routes := dests.filterMap d.routeTo, topoGen := d.fabric.topoGen + 1 } }
  let d := d.eventNamed .routesUpdated 0 0
  let d := d.electMaster
  (List.finRange 64).foldl (fun d j => match d.job j with
    | some job => if job.fault.isNone && job.devs.any (fun a => !d.reaches a) then d.loseJob 0x0701 j else d
    | none => d) d

/-- LINK_STATE_RECORD (R270, R281, R296): taken when its generation is higher than the one held, and flooded on; a device that
was lost and has a link UP again has rejoined. -/
def Dev.linkStateRecord (r : LinkState) (d : Dev) : Dev :=
  let held := (d.fabric.topo.find? fun q => q.deviceId == r.deviceId).map (·.generation)
  if r.deviceId == d.fuses.deviceId || (held.map fun g => decide (r.generation ≤ g)).getD false then d
  else
    let topo := (d.fabric.topo.filter fun q => q.deviceId != r.deviceId) ++ [r]
    let d : Dev := { d with fabric := { d.fabric with topo := topo } }
    let back := d.fabric.lost.contains r.address && r.ports.any fun p => p.1 == 5
    let d : Dev := { d with fabric := if back then d.fabric.forget r.address else d.fabric }
    r.lost.foldl Dev.loseDevice (d.send (.linkState r))

/-! ## Flits (R260 to R263, R272, R277 to R279) -/

/-- The dimension a port serves (R271). -/
def portDim (p : Nat) : Nat := p / 4

/-- Whether a hop on a port crosses the wrap link of its dimension (R272). -/
def Dev.wraps (d : Dev) (p : Nat) : Bool :=
  let c := d.live.coord
  let n := d.live.dims
  match p / 2 with
  | 0 => c.1 + 1 == n.1
  | 1 => c.1 == 0
  | 2 => c.2.1 + 1 == n.2.1
  | 3 => c.2.1 == 0
  | 4 => c.2.2 + 1 == n.2.2
  | _ => c.2.2 == 0

/-- The flits waiting and held at a port, which ADAPTIVE routing weighs (R275). -/
def Dev.queuedAt (d : Dev) (p : Nat) : Nat := ((d.port p).map fun q => q.out.length).getD 0

/-- The port a flit takes (R275): PRIMARY, or for a BULK or REPLY flit of an ADAPTIVE job the ADAPTIVE port with the fewest
flits queued, ties to the lower. -/
def Dev.outPort (d : Dev) (r : Route) (chan : Nat) (adaptive : Bool) : Nat :=
  if adaptive && 2 ≤ chan then
    ((r.adaptive.foldl (fun (b : Option Nat) p => match b with
      | none => some p
      | some v => if d.queuedAt p < d.queuedAt v || (d.queuedAt p == d.queuedAt v && p < v) then some p else some v) none)).getD r.primary
  else r.primary

/-- A flit put to wait at the port of its next hop, with its dateline class there (R272, R275, R277). `inPort` is the port it
came in by; one that this device injects has none. A flit to an address without a route has nowhere to go. -/
def Dev.queueFlit (d : Dev) (inPort : Option Nat) (adaptive : Bool) (f : BitVec 2048) : Dev :=
  match d.fabric.routes.find? fun r => r.dest == flitAt f 8 2 % 2 ^ 15 with
  | none => d
  | some r =>
    let chan := flitAt f 5 1
    let p := d.outPort r (chan % 4) adaptive
    let same := inPort.any fun i => portDim i == portDim p && bitOf chan 2
    let class_ := d.routesTorus && (d.wraps p || same)
    let bytes := spliceBytes (flitBytes f) 5 (leBytes 1 (chan % 4 + (if class_ then 4 else 0)))
    d.onPort p fun q => { q with out := q.out ++ [⟨chan % 4, flitOf bytes, 0, inPort.isNone⟩] }

/-- A received flit passed on towards its destination (R272, R275). -/
def Dev.forward (d : Dev) (inPort : Nat) (adaptive : Bool) (f : BitVec 2048) : Dev := d.queueFlit (some inPort) adaptive f

/-! ## Messages of this device (R260, R277 to R279, R294) -/

/-- One flit of a message (R260): `flags` holds FIRST, LAST and RESTART. -/
def payloadFlit (chan dest src tag target flags off : Nat) (data : List Byte) : BitVec 2048 :=
  let units := ceilDiv data.length 32
  flitOf (leBytes 4 0 ++ leBytes 1 1 ++ leBytes 1 chan ++ leBytes 1 units ++ leBytes 1 flags ++ leBytes 2 dest ++ leBytes 2 src
    ++ leBytes 4 tag ++ leBytes 8 target ++ leBytes 4 off ++ data ++ List.replicate (228 - data.length) 0)

/-- A message laid out as flits of at most seven 32-byte units (R260). -/
def layMessage (chan dest src tag target : Nat) (body : List Byte) : List (BitVec 2048) :=
  let n := max 1 (ceilDiv body.length 224)
  (List.range n).map fun i =>
    payloadFlit chan dest src tag target ((if i = 0 then 1 else 0) + (if i + 1 = n then 2 else 0)) (224 * i)
      ((body.drop (224 * i)).take 224)

/-- A message injected: its flits wait at their port, and it is held in case a link leaves with some of them, until its tag is used
anew (R279, log 106). -/
def Dev.sendMsg (d : Dev) (chan dest tag target : Nat) (adaptive : Bool) (body : List Byte) : Dev :=
  let fs := layMessage chan dest d.ownAddr tag target body
  let rest := d.fabric.messages.filter fun m => m.tag != tag
  let d : Dev := { d with fabric := { d.fabric with messages := rest ++ [⟨tag, fs, adaptive⟩] } }
  fs.foldl (fun d f => d.queueFlit none adaptive f) d

/-- The tag of a new message (R260), and the device with the next one. -/
def Dev.newTag (d : Dev) : Nat × Dev :=
  (d.fabric.nextTag, { d with fabric := { d.fabric with nextTag := (d.fabric.nextTag + 1) % 2 ^ 32 } })

/-- The next end-to-end sequence to a destination on CTRL (R279). -/
def Dev.newSeq (d : Dev) (dest : Nat) : Word32 × Dev :=
  let v := ((d.fabric.ctrlSeq.find? fun p => p.1 == dest).map (·.2)).getD 0
  let rest := d.fabric.ctrlSeq.filter fun p => p.1 != dest
  (v, { d with fabric := { d.fabric with ctrlSeq := rest ++ [(dest, v + 1)] } })

/-- A message on CTRL, REPLY or HALO to a device (R277, R279). -/
def Dev.sendBody (d : Dev) (chan dest : Nat) (adaptive : Bool) (m : FabricMsg) : Dev :=
  let s := if chan = 0 then d.newSeq dest else (0, d)
  let t := s.2.newTag
  let e := Config.encodeMsg s.1 m
  t.2.sendMsg chan dest t.1 e.1.toNat adaptive e.2

/-- A link-state record to the partner of every UP port, in dateline class 1 over a wrap link (R270, R272). -/
def Dev.floodFlits (d : Dev) (r : LinkState) : Dev :=
  (List.range 12).foldl (fun d p => match d.port p with
    | some q =>
      if q.state != .up then d
      else
        let t := d.newTag
        let e := Config.encodeMsg 0 (.linkState r)
        let chan := if d.routesTorus && d.wraps p then 4 else 0
        (layMessage chan (leAt q.partner 8 2 % 2 ^ 15) d.ownAddr t.1 e.1.toNat e.2).foldl
          (fun d f => d.onPort p fun q => { q with out := q.out ++ [⟨0, f, 0, true⟩] }) t.2
    | none => d) d

/-- The fabric address of a logical device of a job, when it is another device. -/
def Dev.peerAddr (d : Dev) (j : Fin 64) (dev : Nat) : Option Nat :=
  (d.job j).bind fun q => if dev = q.params.ldev then none else q.devs[dev]?

/-- Whether the flits of a job may take ADAPTIVE routes (R275). -/
def Dev.adaptiveJob (d : Dev) (j : Fin 64) : Bool := (d.job j).any fun q => q.params.adaptive

/-- The parent of a logical device in the tree of R283. -/
def treeParent (dev : Nat) : Nat := dev - 2 ^ Nat.log2 dev

/-- How many logical devices the subtree of a device other than 0 holds, itself among them (R283). -/
def subtreeSize (devices dev : Nat) : Nat :=
  ((List.range devices).filter fun v => v % 2 ^ (Nat.log2 dev + 1) == dev).length

/-- The children of a logical device in the tree of R283. -/
def treeChildren (devices ldev : Nat) : List Nat :=
  (List.range devices).filter fun v => v != 0 && v != ldev && treeParent v == ldev

/-- A message to each of some logical devices of a job on CTRL. -/
def Dev.sendPeers (d : Dev) (j : Fin 64) (devs : List Nat) (m : FabricMsg) : Dev :=
  devs.foldl (fun d v => match d.peerAddr j v with
    | some a => d.sendBody 0 a false m
    | none => d) d

/-- One message of this device laid out as flits; what stays on the device, or leaves by another way, gives none. -/
def Dev.shipOne (d : Dev) (m : Sent) : Dev :=
  match m with
  | .put j dev croft off tag _ data => match d.peerAddr j dev with
    | some a => d.sendMsg 3 a tag (2 ^ 63 + croft * 2 ^ 26 + off) (d.adaptiveJob j) data
    | none => d
  | .contribution j dst header data digest => match d.peerAddr j dst with
    | some a =>
      let t := d.newTag
      t.2.sendMsg 3 a t.1 Config.collTarget.toNat (d.adaptiveJob j) (leBytes 32 header.toNat ++ data ++ leBytes 16 digest.toNat)
    | none => d
  | .handshake j dev croft _ edge h => match d.peerAddr j dev with
    | some a => d.sendBody 1 a false (.handshake (Fin.ofNat 256 croft) (Fin.ofNat 4 edge) h)
    | none => d
  | .ack a tag adaptive => d.sendBody 2 a adaptive (.ack tag)
  | .accept j dst collId step chunk seg => match d.peerAddr j dst with
    | some a => d.sendBody 2 a (d.adaptiveJob j) (.accept collId ((d.job j).map (·.params.ldev) |>.getD 0) step chunk seg)
    | none => d
  | .signal s => d.sendPeers s.job [s.tgtDev] (.signal s)
  | .barrier j implicit num up parties value => match d.job j with
    | some q => if up then d.sendPeers j [treeParent q.params.ldev] (.arrivals implicit num parties q.params.ldev value)
      else d.sendPeers j (treeChildren q.params.devices q.params.ldev) (.release implicit num value)
    | none => d
  | .refuse j dst collId step chunk seg attempt =>
    d.sendPeers j [dst] (.refuse collId ((d.job j).map (·.params.ldev) |>.getD 0) step chunk seg (Fin.ofNat 4 attempt))
  | .notice j dev begins => d.sendPeers j [dev] (.notice ((d.job j).map (·.params.ldev) |>.getD 0) begins)
  | .halt j fr coll =>
    d.sendPeers j (List.range ((d.job j).map (·.params.devices) |>.getD 0)) (.halt fr.code fr.step fr.detail coll)
  | .linkState r => d.floodFlits r
  | _ => d

/-- The 32 bytes of a halo record (06_lattice_field.md R178). -/
def HaloRec.bytes (r : HaloRec) : List Byte :=
  leBytes 8 r.version.toNat ++ leBytes 4 r.source.toNat ++ leBytes 4 0 ++ leBytes 16 r.states.toNat

/-- The halo records queued for one Field's device share flits, up to seven in one (R294). -/
def Dev.shipHalo (d : Dev) (k : Fin 64 × Nat) (rs : List HaloRec) : Dev :=
  match d.peerAddr k.1 k.2 with
  | none => d
  | some a =>
    (List.range (ceilDiv rs.length 7)).foldl (fun d i =>
      let t := d.newTag
      t.2.sendMsg 1 a t.1 Config.haloTarget.toNat false (((rs.drop (7 * i)).take 7).flatMap HaloRec.bytes)) d

/-- What this device has sent since it last did so is laid out as flits (R260, R277, R294). -/
def Dev.ship (d : Dev) : Dev :=
  let new := d.sent.drop d.fabric.shipped
  let d : Dev := { d with fabric := { d.fabric with shipped := d.sent.length } }
  let halo := new.filterMap fun m => match m with
    | .halo j dev _ _ r => some ((j, dev), r)
    | _ => none
  let d := new.foldl Dev.shipOne d
  ((halo.map (·.1)).eraseDups).foldl (fun d k => d.shipHalo k ((halo.filter fun p => p.1 == k).map (·.2))) d

/-! ## Grants (R258, R259, R262, R269, R277) -/

/-- The time of one flit at 1.792 Tb/s, in units of elapsed time (R258). -/
def flitTime : Nat := 42007680

/-- The time of one flit on a port: longer at the nominal rate, and twice that at half width (R259, R269). -/
def Port.flitUnits (q : Port) : Nat :=
  let t := if q.fullRate then flitTime else flitTime * 22400 / 20078
  if q.width = 4 then 2 * t else t

/-- Whether a waiting flit may be granted: a source injects one CTRL flit in 64 flit times (R277). -/
def Dev.mayGrant (d : Dev) (o : OutFlit) : Bool :=
  !(o.own && o.chan == 0) || match d.fabric.ctrlLast with
    | none => true
    | some t => decide (t + 64 * flitTime ≤ d.time.elapsed)

/-- The dateline class of a waiting flit (R260, R272). -/
def OutFlit.class_ (o : OutFlit) : Nat := flitAt o.flit 5 1 / 4 % 2

/-- The heads of the buffers of a port, CTRL first (R277): each channel has one for each dateline class, class 1 first (log 101). -/
def Dev.heads (d : Dev) (q : Port) : List OutFlit :=
  (List.range 8).filterMap fun i => q.out.find? fun o => o.chan == i / 2 && o.class_ != i % 2 && d.mayGrant o

/-- The flit that the output arbiter grants next (R277): a head that has waited 256 flit times, else the first channel's. -/
def Dev.granted (d : Dev) (q : Port) : Option OutFlit :=
  let h := d.heads q
  match h.find? fun o => decide (256 ≤ o.waited) with
  | some o => some o
  | none => h.head?

/-- The waiting flits of a port after a grant: the heads of the other channels have waited one flit time more. -/
def Dev.afterGrant (d : Dev) (q : Port) (g : OutFlit) : List OutFlit :=
  let h := (d.heads q).filter (· != g)
  (q.out.erase g).map fun o => if h.contains o then { o with waited := o.waited + 1 } else o

/-- One flit time of a port: it sends the flit granted, or IDLE with nothing to send, and nothing while 4,096 flits are not
acknowledged (R262, R277). -/
def Dev.pumpPort (d : Dev) (p : Nat) : Dev :=
  match d.port p with
  | none => d
  | some q =>
    if q.state != .up || replayCap ≤ q.replay.length then d
    else
      match d.granted q with
      | none => d.sendFlit p (bareFlit 0)
      | some g =>
        let d := d.onPort p fun r => { r with out := d.afterGrant q g }
        let d : Dev := if g.own && g.chan == 0 then { d with fabric := { d.fabric with ctrlLast := some d.time.elapsed } } else d
        d.sendFlit p g.flit

/-- The flit times of every port that end within a span of elapsed time. -/
def Dev.pump (units : Nat) (d : Dev) : Dev :=
  (List.range 12).foldl (fun d p => match d.port p with
    | some q => if cyclesIn d.time.elapsed units q.flitUnits = 0 then d else d.pumpPort p
    | none => d) d

/-- NAK (R263): the sender resends from the named flit; the eighth NAK of one SEQ moves the port to RETRAIN. PORT_COUNTERS counts the
NAKs received: R298 does not say which way (DESIGN CHOICE, log 106). -/
def Dev.nak (p : Fin 12) (seq : BitVec 16) (d : Dev) : Dev :=
  match d.port p.val with
  | none => d
  | some q =>
    if q.state != .up then d
    else
      let n := if q.nakSeq == seq then q.nakCount + 1 else 1
      let d := d.onPort p.val fun q => { q.acked seq with
        nakSeq := seq, nakCount := n, counters := { q.counters with naks := satAdd 64 q.counters.naks 1 } }
      if 8 ≤ n then d.retrain p.val else d.resendFrom p.val seq

/-- A flit with RESTART set (R260). -/
def restartFlit (f : BitVec 2048) : BitVec 2048 := flitOf (spliceBytes (flitBytes f) 7 (leBytes 1 (flitAt f 7 1 ||| 4)))

/-- MESSAGE_RESTART (R279): a message that a link, here or on the way, left with flits of begins again at OFFSET 0 under its tag,
RESTART set on its first flit. -/
def Dev.messageRestart (tag : Word32) (d : Dev) : Dev :=
  match d.fabric.messages.find? fun m => m.tag == tag.toNat with
  | none => d
  | some m =>
    let own := fun (o : OutFlit) => flitType o.flit == 1 && flitSrc o.flit == d.ownAddr && flitTag o.flit == m.tag
    let d : Dev := { d with fabric := { d.fabric with
      ports := d.fabric.ports.map fun q => { q with out := q.out.filter fun o => !own o } } }
    (m.flits.zipIdx).foldl (fun d p => d.queueFlit none m.adaptive (if p.2 = 0 then restartFlit p.1 else p.1)) d

/-! ## Time (R281, R282) -/

/-- A step of device time to the followed time, logged (R282). -/
def Dev.stepTime (d : Dev) (by_ : Int) : Dev :=
  let d := { d with time := { d.time with offset := d.time.offset + by_ } }
  d.event 0xE040 0 0 0 (BitVec.ofInt 64 by_)

/-- A correction in one exchange of 1 ms: at most 500 ppm (R282). -/
def slewOf (offset : Int) : Int := max (-500) (min 500 offset)

/-- A master takes the time of its own source (R282): it steps once on entry when it is more than 1 ms off, and else slews by
at most `bound`. -/
def Dev.followSource (d : Dev) (offset bound : Int) : Dev :=
  let due := d.fabric.stepDue
  let d : Dev := { d with fabric := { d.fabric with stepDue := false } }
  if due && decide (1000000 < offset.natAbs) then d.stepTime offset
  else { d with time := { d.time with offset := d.time.offset + max (-bound) (min bound offset) } }

/-- The own time source has become valid or ceased to be: the record says so, and the time master is chosen anew (R281). -/
def Dev.sourceChanged (d : Dev) : Dev := (if d.ownAddr == noAddr then d else d.flood []).electMaster

/-- TIME_EXCHANGE (R281, R282): a MASTER follows an IEEE 1588 source of its own; on entry to SYNCED device time steps when it is
more than 1 ms off; otherwise it slews. -/
def Dev.timeExchange (offset : Int) (good ptp : Bool) (d : Dev) : Dev :=
  let changed := d.fabric.ptpValid != ptp
  let d : Dev := { d with fabric := { d.fabric with ptpValid := ptp } }
  let d := if changed then d.sourceChanged else d
  if d.fabric.timeState == .master then (if ptp then d.followSource offset 500 else d)
  else
    let entering := good && d.fabric.timeState != .synced
    let next : TimePhase := if good then .synced else .syncing
    let d := { d with fabric := { d.fabric with timeState := next } }
    if entering && decide (1000000 < offset.natAbs) then d.stepTime offset
    else { d with time := { d.time with offset := d.time.offset + slewOf offset } }

/-! ## Retiring as UNFIT (R295, R387, R249) -/

/-- ACTIVE and SPARE slots together (R387). -/
def Dev.fitSlots (d : Dev) : Nat := (d.slots.filter fun t => t.spare == .active || t.spare == .spare).length

/-- Whether the device is to retire itself as UNFIT now (R249, R387). -/
def Dev.unfitNow (d : Dev) : Bool :=
  d.mesh.broken || (d.units.unfitDue && d.noJob) || decide (d.fitSlots < (if d.fuses.grade = 2 then 57 else 68))

/-- Every port in DOWN, with the leave of each link that stood (R270). -/
def Dev.linksDown (d : Dev) : Dev :=
  let d := (List.range 12).foldl (fun d p => if (d.port p).any Port.joined then d.eventNamed .linkLeave 4 p else d) d
  { d with fabric := { d.fabric with ports := d.fabric.ports.map Port.fallen, mismatch := [] } }

/-- UNFIT (R295): jobs halt as for DEVICE_LOST, LEAVE goes out on every UP port, and every port stays in DOWN. -/
def Dev.unfit (d : Dev) : Dev :=
  if !d.unfitNow || d.units.unfit || !d.power.main then d
  else
    let d := (List.finRange 64).foldl (fun d j => match d.job j with
      | some job => if job.fault.isNone then d.loseJob 0x0703 j else d
      | none => d) d
    let d := (List.range 12).foldl (fun d p => if d.portUp p then d.send (.leave p) else d) d
    let d : Dev := { d.linksDown with units := { d.units with unfit := true, unfitDue := false } }
    d.eventOpen 0xE00C 0 0

end Sys2Proof.Machine
end

