-- ==== Sys2Proof/Machine/Barrier.lean ====
section
/-!
DEFINITION. The passing of time, and barriers (07_croft_instruction_set.md R217; 09_fohal_scale_out.md R283 to R285).
-/

namespace Sys2Proof.Machine

/-! ## Time -/

/-- A croft's generators stepped by the cycles of its island (04_lane_generators.md R110). -/
def LaneSet.free (n : Nat) (l : LaneSet) : LaneSet :=
  if l.ready then { l with gens := l.gens.map (genSteps l.family n) } else l

/-- Elapsed time passing by a number of units, in which every island in Run counts its cycles (01_croft_anatomy.md R35)
and the generators of a free-mode job step (R110); a stretched island runs at half rate (R454), and an emergency stops every croft clock
(R449). -/
def Dev.pass (units : Nat) (d : Dev) : Dev :=
  let len := cycleUnits d.power.level.val
  let count := fun (t : Slot) =>
    if d.emergency then 0 else cyclesIn d.time.elapsed units (if t.stretched then 2 * len else len)
  let slots := d.slots.map fun t =>
    if t.island == .run then { t with cycles := t.cycles + BitVec.ofNat 64 (count t) } else t
  let crofts := d.crofts.map fun x =>
    let free := (d.job x.job).any fun j => j.params.laneFree
    match x.slot.bind d.slot with
    | some t => if free && t.island == .run then { x with lanes := x.lanes.map (LaneSet.free (count t)) } else x
    | none => x
  let throttled := if d.power.level.val = 0 then 0 else (d.time.elapsed + units) / unitsPerNs - d.elapsedNs
  { d with
    time := { d.time with elapsed := d.time.elapsed + units }, slots := slots, crofts := crofts
    power := { d.power with levelNs := satAdd 64 d.power.levelNs throttled } }

/-- Time brought forward to a device time; unchanged when that has been reached. -/
def Dev.passTo (t : Nat) (d : Dev) : Dev :=
  if t ≤ d.now then d else d.pass (((t : Int) - d.time.offset).toNat * unitsPerNs - d.time.elapsed)

/-! ## Arrivals (R217, R283) -/

/-- Whether a generation is still counting for a barrier of a job. -/
def Bar.counts (b : Bar) (implicit : Bool) (j : Fin 64) (jobScope : Bool) (num : Fin 16) : Bool :=
  b.implicit == implicit && b.job == j && b.jobScope == jobScope && b.num == num && b.release.isNone

/-- A generation with nothing arrived yet. -/
def Bar.new (implicit : Bool) (j : Fin 64) (jobScope : Bool) (num : Fin 16) (parties : Nat) : Bar where
  implicit := implicit
  job := j
  jobScope := jobScope
  num := num
  gen := 0
  took := []
  count := 0
  parties := parties
  fresh := []
  waiting := []
  release := none

/-- The generation that counts an arrival now: the open one, or a new one. -/
def Dev.openBar (d : Dev) (implicit : Bool) (j : Fin 64) (jobScope : Bool) (num : Fin 16) (parties : Nat) : Bar :=
  (d.bars.find? fun b => b.counts implicit j jobScope num).getD (Bar.new implicit j jobScope num parties)

/-- The device with a counting generation of a barrier replaced. -/
def Dev.putBar (d : Dev) (b : Bar) : Dev :=
  let old := fun (q : Bar) => q.counts b.implicit b.job b.jobScope b.num && q.gen == b.gen
  { d with bars := if d.bars.any old then d.bars.map (fun q => if old q then b else q) else d.bars ++ [b] }

/-- Hops between two fabric addresses: along the torus, or the shortest legal path of the database (R272, R273). -/
def Dev.hopsBetween (d : Dev) (a b : Nat) : Nat :=
  if d.routesTorus then
    let s := d.coordOf a
    let t := d.coordOf b
    let n := d.live.dims
    (torusSteps n.1 s.1 t.1).1 + (torusSteps n.2.1 s.2.1 t.2.1).1 + (torusSteps n.2.2 s.2.2 t.2.2).1
  else (distTo (legalBfs d.links d.levels (2 * d.records.length) 0 [(a, false, 0)] [(a, false)]) b).getD 0

/-- The one-way cable delay of a port (R266), in 2^-6 ns. -/
def Port.cableDelay (q : Port) : Nat := (q.rtt - 180 * 64 - leAt q.partner 0x14 4 - leAt q.partner 0x18 4) / 2

/-- The mesh route between the Square and a port (R235, R239), in 2^-6 ns: none to the north ring die, which the hub is on, and to
the south one (5, 0) to (5, 9) with the hub port, that is 4 + 2 × 4 + 6 × 6 mc. -/
def squareTicks (south : Bool) : Nat := if south then 48 * 32 else 0

/-- The one-way unloaded latency between two devices (R280), in 2^-6 ns, each hop two ring crossbars of 8 mc, TX, RX and the cable,
each intermediate device 20 or 45 ns. A cable that this device measures has its delay; the other cables, and the ports of the
other devices, are free (log 27). -/
def Dev.unloadedTicks (d : Dev) (a b hops : Nat) : Nat :=
  let first := (d.fabric.routes.find? fun r => r.dest == b).map (·.primary)
  let mine := fun (p : Nat) => (d.port p).getD Port.reset
  let own := if a = d.ownAddr then first else none
  let cable := fun (i : Nat) => match own with
    | some p => if i = 0 then (mine p).cableDelay else Config.cableTicks a b i
    | none => Config.cableTicks a b i
  let leaves := match own with
    | some p => decide (6 ≤ p)
    | none => Config.southPort a b false
  let arrives := match own with
    | some p => if hops = 1 then decide (6 ≤ leAt (mine p).partner 0xA 1) else Config.southPort a b true
    | none => Config.southPort a b true
  squareTicks leaves + squareTicks arrives
    + ((List.range hops).map fun i => 2 * 8 * 32 + 180 * 64 + cable i).sum
    + ((List.range (hops - 1)).map fun i => (if Config.crossesMesh a b i then 45 else 20) * 64).sum

/-- The CTRL bound from one device to another (R280), in whole ns: the unloaded latency, and 0.2 µs for each hop. -/
def Dev.ctrlBound (d : Dev) (a b : Nat) : Nat :=
  let hops := d.hopsBetween a b
  if hops = 0 then 0 else ceilDiv (d.unloadedTicks a b hops) 64 + 200 * hops

/-- The CTRL bound from logical device 0 to a device of a job along the tree (R283); the fuel bounds the depth. -/
def Dev.treeBound (d : Dev) (job : Job) : Nat → Nat → Nat
  | 0, _ => 0
  | fuel + 1, v =>
    if v = 0 then 0
    else d.treeBound job fuel (treeParent v) + d.ctrlBound (job.devs.getD (treeParent v) 0) (job.devs.getD v 0)

/-- BARRIER_LEAD (R283). -/
def Dev.barrierLead (d : Dev) (job : Job) : Nat :=
  1000 + (List.range job.params.devices).foldl (fun m v => max m (d.treeBound job 16 v)) 0

/-- T_rel of a generation that is complete now: 200 ns in device scope, BARRIER_LEAD in job scope (R217, R283). -/
def Dev.releaseTime (d : Dev) (b : Bar) (job : Job) : Nat := d.now + if b.jobScope then d.barrierLead job else 200

/-- A generation with its new count entered: complete when it reaches PARTIES at the counting Square, in which case the
next generation opens with what is left over (R217, R283). PARTIES = 0, for which the manual names no fault, releases at once
and leaves its arrival to the next generation (DESIGN CHOICE, log 91). -/
def Dev.countBar (d : Dev) (job : Job) (b : Bar) : Dev :=
  let root := !b.jobScope || job.params.ldev == 0
  if !root || b.count < b.parties then d.putBar b
  else
    let t := d.releaseTime b job
    let d := d.putBar { b with release := some t, count := b.parties }
    let d := if b.jobScope && 1 < job.params.devices then d.send (.barrier b.job b.implicit b.num false b.parties t) else d
    let rest := b.count - b.parties
    if rest = 0 then d
    else d.putBar { Bar.new b.implicit b.job b.jobScope b.num b.parties with count := rest }

/-- BAR_MISMATCH in every waiting croft of a generation (R217), the lowest logical croft first, which the record names (R227). -/
def Dev.barMismatch (d : Dev) (j : Fin 64) (waiting : List (Fin 256)) : Dev :=
  if waiting.isEmpty then d.jobFault j 0x0208 none
  else ((List.finRange 256).filter fun n => waiting.contains n).foldl (fun d n => match d.croft ⟨j, n⟩ with
    | some x => d.croftFault ⟨j, n⟩ 0x0208 (x.seq.pc - 1)
    | none => d) d

/-! ## Implicit arrivals (R285) -/

/-- The arrivals that an implicit generation may still take from a logical device: one of this device's own, and as many as the
subtree of a child holds devices. -/
def Bar.left (b : Bar) (devices ldev who : Nat) : Nat :=
  (if who = ldev then 1 else subtreeSize devices who) - ((b.took.filter fun p => p.1 == who).map (·.2)).sum

/-- The implicit generation that takes the next arrival from a logical device: the oldest open one with room for it, or a new one.
Each device makes one arrival in a generation, and its arrivals come in order (R278, log 26). -/
def Dev.implicitBar (d : Dev) (j : Fin 64) (devices ldev who : Nat) : Bar :=
  let mine := d.bars.filter fun b => b.counts true j true 0
  (mine.find? fun b => 0 < b.left devices ldev who).getD
    { Bar.new true j true 0 devices with gen := mine.foldl (fun m b => max m (b.gen + 1)) 0 }

/-- Arrivals from a logical device at the implicit barrier of a job, for the crofts that wait for it here. -/
def Dev.implicitArrivals (j : Fin 64) (job : Job) (who : Nat) (ns : List (Fin 256)) : Nat → Dev → Dev
  | 0, d => d
  | k + 1, d =>
    let b := d.implicitBar j job.params.devices job.params.ldev who
    let root := job.params.ldev == 0
    Dev.implicitArrivals j job who ns k (d.countBar job { b with
      count := b.count + 1
      took := b.took ++ [(who, 1)]
      fresh := if root then b.fresh else b.fresh ++ ns
      waiting := if root then b.waiting ++ ns else b.waiting })

/-- The implicit arrival of this device at a launch of a multi-device job (R285), for the crofts named. -/
def Dev.implicitBarrier (d : Dev) (j : Fin 64) (job : Job) (ns : List (Fin 256)) : Dev :=
  Dev.implicitArrivals j job job.params.ldev ns 1 d

/-- BARRIER_ARRIVAL (R217, R283). A croft's arrival is the one it waits to make; a subtree's comes from a child of this
device in the tree. -/
def Dev.barrierArrival (j : Fin 64) (jobScope : Bool) (num : Fin 16) (parties : Nat) (who : Arriver) (d : Dev) : Dev :=
  match d.job j with
  | none => d
  | some job =>
    match who with
    | .croft n =>
      match d.croft ⟨j, n⟩ with
      | none => d
      | some x =>
        if x.seq.state != .barrier jobScope num.val parties false then d
        else
          let d := d.setCroft { x with seq := { x.seq with state := .barrier jobScope num.val parties true } }
          let d := d.control job (d.granaryPlace ⟨j, n⟩) .hub
          let b := d.openBar false j jobScope num parties
          if b.parties != parties then d.barMismatch j (n :: b.fresh ++ b.waiting)
          else
            let root := !jobScope || job.params.ldev == 0
            d.countBar job { b with
              count := b.count + 1
              fresh := if root then b.fresh else b.fresh ++ [n]
              waiting := if root then b.waiting ++ [n] else b.waiting }
    | .subtree dev arrivals implicit =>
      if !jobScope || job.params.devices ≤ dev || dev == 0 || treeParent dev != job.params.ldev then d
      else if implicit then
        let b := d.implicitBar j job.params.devices job.params.ldev dev
        if parties != b.parties then d.barMismatch j (b.fresh ++ b.waiting) else Dev.implicitArrivals j job dev [] arrivals d
      else
        let b := d.openBar false j true num parties
        if b.parties != parties then d.barMismatch j (b.fresh ++ b.waiting)
        else d.countBar job { b with count := b.count + arrivals }

/-- BARRIER_FORWARD (R283): up, this device's arrivals and those of its subtree go to its parent; down, T_rel comes
from it and goes on to its children. A T_rel that has passed is logged (R284). -/
def Dev.barrierForward (j : Fin 64) (num : Fin 16) (dir : TreeDir) (d : Dev) : Dev :=
  match d.job j with
  | none => d
  | some job =>
    if job.params.ldev = 0 then d
    else
      let implicit := match dir with
        | .up i => i
        | .down _ i => i
      let mine := d.bars.filter fun b => b.counts implicit j true num
      let pick : Option Bar := match dir with
        | .up _ => mine.find? fun b => b.count != 0
        | .down _ _ => mine.head?
      match pick with
      | none => d
      | some b =>
        match dir with
        | .up _ => (d.putBar { b with count := 0, fresh := [], waiting := b.waiting ++ b.fresh }).send
            (.barrier j implicit num true b.parties b.count)
        | .down t _ =>
          let d := d.putBar { b with release := some t, count := 0, fresh := [] }
          let d := if b.count = 0 && b.fresh.isEmpty then d
            else d.putBar { Bar.new b.implicit j true num b.parties with count := b.count, fresh := b.fresh, gen := b.gen }
          let d := d.send (.barrier j implicit num false b.parties t)
          if t < d.now then d.eventNamed .barrierLate 0 0 else d

/-- The signal of a SYNC.BAR at its release (R207). Its step boundary is recorded, so a replay of the step that follows
does not undo it (R215). -/
def Croft.barSignal (x : Croft) (index : Nat) : Did :=
  let w := x.wordAt index
  if !InstrWord.sigEn w then .ok x
  else if x.semOverflows (InstrWord.sigSem w) 1 then .fault 0x0206 index
  else .ok (x.addSem (InstrWord.sigSem w) 1 false)

/-- A croft leaving its barrier: SYNC.BAR completes with its signal (R207, R217); a launch begins its issue (R285). -/
def Dev.leaveBarrier (d : Dev) (c : CroftRef) (implicit : Bool) : Dev :=
  match d.croft c with
  | none => d
  | some x =>
    match x.seq.state with
    | .barrier _ _ _ true =>
      let y : Croft := { x with seq := { x.seq with state := .running } }
      let d := match d.job c.job with
        | some job => d.control job .hub (d.granaryPlace c)
        | none => d
      if implicit then d.setCroft y
      else (d.apply c (y.barSignal (x.seq.pc - 1))).settle c
    | _ => d

/-- BARRIER_RELEASE (R217, R283, R284): the oldest complete generation of the barrier reaches T_rel, and its crofts
leave. A device that is not SYNCED logs it in a job of several devices. -/
def Dev.barrierRelease (j : Fin 64) (jobScope : Bool) (num : Fin 16) (d : Dev) : Dev :=
  match d.job j, d.bars.find? fun b => b.job == j && b.jobScope == jobScope && b.num == num && b.release.isSome with
  | some job, some b =>
    let d := d.passTo (b.release.getD 0)
    let d : Dev := { d with bars := d.bars.erase b }
    let unsynced := jobScope && 1 < job.params.devices && d.fabric.timeState != .synced && d.fabric.timeState != .master
    let d := if unsynced then d.eventNamed .timeUnsynced 0 0 else d
    b.waiting.foldl (fun d n => d.leaveBarrier ⟨j, n⟩ b.implicit) d
  | _, _ => d

end Sys2Proof.Machine
end

