-- ==== Sys2Proof/Machine/Queues.lean ====
section
/-!
DEFINITION. Queue pairs: control blocks, doorbells, fetch with the acceptance of a command and the opening of its job,
and completion entries (10_queues_and_hub.md R304 to R315, R318 to R322, R327).
-/

namespace Sys2Proof.Machine

/-! ## Control blocks (R304 to R306) -/

/-- A queue; one that nothing has touched is as after reset. -/
def Dev.queue (d : Dev) (q : Fin 16384) : Queue := ((d.queues.find? fun p => p.1 == q).map (·.2)).getD Queue.reset

/-- The device with a queue replaced. -/
def Dev.setQueue (d : Dev) (q : Fin 16384) (v : Queue) : Dev :=
  { d with queues := if d.queues.any (fun p => p.1 == q) then d.queues.map (fun p => if p.1 == q then (q, v) else p)
      else d.queues ++ [(q, v)] }

/-- CONFIG as it reads (R305). -/
def Queue.config (v : Queue) : Nat :=
  v.enable.toNat * 2 ^ 31 + v.error.toNat * 2 ^ 30 + v.cls.toNat * 2 ^ 28 + v.prio.toNat * 2 ^ 25 + v.irqEn.toNat * 2 ^ 24
    + v.sqLog2.toNat * 2 ^ 19 + v.cqLog2.toNat * 2 ^ 14 + v.draining.toNat * 2 ^ 13

/-- The bits of IRQ_VECTOR that are not reserved (R304). -/
def irqVectorMask : Word32 := 0x801F07FF

/-- Commands of a queue in flight (R309). -/
def Dev.busyOf (d : Dev) (q : Fin 16384) : Nat := (d.cmds.filter fun c => c.queue == q).length

/-- Whether a ring keeps R304 and R306: its base a multiple of 4,096 in the HBM3E range, every byte backed. -/
def Dev.ringOk (d : Dev) (base : Word64) (n : Nat) : Bool :=
  base.toNat % 4096 == 0 && base.toNat + n ≤ 12 * 2 ^ 36 && !outsideTiers base.toNat n && !d.units.unbackedIn base.toNat n

/-- The conditions of R306 that a control block must meet at its enable. -/
def Dev.queueOk (d : Dev) (v : Queue) : Bool :=
  v.cls != 3 && v.sqLog2.toNat ≤ 16 && v.cqLog2.toNat ≤ 16
    && d.ringOk v.sqBase (128 * 2 ^ v.sqLog2.toNat) && d.ringOk v.cqBase (32 * 2 ^ v.cqLog2.toNat)
    && !(v.irqEn && v.irqVector.toNat % 2 ^ 11 == 0)

/-- A queue fault (R327): ERROR and ERROR_CODE, with its record in the event log. -/
def Dev.queueFault (d : Dev) (q : Fin 16384) (code : Nat) : Dev :=
  (d.setQueue q { d.queue q with error := true, errorCode := BitVec.ofNat 32 code }).commandFault code

/-- The fields of CONFIG other than ENABLE as a write sets them (R305). -/
def Queue.setFields (v : Queue) (w : Word32) : Queue :=
  { v with
    cls := w.extractLsb' 28 2, prio := w.extractLsb' 25 3, irqEn := w.getLsbD 24
    sqLog2 := w.extractLsb' 19 5, cqLog2 := w.extractLsb' 14 5 }

/-- The queue of a write that sets ENABLE (R306). -/
def Queue.enabled (v : Queue) (w : Word32) : Queue :=
  { v.setFields w with
    enable := true, sqHead := 0, sqTail := 0, cqHead := 0, cqTail := 0, error := false, errorCode := 0, waitSince := none }

/-- A write of CONFIG (R305, R306). -/
def Dev.writeConfig (q : Fin 16384) (w : Word32) (d : Dev) : Dev :=
  let v := d.queue q
  let on := w.getLsbD 31
  if v.enable then
    if on then d else d.setQueue q { v with enable := false, draining := decide (0 < d.busyOf q), waitSince := none }
  else if !on then d.setQueue q (v.setFields w)
  else if v.draining then d
  else
    let u := v.enabled w
    let e := d.setQueue q u
    if d.queueOk u then e else e.queueFault q 0x010E

/-! ## Doorbells (R307, R308) -/

/-- The time since which the head entry of a queue waits for its fetch (R310). -/
def Queue.waits (u : Queue) (now : Nat) : Queue :=
  { u with waitSince := if !u.enable || u.sqHead == u.sqTail then none else some (u.waitSince.getD now) }

/-- SUBMISSION_DOORBELL (R308, R310). -/
def Dev.submissionDoorbell (q : Fin 16384) (v : Word32) (d : Dev) : Dev :=
  let u := d.queue q
  if !u.enable || u.error || v == u.sqTail then d
  else if (v - u.sqHead).toNat ≤ 2 ^ u.sqLog2.toNat && v - u.sqTail ≤ v - u.sqHead then
    d.setQueue q (Queue.waits { u with sqTail := v } d.time.elapsed)
  else d.queueFault q 0x010F

/-- COMPLETION_DOORBELL (R308, R321): an accepted value also lets the next interrupt go. -/
def Dev.completionDoorbell (q : Fin 16384) (v : Word32) (d : Dev) : Dev :=
  let u := d.queue q
  if !u.enable then d
  else if v - u.cqHead ≤ u.cqTail - u.cqHead then d.setQueue q { u with cqHead := v, irqSent := false }
  else if u.error then d
  else d.queueFault q 0x010F

/-! ## Submission entries (R311, R315) -/

/-- A field of a submission entry. -/
def Cmd.arg (c : Cmd) (off n : Nat) : Nat := leAt c.entry off n

/-- JOB of a submission entry (R311). -/
def Cmd.handle (c : Cmd) : Nat := c.arg 8 4

/-- ORDERED of a submission entry (R311). -/
def Cmd.ordered (c : Cmd) : Bool := bitOf (c.arg 1 1) 0

/-- The operand bytes of each command, as (offset, size) (R315); none for a reserved OPCODE. -/
def operandBytes (opcode : Nat) : Option (List (Nat × Nat)) :=
  match opcode with
  | 0x01 => some [(0x20, 8), (0x30, 32)]
  | 0x02 => some [(0x20, 32)]
  | 0x03 => some [(0x20, 56)]
  | 0x04 => some [(0x20, 18), (0x38, 16)]
  | 0x05 => some [(0x20, 8)]
  | 0x06 => some [(0x20, 40)]
  | 0x07 => some [(0x20, 1)]
  | 0x08 => some []
  | 0x09 => some [(0x20, 12)]
  | _ => none

/-- The reserved bytes of the header (R311). -/
def headerReserved : List Nat := [2, 3, 0xC, 0xD, 0xE, 0xF, 0x18, 0x19, 0x1A, 0x1B, 0x1C, 0x1D, 0x1E, 0x1F]

/-- Whether a reserved byte of an entry is not zero (R311, R315). -/
def reservedBytesSet (entry : List Byte) (used : List (Nat × Nat)) : Bool :=
  let set := fun (i : Nat) => entry.getD i 0 != 0
  headerReserved.any set
    || (rangeFrom 0x20 0x60).any fun i => set i && !used.any fun u => u.1 ≤ i && i < u.1 + u.2

/-- An address that keeps R315: in a memory tier, a multiple of 32. -/
def addressOk (a : Nat) : Bool := a % 32 == 0 && inTiers a

/-- The device addresses of a command that must keep R315, whether or not it uses them. COPY names memory references instead. -/
def Cmd.addresses (c : Cmd) : List Nat :=
  match c.opcode with
  | 0x01 => [c.arg 0x20 8]
  | 0x03 => [c.arg 0x20 8, c.arg 0x50 8]
  | 0x04 => [c.arg 0x38 8, c.arg 0x40 8]
  | 0x05 => [c.arg 0x20 8]
  | 0x06 => [c.arg 0x28 8, c.arg 0x30 8, c.arg 0x38 8, c.arg 0x40 8]
  | 0x09 => [c.arg 0x20 8]
  | _ => []

/-- Whether a memory reference of a COPY breaks the form of its field or the address rule (07_croft_instruction_set.md R203;
R315): a reserved bit set, or a device address outside the memory tiers or not a multiple of 32. -/
def refFormBad (w : Nat) : Bool := bitsOf w 43 19 != 0 || (bitsOf w 62 2 == 0 && !addressOk (bitsOf w 0 43))

/-- Operands out of the form R315 and R316 give, apart from addresses: a memory reference of COPY, a FENCE SCOPE, a MULTICAST LENGTH or DST, the
reserved bits of RUN_FLAGS, a CTX beyond 63, an E outside 1 .. 2^40 (the last two DEDUCED, log 23). -/
def Cmd.operandBad (c : Cmd) : Bool :=
  match c.opcode with
  | 0x02 => refFormBad (c.arg 0x20 8) || refFormBad (c.arg 0x28 8)
  | 0x03 =>
    let n := c.arg 0x2C 4
    let dst := c.arg 0x28 4
    n % 32 != 0 || n < 32 || 2 ^ 26 < n || dst % 32 != 0 || 2 ^ 26 < dst + n
  | 0x04 => c.arg 0x28 8 == 0 || 2 ^ 40 < c.arg 0x28 8
  | 0x06 => 8 ≤ c.arg 0x23 1 || 64 ≤ c.arg 0x22 1
  | 0x07 => 2 ≤ c.arg 0x20 1
  | _ => false

/-- SQE_OPCODE and SQE_FORMAT (R327). -/
def Cmd.formatFaults (c : Cmd) : List Nat :=
  match operandBytes c.opcode with
  | none => [0x0101]
  | some used =>
    when_ (2 ≤ c.arg 1 1 || reservedBytesSet c.entry used || c.handle == 0 || c.operandBad
      || c.addresses.any fun a => !addressOk a) 0x0102

/-! ## Jobs (R312, R313) -/

/-- The open job with a handle. -/
def Dev.jobOf (d : Dev) (handle : Nat) : Option (Fin 64) :=
  (List.finRange 64).find? fun j => match d.job j with
    | some q => q.params.handle.toNat == handle
    | none => false

/-- Whether the words of a job parameter block keep R312. Its reserved bytes and FLAGS [31:4] are ignored: R312 and R327 name no
fault for them (00_scope.md R7; DEDUCED, log 104). -/
def blockOk (b : List Byte) : Bool :=
  let devices := leAt b 0x2A 2
  1 ≤ leAt b 0x28 2 && leAt b 0x28 2 ≤ 256 && 1 ≤ devices && devices ≤ 20480 && leAt b 0x34 2 < devices && !(devices == 1 && leAt b 0x38 8 != 0)

/-- The fault codes of a parameter block and its device list (R253, R312, R379). A LAUNCH that would open a job of more than
20,480 devices names JOB_DEVICE instead of JOB_PARAM (09_fohal_scale_out.md R299; log 95). -/
def Dev.blockFaults (d : Dev) (a opcode : Nat) : List Nat :=
  if a % 64 != 0 || !inTiers a then [0x0104]
  else
    let lost := d.hubRange a 64 ++ when_ (meetsPoison d.memPoison a 64) 0x0A01
    if !lost.isEmpty then lost
    else
      let b := d.read a 64
      let n := leAt b 0x2A 2
      let l := leAt b 0x38 8
      if opcode = 1 && 20480 < n then [0x0702]
      else if !blockOk b then [0x0104]
      else if n = 1 then []
      else d.hubRange l (2 * n) ++ when_ (meetsPoison d.memPoison l (2 * n)) 0x0A01

/-- The parameters that a job opens with (R312, R313). -/
def Dev.jobParams (d : Dev) (handle addr : Nat) (cls : BitVec 2) : JobParams :=
  let b := d.read addr 64
  let fl := leAt b 0x2C 4
  { handle := BitVec.ofNat 32 handle, jpb := b, openAddr := addr, cls := cls, seed := BitVec.ofNat 64 (leAt b 0 8)
    family := bitOf fl 0, laneFree := bitOf fl 1, compat := bitOf fl 2, adaptive := bitOf fl 3
    staleness := leAt b 0x30 1, ldev := leAt b 0x34 2, crofts := leAt b 0x28 2, devices := leAt b 0x2A 2
    det := d.live.detEnable, plainSum := d.live.longSum == 1, bundle := d.boot.bundle, openTime := d.now }

/-- JOB_DEVICES of an opening job (R298, R312): the list, or the device's own address alone. -/
def Dev.jobDevices (d : Dev) (b : List Byte) : List Nat :=
  let n := leAt b 0x2A 2
  if n ≤ 1 then [d.ownAddr] else (List.range n).map fun i => leNat (d.read (leAt b 0x38 8 + 2 * i) 2)

/-- An empty ledger record (R364). -/
def Ledger.new (firmware : List (Nat × Word32 × List Byte)) : Ledger where
  commands := 0
  mapChanges := 0
  mismatches := 0
  discarded := 0
  overrides := 0
  refusals := 0
  firmware := firmware
  programs := []
  models := []
  maps := []
  flagged := []

/-- A job opened at its position (R313). -/
def Dev.openJob (d : Dev) (j : Fin 64) (handle addr : Nat) (cls : BitVec 2) : Dev :=
  let b := d.read addr 64
  let job : Job :=
    { params := d.jobParams handle addr cls, collKey := slice b 8 32, devs := d.jobDevices b, devLists := [(d.now, d.jobDevices b)], remaps := 0
      closing := false, fault := none, ledger := Ledger.new d.runningImages, colls := [], standing := [], bound := false }
  { d with jobs := d.jobs.set j.val (some job) }

/-- The lowest free job position (R37, R313). -/
def Dev.freePosition (d : Dev) : Option (Fin 64) := (List.finRange 64).find? fun j => (d.job j).isNone

/-- The fault codes of a command at its fetch that concern its job (R313, R443). -/
def Dev.jobFaults (d : Dev) (c : Cmd) (cls : BitVec 2) : List Nat :=
  let addr := c.arg 0x10 8
  match (d.jobOf c.handle).bind d.job with
  | some job =>
    when_ (addr != 0 && addr != job.params.openAddr) 0x0104 ++ when_ job.closing 0x0106 ++ when_ (job.params.cls != cls) 0x0107
  | none =>
    if addr = 0 then [0x0103]
    else d.blockFaults addr c.opcode ++ when_ d.freePosition.isNone 0x0105 ++ when_ d.power.standbyDue 0x0C04

/-- A command finished with a status other than success and no fault record (R322, R227). -/
def Cmd.failed (c : Cmd) (code : Nat) : Cmd := { c with state := .finished, status := code, result := 0, detail := 0 }

/-- The device list with which a command restarts its job (09_fohal_scale_out.md R297): the job halted by the loss of a device,
the command names the parameter block again, and the list as memory holds it now binds lost logical devices, and those alone, to
other devices. The manual names no command for the restart (DESIGN CHOICE, log 70). -/
def Dev.remapOf (d : Dev) (job : Job) (c : Cmd) : Option (List Nat) :=
  let devs := d.jobDevices job.params.jpb
  let gone := fun (a : Nat) => d.fabric.lost.contains a || !d.reaches a
  let lost := job.fault.any fun f => f.code == 0x0703 || f.code == 0x0701
  let moves := (job.devs.zip devs).all fun p => p.1 == p.2 || gone p.1
  if lost && 1 < job.params.devices && c.opcode != 9 && c.arg 0x10 8 == job.params.openAddr && devs != job.devs && moves
  then some devs else none

/-- A job restarted on a new device list (R297): JOB_DEVICES and the ledger take the change, and the job is halted no more. -/
def Dev.restartJob (d : Dev) (j : Fin 64) (devs : List Nat) : Dev :=
  let d := d.onJob j fun q =>
    { q with devs := devs, devLists := q.devLists ++ [(d.now, devs)], remaps := satAdd 32 q.remaps 1, fault := none }
  { d with crofts := d.crofts.map fun x =>
      if x.job == j && x.seq.state == .halted then { x with seq := { x.seq with state := .stopped } } else x }

/-- A fetched command taken in (R313, R322): refused with the lowest fault, aborted when its job has halted and the command does
not restart it (R297), or waiting, its job opened first when it was not open. A LEDGER_CLOSE closes its job to later
commands. -/
def Dev.accept (d : Dev) (c : Cmd) (cls : BitVec 2) : Dev :=
  let put := fun (d : Dev) (c : Cmd) => { d with cmds := d.cmds ++ [c] }
  match lowest (c.formatFaults ++ d.jobFaults c cls) with
  | some code => put (d.commandFault code) (c.failed code)
  | none =>
    match d.jobOf c.handle, d.freePosition with
    | some j, _ =>
      let d := match (d.job j).bind fun q => d.remapOf q c with
        | some devs => d.restartJob j devs
        | none => d
      let halted := (d.job j).any fun q => q.fault.isSome
      let c := { c with job := some j }
      if halted && c.opcode != 9 then put (d.commandFault 0x010D) (c.failed 0x010D)
      else if c.opcode = 9 then put (d.onJob j fun q => { q with closing := true }) c
      else put d c
    | none, some j =>
      let d := d.openJob j c.handle (c.arg 0x10 8) cls
      put (if c.opcode = 9 then d.onJob j fun q => { q with closing := true } else d) { c with job := some j, opener := true }
    | none, none => d

/-- Whether the queue engine may fetch from a queue (R309). -/
def Dev.fetches (d : Dev) (q : Fin 16384) : Bool :=
  let u := d.queue q
  u.enable && !u.error && u.sqHead != u.sqTail && d.cmds.length < 4096
    && d.busyOf q + (u.cqTail - u.cqHead).toNat < 2 ^ u.cqLog2.toNat

/-- The entry of a slot of the submission ring (R307). -/
def Dev.entryAt (d : Dev) (u : Queue) : List Byte :=
  d.read (u.sqBase.toNat + 128 * (u.sqHead.toNat % 2 ^ u.sqLog2.toNat)) 128

/-- A millisecond of elapsed time, in its units. -/
def msUnits : Nat := 1000000 * unitsPerNs

/-- Whether a queue's entry has waited 1 ms without a fetch (R310). -/
def Queue.overdue (u : Queue) (now : Nat) : Bool := u.waitSince.any fun t => decide (t + msUnits ≤ now)

/-- The turn of a queue in the round robin after queue `last` (R310): the queues follow in index order, `last` itself at the end. -/
def turnAfter (last q : Nat) : Nat := (q + 16383 - last) % 16384

/-- Whether the queue engine serves queue `a` before queue `b`, both able to fetch (R310): one that has waited 1 ms comes first,
the one that has waited longest before the others; then the higher PRIO; then the turn of the round robin within the PRIO. -/
def Dev.servedBefore (d : Dev) (a b : Fin 16384) : Bool :=
  let now := d.time.elapsed
  let u := d.queue a
  let v := d.queue b
  let turn := fun (q : Fin 16384) => turnAfter (d.hub.servedLast.getD (d.queue q).prio.toNat 16383) q.val
  if u.overdue now != v.overdue now then u.overdue now
  else if u.overdue now && u.waitSince != v.waitSince then decide (u.waitSince.getD 0 < v.waitSince.getD 0)
  else if u.prio != v.prio then decide (v.prio < u.prio)
  else decide (turn a < turn b)

/-- Whether another queue that may fetch is served first (R310). -/
def Dev.yields (d : Dev) (q : Fin 16384) : Bool :=
  d.queues.any fun p => p.1 != q && d.fetches p.1 && d.servedBefore p.1 q

/-- QUEUE_FETCH (R309, R310). The hub's queue engine runs while the device is powered; no job opens before the polynomial
checks of R123 have run. -/
def Dev.queueFetch (q : Fin 16384) (d : Dev) : Dev :=
  let u := d.queue q
  let c : Cmd := { id := d.nextCmd, queue := q, entry := d.entryAt u, job := none, state := .waiting, begun := false
                   fetched := d.time.elapsed, opener := false, startTime := 0, status := 0, cflags := 0, result := 0, detail := 0 }
  if !d.fetches q || !d.power.main || d.yields q || (d.boot.genKat == 0 && (d.jobOf c.handle).isNone) then d
  else
    let d := d.setQueue q (Queue.waits { u with sqHead := u.sqHead + 1, waitSince := none } d.time.elapsed)
    let served := d.hub.servedLast.set u.prio.toNat q.val
    Dev.accept { d with nextCmd := d.nextCmd + 1, hub := { d.hub with servedLast := served } } c u.cls

/-! ## Completion entries (R319 to R321) -/

/-- A command in flight. -/
def Dev.cmd (d : Dev) (id : Nat) : Option Cmd := d.cmds.find? fun c => c.id == id

/-- The device with a command in flight mapped. -/
def Dev.onCmd (d : Dev) (id : Nat) (f : Cmd → Cmd) : Dev :=
  { d with cmds := d.cmds.map fun c => if c.id == id then f c else c }

/-- A command finished with success. -/
def Dev.succeed (d : Dev) (id result : Nat) : Dev :=
  d.onCmd id fun c => { c with state := .finished, status := 0, result := BitVec.ofNat 64 result, detail := 0 }

/-- Whether a job holds nothing but the command that opened it, a LEDGER_CLOSE apart, whose job stays open (R313). -/
def Dev.onlyOpener (d : Dev) (c : Cmd) (j : Fin 64) : Bool :=
  c.opener && c.opcode != 9 && !(d.cmds.any fun q => q.id != c.id && q.job == some j) && !d.crofts.any fun x => x.job == j

/-- The opening of a job undone: the command that opened it has changed nothing (R322). -/
def Dev.unopen (d : Dev) (c : Cmd) (j : Fin 64) : Dev :=
  (Dev.onCmd { d with jobs := d.jobs.set j.val none } c.id) fun q => { q with job := none, opener := false }

/-- A command finished with a fault of its own (R322). DATA_LOST halts its job (13_checking_replay_test.md R398); any other halts
nothing and changes nothing, so a job that the command itself opened is open no more. DET_FORBIDDEN counts in the ledger of the
job, which stays open (12_determinism_and_ledger.md R361). -/
def Dev.fail (d : Dev) (id code : Nat) : Dev :=
  match (d.cmd id).bind fun c => c.job.map fun j => (c, j) with
  | none => (d.onCmd id fun c => c.failed code).commandFault code
  | some (c, j) =>
    if code = 0x0A01 then d.jobFault j 0x0A01 (some id)
    else
      let d := (d.onCmd id fun c => c.failed code).commandFault code
      if code = 0x0901 then d.onJob j fun q => { q with ledger := { q.ledger with refusals := satAdd 32 q.ledger.refusals 1 } }
      else if d.onlyOpener c j then d.unopen c j
      else d

/-- An interrupt delivered to an interrupt file (R303, R321): pending until a core takes it. -/
def Dev.interrupt (d : Dev) (vector : Word32) : Dev :=
  let i := (bitsOf vector.toNat 16 5, vector.getLsbD 31, bitsOf vector.toNat 0 11)
  if i.2.2 = 0 || d.irqs.contains i then d else { d with irqs := d.irqs ++ [i] }

/-- The 32 bytes of a completion entry (R319, R320). -/
def Cmd.completion (c : Cmd) (u : Queue) : List Byte :=
  let phase := !bitOf u.cqTail.toNat u.cqLog2.toNat
  slice c.entry 4 4 ++ leBytes 2 c.queue.val ++ leBytes 2 c.status ++ leBytes 4 (c.cflags.toNat + phase.toNat * 2 ^ 31)
    ++ leBytes 4 u.sqHead.toNat ++ leBytes 8 c.result.toNat ++ leBytes 8 c.detail.toNat

/-- A queue after a completion entry of it was written (R306, R321). -/
def Queue.completed (u : Queue) (left : Nat) : Queue :=
  { u with
    cqTail := u.cqTail + 1, commands := satInc u.commands, draining := u.draining && decide (0 < left)
    irqSent := u.irqSent || u.irqEn }

/-- A Granary left behind in its slot when its croft's job closes (01_croft_anatomy.md R43); a slot that is no longer ACTIVE goes
to Off then (R34). -/
def Dev.leaveSlot (d : Dev) (x : Croft) : Dev :=
  match x.slot with
  | some s => d.onSlot s (Slot.vacate x)
  | none => d

/-- A job closed: its crofts and its position are free (R313). -/
def Dev.closeJob (d : Dev) (j : Fin 64) : Dev :=
  let d := (d.crofts.filter fun x => x.job == j).foldl Dev.leaveSlot d
  let mine := fun (r : WellReq) => match r with
    | .lanes c _ => c.job == j
    | _ => false
  { d with
    crofts := d.crofts.filter fun x => x.job != j
    jobs := d.jobs.set j.val none
    bars := d.bars.filter fun b => b.job != j
    signals := d.signals.filter fun s => s.job != j
    well := { d.well with requests := d.well.requests.filter fun r => !mine r } }

/-- Whether an instruction still runs on a croft that a launch began on: a halt lets each unit finish what it runs first
(07_croft_instruction_set.md R226 step 3), so the launch's effects are not complete (R321). -/
def Dev.launchRuns (d : Dev) (c : Cmd) : Bool :=
  c.begun && d.crofts.any fun x => c.job == some x.job && c.names x.n && x.unitRuns

/-- A launch that took effect with all its crofts have reported (R320), what came after a halt among it. -/
def Dev.lastReport (d : Dev) (c : Cmd) : Cmd := if c.begun then { c with cflags := c.cflags ||| d.reportOf c } else c

/-- COMMAND_COMPLETION (R319 to R321): the entry of a finished command is written once its effects are complete. A LEDGER_CLOSE
that succeeded closes its job, and one that did not opens it to commands again (R313). -/
def Dev.commandCompletion (id : Nat) (d : Dev) : Dev :=
  match d.cmd id with
  | none => d
  | some c =>
    if c.state != .finished || d.launchRuns c then d
    else
      let c := d.lastReport c
      let u := d.queue c.queue
      let d := d.write (u.cqBase.toNat + 32 * (u.cqTail.toNat % 2 ^ u.cqLog2.toNat)) (c.completion u)
      let d : Dev := { d with cmds := d.cmds.filter fun q => q.id != id }
      let d := (d.setQueue c.queue (u.completed (d.busyOf c.queue))).hubTraffic
      let d := if u.irqEn && !u.irqSent then d.interrupt u.irqVector else d
      match c.job with
      | none => d
      | some j =>
        if c.opcode != 9 then d.onJob j fun q => { q with ledger := { q.ledger with commands := satAdd 64 q.ledger.commands 1 } }
        else if c.status = 0 then d.closeJob j
        else d.onJob j fun q => { q with closing := false }

end Sys2Proof.Machine
end

