-- ==== Sys2Proof/Machine/Commands.lean ====
section
/-!
DEFINITION. Starting a command, and LAUNCH, COPY, MULTICAST, FIELD_RUN, FENCE and TIMESTAMP (10_queues_and_hub.md R314 to
R318; 07_croft_instruction_set.md R220 to R223).
-/

namespace Sys2Proof.Machine

/-! ## Resources and start (R314, R316, R318, R363) -/

/-- The logical crofts a LAUNCH or FIELD_RUN names. -/
def Cmd.named (c : Cmd) : List (Fin 256) := (List.finRange 256).filter c.names

/-- Whether a croft of a list is still held by a LAUNCH or FIELD_RUN of its job that started before and has not completed: a
command completes when its entry is written (R309, R316). -/
def Dev.namesBusy (d : Dev) (c : Cmd) (j : Fin 64) : Bool :=
  d.cmds.any fun q => q.job == some j && (q.state == .running || (q.state == .finished && q.begun)) && q.id != c.id
    && c.named.any q.names

/-- Whether a command needs crofts. -/
def Cmd.launches (c : Cmd) : Bool := c.opcode == 1 || c.opcode == 6

/-- The ACTIVE slots that carry no logical croft, are kept for none that a test paused (13_checking_replay_test.md R389), and whose
generators were checked, in placement order (08_mesh_and_memory.md R242, 04_lane_generators.md R123). -/
def Dev.freeSlots (d : Dev) : List Nat :=
  placement.filter fun s =>
    d.slotIs s .active && (d.carried (Fin.ofNat 80 s)).isNone && (d.slots[s]?.map (·.checked)).getD false
      && !d.crofts.any fun x => x.paused && x.vacated == some (Fin.ofNat 80 s)

/-- The crofts of a list that are to be bound: without a slot, and not paused for a test, which keeps their slot (R389). -/
def Dev.unbound (d : Dev) (j : Fin 64) (ns : List (Fin 256)) : List (Fin 256) :=
  ns.filter fun n => match d.croft ⟨j, n⟩ with
    | some x => x.slot.isNone && !x.paused
    | none => true

/-- The slots for the unbound crofts of a list (R242): of the ACTIVE slots that carry no croft of another job, in placement
order, logical croft n takes the n-th when it is free, else the first free one, as far as there are free slots. -/
def Dev.pickSlots (d : Dev) (j : Fin 64) (ns : List (Fin 256)) : List (Fin 256 × Nat) :=
  let free := d.freeSlots
  let order := placement.filter fun s => free.contains s
    || (d.slotIs s .active && (d.carried (Fin.ofNat 80 s)).any fun x => x.job == j)
  let pick := fun (l : List (Fin 256 × Nat)) (n : Fin 256) =>
    let open_ := free.filter fun s => l.all fun p => p.2 != s
    match (order[n.val]?.filter open_.contains).or open_.head? with
    | some s => l ++ [(n, s)]
    | none => l
  (d.unbound j ns).foldl pick []

/-- Whether the croft set of a LAUNCH or FIELD_RUN breaks R316: empty, or naming a croft at or beyond N. -/
def Cmd.setBad (c : Cmd) (n : Nat) : Bool :=
  if c.opcode = 1 then c.named.isEmpty || c.named.any fun k => n ≤ k.val else n ≤ c.arg 0x20 2

/-- Whether Bailiff can bind the crofts a command names now: all of them together while the job fits the ACTIVE slots,
else at least one on a slot (R41, R314). A paused croft has its slot kept for it. No croft is bound, and no seeded launch
begins, before the polynomial checks have run (R123, R432). -/
def Dev.canBind (d : Dev) (c : Cmd) (j : Fin 64) (job : Job) : Bool :=
  let need := (d.unbound j c.named).length
  let free := d.freeSlots.length
  if d.boot.genKat = 0 then need = 0 && job.params.laneFree
  else need = 0 || (if job.params.crofts ≤ activeCount d.fuses.grade then need ≤ free
    else 0 < free || d.crofts.any fun x => x.job == j && x.slot.isSome)

/-- Whether an order of R318 holds a command: ORDERED behind the earlier commands of its queue, anything behind a FENCE. -/
def Dev.orderedBehind (d : Dev) (c : Cmd) : Bool :=
  d.cmds.any fun q => q.queue == c.queue && q.id < c.id && (c.ordered || (q.opcode == 7 && q.status == 0))

/-- Whether a command waits for crofts (R310, R314): a launch that has bound nothing yet, is held by no other command, and names
a croft that has no slot. -/
def Dev.wantsCrofts (d : Dev) (c : Cmd) : Bool :=
  c.launches && c.state != .finished && !c.begun && match c.job with
    | none => false
    | some j => (d.job j).any fun job => !c.setBad job.params.crofts && !d.orderedBehind c && !d.namesBusy c j
        && !(d.unbound j c.named).isEmpty

/-- Whether a command belongs to a job of the free class. -/
def Dev.freeClass (d : Dev) (c : Cmd) : Bool := (c.job.bind d.job).any fun job => job.params.cls == 2

/-- Whether Bailiff binds the crofts of launch `a` before those of launch `b`: a free-class one last (R363), one that has
waited 1 ms first, then by the PRIO of its queue, then by the round robin of the queues of one PRIO (R310); within one queue, and
among those that have waited 1 ms, in the order of fetch. -/
def Dev.boundBefore (d : Dev) (a b : Cmd) : Bool :=
  let late := fun (c : Cmd) => decide (c.fetched + msUnits ≤ d.time.elapsed)
  let prio := fun (c : Cmd) => (d.queue c.queue).prio
  let turn := fun (c : Cmd) => turnAfter (d.hub.boundLast.getD (prio c).toNat 16383) c.queue.val
  if d.freeClass a != d.freeClass b then d.freeClass b
  else if late a != late b then late a
  else if !late a && prio a != prio b then decide (prio b < prio a)
  else if late a || a.queue == b.queue then decide (a.id < b.id)
  else decide (turn a < turn b)

/-- A launch has bound its crofts: its queue goes to the end of the round robin (R310). -/
def Dev.tookTurn (d : Dev) (c : Cmd) : Dev :=
  { d with hub := { d.hub with boundLast := d.hub.boundLast.set (d.queue c.queue).prio.toNat c.queue.val } }

/-- Whether a launch that waits for crofts gives way to another that does (R310, R363). -/
def Dev.givesWay (d : Dev) (c : Cmd) : Bool :=
  d.wantsCrofts c && d.cmds.any fun q => q.id != c.id && d.wantsCrofts q && d.boundBefore q c

/-- Whether a launch may bind its crofts now (R310, R314, R363). -/
def Dev.bindsNow (d : Dev) (c : Cmd) (j : Fin 64) (job : Job) : Bool := d.canBind c j job && !d.givesWay c

/-- Whether the start of a LAUNCH or FIELD_RUN is held: by an emergency (R449), by an earlier launch of its crofts (R316), by a
warm boundary (R432), or for want of crofts. One whose croft set is at fault waits for none of them (R316). -/
def Dev.launchHeld (d : Dev) (c : Cmd) (j : Fin 64) (job : Job) : Bool :=
  !c.setBad job.params.crofts && (d.emergency || d.namesBusy c j || d.activationHolds || !d.bindsNow c j job)

/-- COMMAND_START (R318): the command's resources allow it. -/
def Dev.commandStart (id : Nat) (d : Dev) : Dev :=
  match d.cmd id with
  | none => d
  | some c =>
    if c.state != .waiting || d.orderedBehind c then d
    else
      match c.job with
      | none => d
      | some j =>
        match d.job j with
        | none => d
        | some job =>
          if c.launches && d.launchHeld c j job then d
          else d.onCmd id fun q => { q with state := .running, startTime := d.now }

/-- A command that has started and has not taken its effect, of the given OPCODE, with its job. -/
def Dev.started (d : Dev) (id opcode : Nat) : Option (Cmd × Fin 64 × Job) :=
  match d.cmd id with
  | none => none
  | some c => if c.state == .running && !c.begun && c.opcode == opcode then
      match c.job with
      | none => none
      | some j => (d.job j).map fun job => (c, j, job)
    else none

/-! ## LAUNCH (R220 to R223, R285, R299) -/

/-- The program image header (R220): INSTR_COUNT, LOAD_OFFSET and ENTRY. -/
structure Program where
  count  : Nat
  load   : Nat
  entry  : Nat
deriving DecidableEq, Repr

/-- The header of a program image. -/
def programOf (h : List Byte) : Program := ⟨leAt h 8 4, leAt h 0xC 4, leAt h 0x10 4⟩

/-- Whether a program image header breaks R220. -/
def programBad (h : List Byte) : Bool :=
  let p := programOf h
  leAt h 0 4 != 0x4C455650 || leAt h 4 2 != 3 || p.count < 1 || 2 ^ 22 < p.count || p.load % 32 != 0
    || p.count ≤ p.entry || granarySize < p.load + 16 * p.count

/-- The fault codes of a program image in device memory (R220, R253, R379). -/
def Dev.programFaults (d : Dev) (a : Nat) : List Nat :=
  let head := d.hubRange a 64 ++ when_ (meetsPoison d.memPoison a 64) 0x0A01
  if !head.isEmpty then head
  else
    let h := d.read a 64
    if programBad h then [0x0202]
    else
      let n := 16 * (programOf h).count
      d.hubRange (a + 64) n ++ when_ (meetsPoison d.memPoison (a + 64) n) 0x0A01

/-- Whether a MULTICAST's set of crofts is empty or names one at or beyond N (R316). -/
def setBad (ns : List (Fin 256)) (n : Nat) : Bool := ns.isEmpty || ns.any fun k => n ≤ k.val

/-- Whether a job's devices cannot all be reached, or one is named twice (R299). -/
def Dev.devicesBad (d : Dev) (job : Job) : Bool :=
  1 < job.params.devices && (job.devs.any (fun a => !d.reaches a) || job.devs.eraseDups.length != job.devs.length)

/-- Features of R360 that a LAUNCH or a FIELD_RUN requests in a job with the determinism bit. -/
def Job.detForbids (job : Job) (route : Bool) : Bool := job.params.det && (job.params.laneFree || (route && job.params.adaptive))

/-- Registers at launch (R197). -/
def launchCounts (n : Fin 256) (job : Job) : List Word32 :=
  [BitVec.ofNat 32 n.val, BitVec.ofNat 32 job.params.crofts, BitVec.ofNat 32 job.params.ldev, 0, 0, 0, 0, 0]

/-- The lane sets of a logical croft at its first launch (04_lane_generators.md R106, R116). -/
def launchLanes (n : Fin 256) (job : Job) : List LaneSet :=
  (List.range 5).map fun s =>
    ⟨job.params.seed, job.params.family, BitVec.ofNat 34 (firstLane job.params.ldev n.val s), 0, [], false⟩

/-- A sequencer with no program. -/
def Sequencer.idle : Sequencer where
  state := .stopped
  held := false
  claimed := false
  loadOffset := 0
  count := 0
  pc := 0
  areg := List.replicate 16 ⟨0, 0⟩
  cnt := List.replicate 8 0
  sems := List.replicate 32 0
  semOwn := List.replicate 32 0
  step := 0
  inStep := 0
  fieldDone := 0
  fieldSkip := 0
  nextSeq := 0
  signals := []
  replaying := false
  opening := false

/-- Units with nothing queued or running. -/
def Units.idle : Units where
  queues := List.replicate 9 []
  mill := List.replicate 4 none
  drain := List.replicate 4 none
  row := List.replicate 4 none
  field := none
  move := none
  mesh := none

/-- A logical croft as its first launch finds it (R221 step 2): Granary zero, contexts initialised with VALID = 0, tiles
closed, semaphores 0; the step record holds the same. -/
def Croft.first (j : Fin 64) (n : Fin 256) (job : Job) : Croft where
  job := j
  n := n
  slot := none
  home := none
  vacated := none
  granary := []
  poison := []
  lost := []
  ctxs := List.replicate 64 (Ctx.init false 0 0 0)
  seq := Sequencer.idle
  units := Units.idle
  weights := List.replicate 4 MillRegs.zero
  banks := List.replicate 4 []
  hand := List.replicate 4 ⟨none, []⟩
  lanes := launchLanes n job
  field := FieldSt.empty
  record := ⟨0, List.replicate 16 ⟨0, 0⟩, List.replicate 8 0, List.replicate 32 0, launchLanes n job,
    List.replicate 64 (Ctx.init false 0 0 0), List.replicate 4 [], List.replicate 4 ⟨none, []⟩, Tally.zero⟩
  report := 0
  tally := Tally.zero
  runs := []
  replays := 0
  failures := 0
  fencedBy := []
  paused := false

/-- The step record as the croft stands (R214). -/
def Croft.recordNow (x : Croft) : Croft :=
  { x with record := ⟨x.seq.pc, x.seq.areg, x.seq.cnt, x.seq.sems, x.lanes, x.ctxs, x.banks, x.hand, x.tally⟩ }

/-- A croft made ready to issue a program (R221 steps 3, 4 and 6): its instructions copied, its registers set, step 0
open. -/
def Croft.load (x : Croft) (job : Job) (p : Program) (code : List Byte) (st : SeqState) : Croft :=
  let x := x.write p.load code
  let seq : Sequencer :=
    { Sequencer.idle with
      state := st, loadOffset := p.load, count := p.count, pc := p.entry, cnt := launchCounts x.n job
      sems := x.seq.sems, nextSeq := x.seq.nextSeq }
  { x with seq := seq, report := 0, failures := 0, fencedBy := [] }.recordNow

/-- Crofts that a launch names for the first time, entered with their state of R221 step 2. -/
def Dev.enterCrofts (d : Dev) (j : Fin 64) (job : Job) (ns : List (Fin 256)) : Dev :=
  { d with crofts := d.crofts ++ (ns.filter fun n => (d.croft ⟨j, n⟩).isNone).map fun n => Croft.first j n job }

/-- A croft for which a launch found no free slot shares the slot that carries the fewest of its job (R41). -/
def Dev.giveHome (j : Fin 64) (d : Dev) (n : Fin 256) : Dev := d.onCroft ⟨j, n⟩ fun x => { x with home := d.sharedSlot j none }

/-- Whether a croft is bound and has neither its free-mode states nor a seeding request for them: the launch that bound it failed on
that request (R412). -/
def Dev.unseeded (d : Dev) (x : Croft) : Bool :=
  x.slot.isSome && !x.lanes.all (·.ready) && !d.well.requests.any fun r => match r with
    | .lanes c _ => c == ⟨x.job, x.n⟩
    | _ => false

/-- The named crofts bound as one change of the map (R37, R221 step 1, R242), as far as there are free slots, the rest to
share a slot in turn, those bound without states seeded again (R412), and the islands of those bound brought to Run. -/
def Dev.bindNamed (d : Dev) (j : Fin 64) (job : Job) (ns : List (Fin 256)) : Dev :=
  let pairs := d.pickSlots j ns
  let d := d.enterCrofts j job ns
  let d := pairs.foldl (fun d p => d.bind ⟨j, p.1⟩ (Fin.ofNat 80 p.2)) d
  let d := (d.unbound j ns).foldl (Dev.giveHome j) d
  let d := if pairs.isEmpty then d else d.mapChange [j]
  let bare := if job.params.laneFree then ns.filter fun n => (d.croft ⟨j, n⟩).any d.unseeded else []
  let d := bare.foldl (fun d n => d.rebindLanes ⟨j, n⟩) d
  ns.foldl (fun d n => match (d.croft ⟨j, n⟩).bind (·.slot) with
    | some s => d.onSlot s fun t => { t with island := .run }
    | none => d) d

/-- One more launch of a program image in the ledger (R367). -/
def Ledger.launched (l : Ledger) (hash : List Byte) : Ledger :=
  { l with programs := if l.programs.any (fun p => p.1 == hash)
      then l.programs.map (fun p => if p.1 == hash then (p.1, satAdd 32 p.2 1) else p) else l.programs ++ [(hash, 1)] }

/-- The crofts of a list that a launch of a free-mode job makes seeding requests for: those it binds, and those bound without
states (R110, R412). -/
def Dev.seedsFor (d : Dev) (j : Fin 64) (ns : List (Fin 256)) : List (Fin 256) :=
  d.unbound j ns ++ ns.filter fun n => (d.croft ⟨j, n⟩).any d.unseeded

/-- What a launch needs of the generators: a seeded one a passed polynomial check (R123), one of free mode that seeds a
croft a Well that takes its seeding request (R412). -/
def Dev.laneFaults (d : Dev) (c : Cmd) (j : Fin 64) (job : Job) : List Nat :=
  let seeds := job.params.laneFree && !(d.seedsFor j c.named).isEmpty
  when_ (!job.params.laneFree && d.boot.genKat == 2) 0x0804 ++ when_ (seeds && d.well.phase == .disabled) 0x0805
    ++ when_ (seeds && d.well.phase == .failed) 0x0806

/-- A command refused on the state of the lanes it would seed: the Well counts the seeding requests it refuses (R412, R414). -/
def Dev.countRefused (d : Dev) (c : Cmd) (j : Fin 64) (code : Nat) : Dev :=
  if code = 0x0805 || code = 0x0806 then
    { d with well := { d.well with refused := satAdd 64 d.well.refused (d.seedsFor j c.named).length } }
  else d

/-- The fault codes of a LAUNCH (R220, R257, R299, R316, R360). Its program reaches a croft over the mesh alone. JOB_DEVICE comes with
the LAUNCH's start, which the model takes for its acceptance (DESIGN CHOICE, log 105). -/
def Dev.launchFaults (d : Dev) (c : Cmd) (j : Fin 64) (job : Job) : List Nat :=
  d.laneFaults c j job ++ when_ (c.setBad job.params.crofts) 0x0108 ++ d.programFaults (c.arg 0x20 8)
    ++ when_ d.mesh.broken 0x0603 ++ when_ (d.devicesBad job) 0x0702 ++ when_ (job.detForbids true) 0x0901

/-- The named crofts loaded and counted as launched (R221 steps 3 to 6): a step boundary is completed on each slot; that of a
croft without one is counted where it is bound (R212). -/
def Dev.loadNamed (d : Dev) (j : Fin 64) (job : Job) (ns : List (Fin 256)) (p : Program) (code : List Byte) : Dev :=
  let st : SeqState := if 1 < job.params.devices then .barrier true 0 job.params.devices true else .running
  ns.foldl (fun d n =>
    let d := d.onCroft ⟨j, n⟩ fun x => if x.seq.state == .halted then x else x.load job p code st
    match (d.croft ⟨j, n⟩).bind (·.slot) with
    | some s => d.onSlot s fun t => { t with stepsDone := satInc t.stepsDone }
    | none => d.onCroft ⟨j, n⟩ fun x => { x with seq := { x.seq with opening := x.seq.state.live } }) d

/-- LAUNCH (R221): a refused launch changes nothing; JOB_DEVICE halts its job (R299). -/
def Dev.launch (id : Nat) (d : Dev) : Dev :=
  match d.started id 1 with
  | none => d
  | some (c, j, job) =>
    match lowest (d.launchFaults c j job) with
    | some 0x0702 => d.jobFault j 0x0702 (some id)
    | some code => (d.countRefused c j code).fail id code
    | none =>
      if !d.bindsNow c j job then d
      else
        let a := c.arg 0x20 8
        let p := programOf (d.read a 64)
        let code := d.read (a + 64) (16 * p.count)
        let hash := sha384 (d.read a (64 + 16 * p.count))
        let d := d.onCmd id fun q => { q with begun := true }
        let d := d.onJob j fun q => { q with ledger := q.ledger.launched hash }
        let d := ((d.tookTurn c).bindNamed j job c.named).loadNamed j job c.named p code
        if 1 < job.params.devices then d.implicitBarrier j job c.named else d

/-! ## COPY and MULTICAST (R316) -/

/-- The shape and references of a COPY (R315). -/
def Cmd.copyDesc (c : Cmd) : MoveDesc := moveDesc ((c.entry.drop 0x20).take 32)

/-- Whether a reference of a COPY breaks R316: its space, its croft, or a Granary offset that is not a multiple of 32 (log 46). A
device address that breaks R315 is SQE_FORMAT's (R327). -/
def copyRefBad (n : Nat) : MemRef → Bool
  | .device _ => false
  | .croft k o => n ≤ k || o % 32 != 0
  | _ => true

/-- Whether a range of device memory reaches the hub over the mesh: it lies on another ring die than the north one (R239). -/
def Rows.overMesh (r : Rows) : Bool := r.meets northEnd farAddr

/-- Whether an end of a COPY needs a route over the mesh: any Granary does (R239). -/
def MemRef.overMesh (r : Rows) : MemRef → Bool
  | .device _ => r.overMesh
  | _ => true

/-- The fault codes of one end of a COPY at its rows (R222, R253, R316, R379). -/
def Dev.copyEndFaults (d : Dev) (j : Fin 64) (ref : MemRef) (r : Rows) (writes : Bool) : List Nat :=
  match ref with
  | .device _ =>
    when_ (r.unbacked d.units) 0x0601 ++ when_ r.outside 0x0602 ++ when_ (!writes && r.poisoned d.memPoison) 0x0A01
  | .croft k _ =>
    when_ r.pastGranary 0x0109 ++ match d.croft ⟨j, Fin.ofNat 256 k⟩ with
      | some x => when_ (writes && x.progMeets r) 0x0204 ++ when_ (!writes && r.poisoned x.poison) 0x0A01
      | none => []
  | _ => []

/-- The fault codes of a COPY: its ranges are checked whatever its shape, and ROUTE_LOST only where a route is needed (R227, R239,
R257). -/
def Dev.copyFaults (d : Dev) (j : Fin 64) (job : Job) (m : MoveDesc) : List Nat :=
  let n := job.params.crofts
  when_ (copyRefBad n m.src || copyRefBad n m.dst) 0x0109 ++ when_ (!m.shapeOk) 0x010A
    ++ d.copyEndFaults j m.src m.srcRows false ++ d.copyEndFaults j m.dst m.dstRows true
    ++ when_ (d.mesh.broken && (m.src.overMesh m.srcRows || m.dst.overMesh m.dstRows)) 0x0603

/-- The bytes of a row that a COPY reads. A croft that no launch has named has no Granary (R246): what it would give is free, the
same for one job, croft and offset (log 24). -/
def Dev.copyRow (d : Dev) (j : Fin 64) (job : Job) (ref : MemRef) (a n : Nat) : List Byte :=
  match ref with
  | .croft k _ => if (d.croft ⟨j, Fin.ofNat 256 k⟩).isNone then
      (List.range n).map fun i => Config.freshByte job.params.handle k (a + i)
    else d.getAt d.hub.map ⟨j, 0⟩ ref a n
  | _ => d.getAt d.hub.map ⟨j, 0⟩ ref a n

/-- The rows of a COPY moved in increasing order, each read and then written (R316), through the queue engine's copy of the map
(01_croft_anatomy.md R38). -/
def Dev.copyRows (d : Dev) (j : Fin 64) (job : Job) (m : MoveDesc) : Dev :=
  (List.range m.rows).foldl (fun d i =>
    d.putAt d.hub.map ⟨j, 0⟩ m.dst (m.dst.offset + i * m.dstStride) (d.copyRow j job m.src (m.src.offset + i * m.srcStride) m.rowBytes)) d

/-- COPY (R316). What is written to a croft that no launch has named is lost at its first launch (R221, log 24). -/
def Dev.copy (id : Nat) (d : Dev) : Dev :=
  match d.started id 2 with
  | none => d
  | some (c, j, job) =>
    let m := c.copyDesc
    match lowest (d.copyFaults j job m) with
    | some code => d.fail id code
    | none =>
      let place := fun (ref : MemRef) (r : Rows) => d.refPlace ⟨j, 0⟩ ref r
      let e := ((d.copyRows j job m).carry .hub (place m.src m.srcRows)).carry .hub (place m.dst m.dstRows)
      e.succeed id (m.rowBytes * m.rows)

/-- MULTICAST (R243 to R247, R316). -/
def Dev.multicast (id : Nat) (d : Dev) : Dev :=
  match d.started id 3 with
  | none => d
  | some (c, j, job) =>
    let src := c.arg 0x20 8
    let dst := c.arg 0x28 4
    let n := c.arg 0x2C 4
    let mask := c.arg 0x30 32
    let out := c.arg 0x50 8
    let asked := (List.finRange 256).filter fun k => bitOf mask k.val
    let hit := asked.any fun k => match d.croft ⟨j, k⟩ with
      | some x => x.progMeets ⟨dst, n, 0, 1⟩
      | none => false
    let codes := when_ (setBad asked job.params.crofts) 0x0108 ++ when_ hit 0x0204
      ++ d.hubRange src n ++ d.hubRange out 32 ++ when_ d.mesh.broken 0x0603 ++ when_ (meetsPoison d.memPoison src n) 0x0A01
    match lowest codes with
    | some code => d.fail id code
    | none =>
      let got := d.deliverable j asked
      let data := d.read src n
      let d := got.foldl (fun d k => d.onCroft (d.reached d.hub.map ⟨j, k⟩) fun x => x.write dst data) d
      let d := d.write out (leBytes 32 (maskOf got))
      let d := if maskOf got = mask then d else d.onCmd id fun q => { q with cflags := q.cflags ||| 0x20 }
      let d := d.carry .hub (.memory ⟨src, n, 0, 1⟩)
      let d := d.grant [1, 3] (got.flatMap fun k => d.mesh.nodesOf .hub (d.granaryPlace ⟨j, k⟩))
      d.succeed id got.length

/-- MESH_ACK_TIMEOUT of a hub command (R257): a write, multicast or read reply of a command that runs is not complete within
MESH_ACK_LIMIT, which an emergency holds (R449). FENCE and TIMESTAMP move nothing. -/
def Dev.commandTimeout (id : Nat) (d : Dev) : Dev :=
  match d.cmd id with
  | none => d
  | some c =>
    if c.state != .running || c.begun || c.opcode == 7 || c.opcode == 8 || c.job.any d.limitsHeld then d else d.fail id 0x0604

/-- MESH_ACK_TIMEOUT (R257). -/
def Dev.meshAckTimeout (w : AckWaiter) (mesh : Bool) (d : Dev) : Dev :=
  match w with
  | .croft c => d.transferTimeout c mesh
  | .command id => d.commandTimeout id

/-! ## FIELD_RUN (R316, R317) -/

/-- The offsets of R317: the range, the schedule table, the state image, the descriptors, the output and the snapshots. -/
def runBase : Nat := 0x3F80000
/-- See `runBase`. -/
def runSched : Nat := 0x3FA8000
/-- See `runBase`. -/
def runState : Nat := 0x3FA8800
/-- See `runBase`. -/
def runDesc : Nat := 0x3FA9800
/-- See `runBase`. -/
def runOut : Nat := 0x3FB0000
/-- See `runBase`. -/
def runSnap : Nat := 0x3FC0000

/-- The device ranges a FIELD_RUN reads, with the Granary offsets they go to (R317). -/
def Cmd.runSources (c : Cmd) : List (Nat × Nat × Nat) :=
  [(c.arg 0x28 8, runBase, fieldImageSize), (c.arg 0x30 8, runSched, 2048)]
    ++ (if bitOf (c.arg 0x23 1) 0 then [(c.arg 0x38 8, runState, 4096)] else [])

/-- The bytes a FIELD_RUN writes to OUT_ADDR (R316). -/
def Cmd.runOutput (c : Cmd) : Nat := if bitOf (c.arg 0x23 1) 2 then 4160 else 64

/-- The fault codes of a FIELD_RUN on its own operands (R253, R257, R316, R360, R379). -/
def Dev.runFaults (d : Dev) (c : Cmd) (j : Fin 64) (job : Job) : List Nat :=
  d.laneFaults c j job ++ when_ (c.setBad job.params.crofts) 0x0108
    ++ (c.runSources.flatMap fun s => d.hubRange s.1 s.2.2 ++ when_ (meetsPoison d.memPoison s.1 s.2.2) 0x0A01)
    ++ d.hubRange (c.arg 0x40 8) c.runOutput ++ when_ d.mesh.broken 0x0603 ++ when_ (job.detForbids false) 0x0901

/-- A FIELD instruction word that names a descriptor (07_croft_instruction_set.md R194, R202). -/
def fieldWord (op desc : Nat) : InstrWord := BitVec.ofNat 128 (5 * 2 ^ 124 + op * 2 ^ 120 + desc * 2 ^ 78)

/-- The descriptors of a FIELD_RUN's three instructions (06_lattice_field.md R169, R175, R190; R317). -/
def Cmd.runDescs (c : Cmd) : List Byte :=
  let fl := c.arg 0x23 1
  let ctx := c.arg 0x22 1
  let load := leBytes 4 (3 + (fl % 2) * 4) ++ leBytes 4 ctx ++ leBytes 4 runBase ++ leBytes 4 runSched ++ leBytes 4 runState
    ++ leBytes 4 runSnap ++ leBytes 8 0
  let sweep := leBytes 4 (fl / 2 % 2) ++ leBytes 4 ctx ++ leBytes 4 (c.arg 0x24 4) ++ leBytes 20 0
  let read := leBytes 4 (fl / 4 % 2) ++ leBytes 4 ctx ++ leBytes 4 runOut ++ leBytes 20 0
  load ++ sweep ++ read

/-- A croft that the Reeve's program of a FIELD_RUN takes: the range of R317 zeroed and filled, the context initialised
unless it is a Field run, and the three instructions queued. -/
def Croft.fieldProgram (x : Croft) (c : Cmd) (data : List (Nat × List Byte)) : Croft :=
  let ctx := c.arg 0x22 1
  let x := x.clear runBase 0x80000
  let x := data.foldl (fun x p => x.write p.1 p.2) x
  let x := x.write runDesc c.runDescs
  let keep := match x.ctxs[ctx]? with
    | some k => k.valid && k.kind == 3
    | none => false
  let ctxs := if keep then x.ctxs else x.ctxs.set ctx (Ctx.init true 3 0 1)
  let n := x.seq.nextSeq
  let ins := fun (k op : Nat) => (⟨n + k, 0, fieldWord op (runDesc + 32 * k), [], none⟩ : Issued)
  let q : List Issued := [ins 0 0, ins 1 1, ins 2 3]
  let seq : Sequencer := { Sequencer.idle with state := .reeve, sems := x.seq.sems, nextSeq := n + 3 }
  { x with
    ctxs := ctxs, seq := seq, report := 0, failures := 0, fencedBy := []
    units := { x.units with queues := x.units.queues.set 6 q } }.recordNow

/-- FIELD_RUN (R316, R317): the Reeve's program begins on the named croft. -/
def Dev.fieldRun (id : Nat) (d : Dev) : Dev :=
  match d.started id 6 with
  | none => d
  | some (c, j, job) =>
    match lowest (d.runFaults c j job) with
    | some code => (d.countRefused c j code).fail id code
    | none =>
      if !d.bindsNow c j job then d
      else
        let n : Fin 256 := Fin.ofNat 256 (c.arg 0x20 2)
        let data := c.runSources.map fun s => (s.2.1, d.read s.1 s.2.2)
        let d := d.onCmd id fun q => { q with begun := true }
        let d := (d.tookTurn c).bindNamed j job [n]
        d.onCroft ⟨j, n⟩ fun x => if x.seq.state == .halted then x else x.fieldProgram c data

/-- The end of a FIELD_RUN (R316): its FIELD.READ has completed; the record and the best image go to OUT_ADDR. -/
def Dev.fieldRunEnd (d : Dev) (c : CroftRef) : Dev :=
  match d.croft c, d.commandOf c with
  | some x, some q =>
    if x.seq.state != .reeve || !x.inFlight.isEmpty then d
    else
      let sweeps := (x.ctxs[q.arg 0x22 1]?.map (·.sweeps.toNat)).getD 0
      let d := d.write (q.arg 0x40 8) (x.read runOut q.runOutput)
      let d := d.setCroft { x with seq := { x.seq with state := .stopped } }
      let d := d.onCmd q.id fun r => { r with cflags := r.cflags ||| x.report }
      d.succeed q.id sweeps
  | _, _ => d

/-- INSTRUCTION_COMPLETION with the end of a FIELD_RUN that it may bring (R196, R316). -/
def Dev.completeInstruction (c : CroftRef) (u : UnitId) (d : Dev) : Dev := (d.instructionCompletion c u).fieldRunEnd c

/-! ## FENCE and TIMESTAMP (R316) -/

/-- FENCE: it completes once every command of its scope fetched before it has completed. -/
def Dev.fence_ (id : Nat) (d : Dev) : Dev :=
  match d.started id 7 with
  | none => d
  | some (c, j, _) =>
    let job := c.arg 0x20 1 == 1
    let before := d.cmds.any fun q => q.id < c.id && (if job then q.job == some j else q.queue == c.queue)
    if before then d else d.succeed id 0

/-- TIMESTAMP: device time at its start. -/
def Dev.timestamp (id : Nat) (d : Dev) : Dev :=
  match d.started id 8 with
  | none => d
  | some (c, _, _) => d.succeed id c.startTime

end Sys2Proof.Machine
end

