-- ==== Sys2Proof/Machine/Model.lean ====
section
/-!
DEFINITION. MODEL_LOAD and the colour check (05_dense_sampling.md R146, R151 to R155).
-/

namespace Sys2Proof.Machine

/-- A model image header (R151). -/
structure ModelHead where
  nVars     : Nat
  q         : Nat
  nClasses  : Nat
  jFmt      : Nat
  override  : Bool
  blocks    : Nat
  classAddr : Nat
  dirAddr   : Nat
deriving DecidableEq, Repr

/-- The header in 64 bytes (R151). -/
def modelHead (h : List Byte) : ModelHead where
  nVars := leAt h 0 4
  q := leAt h 4 2
  nClasses := leAt h 6 2
  jFmt := leAt h 8 1
  override := bitOf (leAt h 9 1) 0
  blocks := leAt h 0xC 4
  classAddr := leAt h 0x10 8
  dirAddr := leAt h 0x18 8

/-- Whether a header breaks R151: a field out of range, a reserved J_FMT, or a reserved bit set. -/
def modelHeadBad (h : List Byte) : Bool :=
  let m := modelHead h
  m.nVars < 1 || 2 ^ 24 < m.nVars || m.q < 2 || 256 < m.q || 256 < m.nClasses || (opFmt m.jFmt).isNone
    || 2 ≤ leAt h 9 1 || leAt h 0xA 2 != 0 || leAt h 0x20 32 != 0

/-- Positions of a variable: P of R146. -/
def modelP (q : Nat) : Nat :=
  if q ≤ 2 then 1 else if q ≤ 64 then 2 ^ (Nat.log2 (q - 1) + 1) else 64 * ceilDiv q 64

/-- A block directory entry (R152). -/
structure ModelBlock where
  rowPos : Nat
  colPos : Nat
  addr   : Nat
  bad    : Bool
deriving DecidableEq, Repr

/-- A block directory entry in 32 bytes; `bad` when it breaks R152. -/
def modelBlock (b : List Byte) : ModelBlock where
  rowPos := leAt b 0 4
  colPos := leAt b 4 4
  addr := leAt b 8 8
  bad := leAt b 0 4 % 64 != 0 || leAt b 4 4 % 64 != 0 || leAt b 0x10 16 != 0

/-- Whether an encoding is non-zero: neither +0 nor -0 (R153). -/
def nonZero (f : OpFmt) (raw : Nat) : Bool := raw != 0 && (f.isInt || raw != 2 ^ (f.width - 1))

/-- What the check knows of a model: its header, P, and its class bytes. -/
structure ModelCtx where
  head    : ModelHead
  p       : Nat
  classes : Array Byte
deriving DecidableEq, Repr

/-- Whether a position is padding (R146). -/
def ModelCtx.padding (m : ModelCtx) (pos : Nat) : Bool := decide (m.head.q ≤ pos % m.p) && decide (2 < m.head.q)

/-- Positions of a model (R151). -/
def ModelCtx.size (m : ModelCtx) : Nat := m.head.nVars * m.p

/-- Whether a non-zero entry from position b to position a is a conflict (R153). A position at or past N_VARS × P belongs to no
variable, so an entry there is none. -/
def ModelCtx.conflict (m : ModelCtx) (b a : Nat) : Bool :=
  let v := b / m.p
  let w := a / m.p
  b < m.size && a < m.size && (v == w || (1 ≤ m.head.nClasses && m.classes.getD v 0 == m.classes.getD w 0))

/-- What the check gathers: whether the format is bad, the conflicts, and the first of them, lowest b then lowest a. -/
structure ModelFound where
  format    : Bool
  conflicts : Nat
  first     : Option (Nat × Nat)
deriving DecidableEq, Repr

/-- A non-zero entry entered in the check (R153). -/
def ModelFound.entry (m : ModelCtx) (s : ModelFound) (b a : Nat) : ModelFound :=
  let s := { s with format := s.format || m.padding b || m.padding a }
  if !m.conflict b a then s
  else
    let first := match s.first with
      | none => (b, a)
      | some p => if b < p.1 ∨ (b = p.1 ∧ a < p.2) then (b, a) else p
    { s with conflicts := s.conflicts + 1, first := some first }

/-- One block of 64 rows of 64 elements checked (R152, R153). A block reaches beyond the positions as soon as its last row or
column is position N_VARS × P, the first that no variable has (DESIGN CHOICE, log 91: R153 says 'beyond position N_VARS × P'). -/
def ModelFound.block (m : ModelCtx) (f : OpFmt) (s : ModelFound) (k : ModelBlock) (bytes : List Byte) : ModelFound :=
  let n := m.size
  let s := { s with format := s.format || k.bad || decide (n < k.rowPos + 64) || decide (n < k.colPos + 64) }
  (List.range 64).foldl (fun s b =>
    let row := slice bytes (8 * f.width * b) (8 * f.width)
    (List.range 64).foldl (fun s a =>
      if nonZero f (elemRaw f.width row a) then s.entry m (k.rowPos + b) (k.colPos + a) else s) s) s

/-- Bytes of a block. -/
def blockBytes (f : OpFmt) : Nat := 512 * f.width

/-- The fault codes of a range that Bailiff reads (R253, R379). -/
def Dev.readFaults (d : Dev) (a n : Nat) : List Nat := d.hubRange a n ++ when_ (meetsPoison d.memPoison a n) 0x0A01

/-- The check of a model and the bytes that its hash covers, or the fault codes of ranges that cannot be read. -/
def Dev.checkModel (d : Dev) (addr : Nat) : Except (List Nat) (ModelFound × List Byte) :=
  let lost := d.readFaults addr 64
  if !lost.isEmpty then .error lost
  else
    let h := d.read addr 64
    let m := modelHead h
    match modelHeadBad h, opFmt m.jFmt with
    | false, some f =>
      let classes := if m.nClasses = 0 then 0 else m.nVars
      let lost := d.readFaults m.classAddr classes ++ d.readFaults m.dirAddr (32 * m.blocks)
      if !lost.isEmpty then .error lost
      else
        let cls := d.read m.classAddr classes
        let dir := d.read m.dirAddr (32 * m.blocks)
        let ks := (List.range m.blocks).map fun i => modelBlock (slice dir (32 * i) 32)
        let lost := ks.flatMap fun k => d.readFaults k.addr (blockBytes f)
        if !lost.isEmpty then .error lost
        else
          let ctx : ModelCtx := ⟨m, modelP m.q, cls.toArray⟩
          let s0 : ModelFound := ⟨cls.any fun b => m.nClasses ≤ b.toNat, 0, none⟩
          let data := ks.map fun k => d.read k.addr (blockBytes f)
          let found := (ks.zip data).foldl (fun s p => s.block ctx f p.1 p.2) s0
          .ok (found, h ++ cls ++ dir ++ data.flatten)
    | _, _ => .ok (⟨true, 0, none⟩, h)

/-- The fault codes of a checked model (R153, R154). -/
def modelFaults (m : ModelHead) (s : ModelFound) (job : Job) : List Nat :=
  let hit := decide (0 < s.conflicts)
  when_ (job.reference && m.nClasses != 0) 0x040B ++ when_ (hit && !m.override) 0x040C
    ++ when_ (hit && m.override && job.reference) 0x040D ++ when_ s.format 0x040E
    ++ when_ (hit && m.override && job.params.det) 0x0901

/-- The model check's result as R155 publishes it. A check that finds conflicts and a bad format, or conflicts under an OVERRIDE
that is refused, shows CONFLICT, for which R155 states no order (DESIGN CHOICE, log 91). -/
def ModelFound.publish (s : ModelFound) (loaded : Bool) : ModelCheck where
  result := if 0 < s.conflicts then (if loaded then 2 else 1) else if s.format then 3 else 0
  conflicts := s.conflicts
  first := match s.first with
    | some p => (BitVec.ofNat 32 p.1, BitVec.ofNat 32 p.2)
    | none => (0xFFFFFFFF, 0xFFFFFFFF)

/-- A loaded model in the ledger (R154, R367): one element per distinct image. -/
def Ledger.loaded (l : Ledger) (e : ModelElem) : Ledger :=
  { l with
    models := if l.models.any (fun x => x.hash == e.hash) then l.models else l.models ++ [e]
    overrides := if e.override && 0 < e.conflicts then satAdd 32 l.overrides 1 else l.overrides }

/-- MODEL_LOAD (R151 to R155, R316). -/
def Dev.modelLoad (id : Nat) (d : Dev) : Dev :=
  match d.started id 5 with
  | none => d
  | some (c, j, job) =>
    let addr := c.arg 0x20 8
    match d.checkModel addr with
    | .error codes => d.fail id ((lowest codes).getD 0x0602)
    | .ok (s, bytes) =>
      let m := modelHead (d.read addr 64)
      match lowest (modelFaults m s job) with
      | some code => { d with hub := { d.hub with model := s.publish false } }.fail id code
      | none =>
        let e : ModelElem := ⟨sha384 bytes, s.conflicts, m.nClasses, m.override⟩
        let d : Dev := { d with hub := { d.hub with model := s.publish true } }
        (d.onJob j fun q => { q with ledger := q.ledger.loaded e }).succeed id s.conflicts

end Sys2Proof.Machine
end

