-- ==== Sys2Proof/Machine/Collective.lean ====
section
/-!
DEFINITION. Collectives between the devices of a job (09_fohal_scale_out.md R286 to R293; 10_queues_and_hub.md R316).
What the manual leaves open here is in log 25.
-/

namespace Sys2Proof.Machine

/-! ## Elements (R286) -/

/-- Bytes of an element of a TYPE in memory. -/
def collWidth (ty : Nat) : Nat := if ty = 1 then 2 else if ty = 3 then 8 else 4

/-- Whether values of the collective are held as FP32 while it runs: BF16 that is reduced. -/
def Coll.wide (k : Coll) : Bool := k.ty == 1 && k.op != 3

/-- Bytes of an element while the collective runs. -/
def Coll.width (k : Coll) : Nat := if k.wide then 4 else collWidth k.ty

/-- The elements of a byte string, `w` bytes each. -/
def elemsOf (w : Nat) (bs : List Byte) : List Nat := (List.range (bs.length / w)).map fun i => leAt bs (w * i) w

/-- The bytes of elements of `w` bytes. -/
def bytesOfElems (w : Nat) (xs : List Nat) : List Byte := xs.flatMap (leBytes w)

/-- Memory form to running form: BF16 widened exactly to FP32. -/
def Coll.widen (k : Coll) (bs : List Byte) : List Byte :=
  if k.wide then bytesOfElems 4 ((elemsOf 2 bs).map fun v => v * 65536) else bs

/-- Running form to memory form: FP32 converted to BF16 under R92. -/
def Coll.narrow (k : Coll) (bs : List Byte) : List Byte :=
  if k.wide then bytesOfElems 2 ((elemsOf 4 bs).map fun v => (convRne 7 (BitVec.ofNat 32 v)).raw) else bs

/-- An FP32 value with every NaN as 0x7FC00000. -/
def quiet (x : Word32) : Word32 := if isNan32 x then 0x7FC00000 else x

/-- a ⊕ b of two elements (R286): float sums under rn32, integer sums wrapping, MAX and MIN in the order of R83. -/
def collOp (op ty a b : Nat) : Nat :=
  if ty ≤ 1 then
    let x : Word32 := BitVec.ofNat 32 a
    let y : Word32 := BitVec.ofNat 32 b
    (quiet (if op = 0 then fadd x y
      else if op = 1 then (if maxKey x < maxKey y then y else x)
      else if minKey y < minKey x then y else x)).toNat
  else
    let w := if ty = 2 then 32 else 64
    if op = 0 then (a + b) % 2 ^ w
    else if op = 1 then (if signedOf w a < signedOf w b then b else a)
    else if signedOf w b < signedOf w a then b else a

/-- Two byte strings reduced element by element. -/
def Coll.reduce (k : Coll) (a b : List Byte) : List Byte :=
  bytesOfElems k.width (((elemsOf k.width a).zip (elemsOf k.width b)).map fun p => collOp k.op k.ty p.1 p.2)

/-! ## Steps (R287 to R289) -/

/-- The first element of chunk `c` of `n` devices (R286). -/
def Coll.chunkStart (k : Coll) (n c : Nat) : Nat := c * k.elems / n

/-- Elements of chunk `c`. -/
def Coll.chunkLen (k : Coll) (n c : Nat) : Nat := k.chunkStart n (c + 1) - k.chunkStart n c

/-- One transfer of a step at this device: the other end, the chunk, whether it is sent or received, and whether what
is received is reduced, as received ⊕ held (`before`) or held ⊕ received. -/
structure Hop where
  peer   : Nat
  chunk  : Nat
  sends  : Bool
  reduce : Bool
  before : Bool
deriving DecidableEq, Repr

/-- Levels of the tree over `n` devices (R288). -/
def treeLevels (n : Nat) : Nat := if n ≤ 1 then 0 else Nat.log2 (n - 1) + 1

/-- The hops of all chunks to or from one peer. -/
def allChunks (n peer : Nat) (sends reduce : Bool) : List Hop := (List.range n).map fun c => ⟨peer, c, sends, reduce, false⟩

/-- A level of the tree towards s[0], at device `v` of the tree (R288). -/
def treeUp (n v l : Nat) (peer : Nat → Nat) : List Hop :=
  if v % (2 * 2 ^ l) = 2 ^ l then allChunks n (peer (v - 2 ^ l)) true false
  else if v % (2 * 2 ^ l) = 0 ∧ v + 2 ^ l < n then allChunks n (peer (v + 2 ^ l)) false true
  else []

/-- A level of the tree from s[0] down (R288). -/
def treeDown (n v l : Nat) (peer : Nat → Nat) : List Hop :=
  if v % (2 * 2 ^ l) = 2 ^ l then allChunks n (peer (v - 2 ^ l)) false false
  else if v % (2 * 2 ^ l) = 0 ∧ v + 2 ^ l < n then allChunks n (peer (v + 2 ^ l)) true false
  else []

/-- A reducing step of the ring (R287). -/
def ringReduce (n v t : Nat) : List Hop :=
  [⟨(v + 1) % n, (v + n - 1 - t) % n, true, false, false⟩, ⟨(v + n - 1) % n, (v + 2 * n - 2 - t) % n, false, true, true⟩]

/-- A step of the ring that passes results on (R287). -/
def ringPass (n v u : Nat) : List Hop :=
  [⟨(v + 1) % n, (v + n - u) % n, true, false, false⟩, ⟨(v + n - 1) % n, (v + 2 * n - 1 - u) % n, false, false, false⟩]

/-- The other devices. -/
def others (n v : Nat) : List Nat := (List.range n).filter fun p => p != v

/-- Reducing steps of a collective. -/
def Coll.reduceSteps (k : Coll) (n : Nat) : Nat :=
  if 2 ≤ k.kind || n ≤ 1 then 0 else if k.alg = 0 then n - 1 else if k.alg = 1 then treeLevels n else 1

/-- Steps of a collective. -/
def Coll.steps (k : Coll) (n : Nat) : Nat :=
  if n ≤ 1 then 0
  else if k.kind = 2 then n - 1
  else if k.kind = 3 then treeLevels n
  else
    let r := k.reduceSteps n
    if k.kind = 0 then 2 * r else if k.alg = 1 then r + 1 else r

/-- The hops of a step at logical device `v` of `n`. What R287 to R289 leave open (DESIGN CHOICE, log 106): an ALLGATHER goes by the ring
and a BROADCAST by the tree whatever ALG is; ARRIVAL takes one step from all to all, each device reducing its own chunk with its
own value first, and then one step that gathers. -/
def Coll.hops (k : Coll) (n v t : Nat) : List Hop :=
  let r := k.reduceSteps n
  if k.kind = 2 then ringPass n v t
  else if k.kind = 3 then treeDown n ((v + n - k.root) % n) (treeLevels n - 1 - t) fun p => (p + k.root) % n
  else if k.alg = 0 then (if t < r then ringReduce n v t else ringPass n v (t - r))
  else if k.alg = 1 then
    if t < r then treeUp n v t id
    else if k.kind = 0 then treeDown n v (2 * r - 1 - t) id
    else if v = 0 then (others n v).map fun c => ⟨c, c, true, false, false⟩
    else [⟨0, v, false, false, false⟩]
  else if t < r then
    (others n v).flatMap fun p => [⟨p, p, true, false, false⟩, ⟨p, v, false, true, false⟩]
  else (others n v).flatMap fun p => [⟨p, v, true, false, false⟩, ⟨p, p, false, false, false⟩]

/-- Whether a step carries values in running form: partials travel as FP32, results in the form of TYPE. -/
def Coll.partials (k : Coll) (n t : Nat) : Bool := t < k.reduceSteps n

/-- Bytes of an element as a step carries it. -/
def Coll.wireWidth (k : Coll) (n t : Nat) : Nat := if k.partials n t then k.width else collWidth k.ty

/-- Bytes of a chunk as a step carries it. -/
def Coll.wireBytes (k : Coll) (n t c : Nat) : Nat := k.wireWidth n t * k.chunkLen n c

/-- Data bytes of a contribution at most (R290). -/
def segMax : Nat := 2 ^ 20

/-- Bytes of a segment of a chunk. -/
def Coll.segBytes (k : Coll) (n t c seg : Nat) : Nat := min segMax (k.wireBytes n t c - segMax * seg)

/-- Segments of a chunk: none for an empty one. -/
def Coll.segs (k : Coll) (n t c : Nat) : Nat := ceilDiv (k.wireBytes n t c) segMax

/-! ## Contributions (R290, R291) -/

/-- CODES of a contribution header. -/
def Coll.codes (k : Coll) : Nat := k.kind + 256 * k.op + 65536 * k.ty + 2 ^ 24 * k.alg

/-- The 32-byte header of a contribution (R290). -/
def Coll.header (k : Coll) (src : Nat) (f : Frag) : List Byte :=
  leBytes 4 k.collId.toNat ++ leBytes 4 f.step ++ leBytes 2 src ++ leBytes 2 f.peer ++ leBytes 4 f.chunk ++ leBytes 4 f.seg
    ++ leBytes 4 f.data.length ++ leBytes 4 k.codes ++ leBytes 1 f.attempt ++ leBytes 3 0

/-- The digest of a contribution (R291). -/
def collDigest (key header data : List Byte) : List Byte :=
  let b := beBytes 4 (leAt header 0 4) ++ beBytes 4 (leAt header 4 4) ++ List.replicate 8 0
  let h := beNat (aes256 key b)
  let pad := fun (x : List Byte) => x ++ List.replicate ((16 - x.length % 16) % 16) 0
  beBytes 16 (ghash h (pad header ++ pad data ++ beBytes 8 (8 * header.length) ++ beBytes 8 (8 * data.length)))

/-- A contribution as it leaves (R290, R291). -/
def Coll.toSent (k : Coll) (j : Fin 64) (job : Job) (f : Frag) : Sent :=
  let h := k.header job.params.ldev f
  .contribution j f.peer (BitVec.ofNat 256 (leNat h)) f.data (BitVec.ofNat 128 (leNat (collDigest job.collKey h f.data)))

/-- The contributions a step sends. -/
def Coll.outgoing (k : Coll) (n v t : Nat) : List Frag :=
  ((k.hops n v t).filter (·.sends)).flatMap fun h =>
    let raw := k.vals.getD h.chunk []
    let data := if k.partials n t then raw else k.narrow raw
    (List.range (k.segs n t h.chunk)).map fun s =>
      ⟨h.peer, t, h.chunk, s, 0, (data.drop (segMax * s)).take segMax⟩

/-- The hop that a received contribution of a step belongs to. -/
def Coll.hopOf (k : Coll) (n v t peer chunk : Nat) : Option Hop :=
  (k.hops n v t).find? fun h => !h.sends && h.peer == peer && h.chunk == chunk

/-- Whether a step has received everything it takes. -/
def Coll.stepDone (k : Coll) (n v t : Nat) : Bool :=
  ((k.hops n v t).filter fun h => !h.sends).all fun h =>
    (List.range (k.segs n t h.chunk)).all fun s =>
      k.received.any fun f => f.step == t && f.peer == h.peer && f.chunk == h.chunk && f.seg == s

/-- A received contribution entered in the chunk values. -/
def Coll.enter (k : Coll) (n v : Nat) (f : Frag) : Coll :=
  match k.hopOf n v f.step f.peer f.chunk with
  | none => k
  | some h =>
    let data := if k.partials n f.step then f.data else k.widen f.data
    let off := segMax * f.seg / k.wireWidth n f.step * k.width
    let old := k.vals.getD f.chunk []
    let mine := (old.drop off).take data.length
    let new := if !h.reduce then data else if h.before then k.reduce data mine else k.reduce mine data
    { k with vals := k.vals.set f.chunk (spliceBytes old off new) }

/-- A complete step's contributions entered, in the order of their arrival, and the next step begun. -/
def Coll.nextStep (k : Coll) (n v : Nat) : Coll :=
  let k' := (k.received.filter fun f => f.step == k.step).foldl (fun c f => c.enter n v f) k
  { k' with step := k.step + 1, received := k.received.filter fun f => f.step != k.step }

/-! ## On the device -/

/-- The device with the collective of a COLL_ID in a job mapped. -/
def Dev.onColl (d : Dev) (j : Fin 64) (collId : Word32) (f : Coll → Coll) : Dev :=
  d.onJob j fun q => { q with colls := q.colls.map fun k => if k.collId == collId then f k else k }

/-- The device range of the result or of the source of a collective at this device, as (offset of bytes in the buffer,
first element, elements); the whole of E unless it is one chunk (R286, log 25). -/
def Coll.part (k : Coll) (n v : Nat) (one : Bool) : Nat × Nat × Nat :=
  if one then
    (if Config.collCompact k.kind then 0 else collWidth k.ty * k.chunkStart n v, k.chunkStart n v, k.chunkLen n v)
  else (0, 0, k.elems)

/-- A finished collective writes its result and completes its command with the contributions resent (R286, R315). -/
def Dev.collFinish (d : Dev) (k : Coll) (n v : Nat) : Dev :=
  let p := k.part n v (k.kind == 1)
  let bytes := if k.kind = 1 then k.vals.getD v [] else k.vals.flatten
  (d.write (k.dst + p.1) (k.narrow bytes)).succeed k.cmd k.resent

/-- A collective carried on: the contributions of the step it enters go out, and steps that are complete are entered.
The fuel is the number of steps left. -/
def Dev.collRun (j : Fin 64) (job : Job) (collId : Word32) : Nat → Dev → Dev
  | 0, d => d
  | fuel + 1, d =>
    match (d.job j).bind fun q => q.colls.find? fun k => k.collId == collId with
    | none => d
    | some k =>
      let n := job.params.devices
      let v := job.params.ldev
      if k.steps n ≤ k.step then d
      else if !k.stepDone n v k.step then d
      else
        let k := k.nextStep n v
        let out := if k.step < k.steps n then k.outgoing n v k.step else []
        let d := d.onColl j collId fun _ => { k with held := k.held ++ out, since := d.time.elapsed }
        let d := out.foldl (fun d f => d.send (k.toSent j job f)) d
        if k.step = k.steps n then d.collFinish k n v else Dev.collRun j job collId fuel d

/-- The operands of a COLLECTIVE (R315), with nothing loaded. -/
def Cmd.coll (c : Cmd) : Coll where
  cmd := c.id
  kind := c.arg 0x20 1
  op := c.arg 0x21 1
  ty := c.arg 0x22 1
  alg := c.arg 0x23 1
  collId := BitVec.ofNat 32 (c.arg 0x24 4)
  elems := c.arg 0x28 8
  root := c.arg 0x30 2
  dst := c.arg 0x40 8
  vals := []
  step := 0
  received := []
  held := []
  resent := 0
  since := 0

/-- Whether the codes or ROOT of a COLLECTIVE break R316. -/
def Coll.formatBad (k : Coll) (n : Nat) : Bool :=
  3 < k.kind || 3 < k.op || 3 < k.ty || 2 < k.alg || (k.op == 3 && k.kind < 2) || (k.op != 3 && 2 ≤ k.kind) || n ≤ k.root

/-- Whether this device reads a source: all but the receivers of a broadcast. -/
def Coll.reads (k : Coll) (v : Nat) : Bool := k.kind != 3 || v == k.root

/-- The device range of the source (R286). -/
def Coll.srcRange (k : Coll) (src n v : Nat) : Nat × Nat :=
  let p := k.part n v (k.kind == 2)
  (src + p.1, if k.reads v then collWidth k.ty * p.2.2 else 0)

/-- The device range of the result. -/
def Coll.dstRange (k : Coll) (n v : Nat) : Nat × Nat :=
  let p := k.part n v (k.kind == 1)
  (k.dst + p.1, collWidth k.ty * p.2.2)

/-- The fault codes of a COLLECTIVE on its own operands (R239, R253, R316, R360, R379). -/
def Dev.collFaults (d : Dev) (k : Coll) (src : Nat) (job : Job) : List Nat :=
  let n := job.params.devices
  let v := job.params.ldev
  if k.formatBad n then [0x010B]
  else
    let s := k.srcRange src n v
    let t := k.dstRange n v
    when_ (job.params.det && (job.params.adaptive || k.alg == 2)) 0x0901 ++ d.hubRange s.1 s.2 ++ d.hubRange t.1 t.2
      ++ when_ (d.mesh.broken && ((Rows.mk s.1 s.2 0 1).overMesh || (Rows.mk t.1 t.2 0 1).overMesh)) 0x0603
      ++ when_ (meetsPoison d.memPoison s.1 s.2) 0x0A01

/-- The chunk values a device starts a collective with (R286): what it reads, by chunk; a chunk it does not hold stands
as zeros until it arrives. -/
def Coll.start (k : Coll) (n v : Nat) (data : List Byte) : Coll :=
  let w := collWidth k.ty
  { k with vals := (List.range n).map fun c =>
      let len := w * k.chunkLen n c
      k.widen (if !k.reads v then List.replicate len 0
        else if k.kind = 2 then (if c = v then data else List.replicate len 0)
        else (data.drop (w * k.chunkStart n c)).take len) }

/-- COLLECTIVE (R286 to R293, R316): the collective begins on this device. -/
def Dev.collective (id : Nat) (d : Dev) : Dev :=
  match d.started id 4 with
  | none => d
  | some (c, j, job) =>
    let k := c.coll
    let n := job.params.devices
    let v := job.params.ldev
    let src := c.arg 0x38 8
    match lowest (d.collFaults k src job) with
    | some code => d.fail id code
    | none =>
      let s := k.srcRange src n v
      let k := k.start n v (d.read s.1 s.2)
      let d := d.onCmd id fun q => { q with begun := true }
      if k.steps n = 0 then d.collFinish k n v
      else
        let out := k.outgoing n v 0
        let d := d.onJob j fun q => { q with colls := q.colls ++ [{ k with held := out, since := d.time.elapsed }] }
        let d := out.foldl (fun d f => d.send (k.toSent j job f)) d
        Dev.collRun j job k.collId (k.steps n) d

/-- The job's ledger mapped. -/
def Dev.onLedger (d : Dev) (j : Fin 64) (f : Ledger → Ledger) : Dev := d.onJob j fun q => { q with ledger := f q.ledger }

/-- A contribution discarded and counted (R292). -/
def Dev.collDiscard (d : Dev) (j : Fin 64) : Dev := d.onLedger j fun l => { l with discarded := satAdd 64 l.discarded 1 }

/-- The DEVICE_ID of a fabric address: of the topology database (R270), and free when that holds no record of it. -/
def Dev.deviceIdAt (d : Dev) (addr : Nat) : Word64 × Dev :=
  match d.fabric.topo.find? fun r => r.address == addr with
  | some r => (r.deviceId, d)
  | none => d.draw

/-- The last `n` of a list. -/
def lastOf {α : Type} (n : Nat) (l : List α) : List α := l.drop (l.length - n)

/-- A sender flagged for a digest that did not verify (R292): the event's SOURCE is its fabric address and its DETAIL64 its
DEVICE_ID (log 25). One flagged again takes another of the 64 elements: R298 does not say (DESIGN CHOICE, log 106). -/
def Dev.flagSender (d : Dev) (j : Fin 64) (addr : Nat) : Dev :=
  let p := d.deviceIdAt addr
  let e := (p.1, addr, p.2.now)
  let d : Dev := { p.2 with fabric := { p.2.fabric with flagged := lastOf 64 (p.2.fabric.flagged ++ [e]) } }
  let d := d.onLedger j fun l => { l with mismatches := satAdd 64 l.mismatches 1, flagged := l.flagged ++ [e] }
  d.eventNamedWith .digestMismatch 0 addr p.1

/-- A collective ended by a fault of its own: its command carries the fault, and the job halts (R292, R293). -/
def Dev.collFault (d : Dev) (j : Fin 64) (k : Coll) (code : Nat) : Dev := d.jobFault j code (some k.cmd)

/-- CONTRIBUTION (R290 to R293): one whose collective, step or receiver is not expected here is discarded; then its digest
is checked, then its codes and its length; a chunk that this step takes from nobody, or has already, is discarded; the
rest is accepted on REPLY (R277) and waits for its step. -/
def Dev.contribution (j : Fin 64) (header : BitVec 256) (data : List Byte) (digest : BitVec 128) (d : Dev) : Dev :=
  match d.job j with
  | none => d
  | some job =>
    let h := bytesOf header
    let n := job.params.devices
    let v := job.params.ldev
    let t := leAt h 4 4
    let src := leAt h 8 2
    let chunk := leAt h 0xC 4
    let seg := leAt h 0x10 4
    let attempt := leAt h 0x1C 1
    match job.colls.find? fun k => k.collId.toNat == leAt h 0 4 with
    | none => d.collDiscard j
    | some k =>
      if t < k.step || k.steps n ≤ t || leAt h 0xA 2 != v then d.collDiscard j
      else if collDigest job.collKey h data != bytesOf digest then
        let d := (d.flagSender j (job.devs.getD src 0)).send (.refuse j src k.collId t chunk seg attempt)
        if 3 ≤ attempt then d.collFault j k 0x0706 else d
      else if leAt h 0x18 4 != k.codes then d.collFault j k 0x0704
      else if (k.hopOf n v t src chunk).isNone
          || k.received.any (fun f => f.step == t && f.peer == src && f.chunk == chunk && f.seg == seg) then d.collDiscard j
      else if k.segs n t chunk ≤ seg || data.length != k.segBytes n t chunk seg || leAt h 0x14 4 != data.length then
        d.collFault j k 0x0704
      else
        let f : Frag := ⟨src, t, chunk, seg, attempt, data⟩
        let d := (d.onColl j k.collId fun q => { q with received := q.received ++ [f] }).send (.accept j src k.collId t chunk seg)
        Dev.collRun j job k.collId (k.steps n) d

/-- The acceptance of a contribution (R277): the sender lets go of its held copy, which nothing can refuse any more (log 106). -/
def Dev.accepted (j : Fin 64) (collId : Word32) (dst step chunk seg : Nat) (d : Dev) : Dev :=
  d.onColl j collId fun k => { k with held := k.held.filter fun f =>
    !(f.peer == dst && f.step == step && f.chunk == chunk && f.seg == seg) }

/-- REFUSE (R292): the sender resends from its held buffer with ATTEMPT one more; when attempt 3 is refused, the
collective ends with DIGEST_FAIL. -/
def Dev.refuse (j : Fin 64) (collId : Word32) (dst step chunk seg : Nat) (attempt : Fin 4) (d : Dev) : Dev :=
  match d.job j with
  | none => d
  | some job =>
    match job.colls.find? fun k => k.collId == collId with
    | none => d
    | some k =>
      let same := fun (f : Frag) => f.peer == dst && f.step == step && f.chunk == chunk && f.seg == seg && f.attempt == attempt.val
      match k.held.find? same with
      | none => d
      | some f =>
        if attempt.val = 3 then d.collFault j k 0x0706
        else
          let g := { f with attempt := f.attempt + 1 }
          let d := d.onColl j collId fun q =>
            { q with held := q.held.map (fun x => if x == f then g else x), resent := q.resent + 1 }
          let d := d.onCmd k.cmd fun c => { c with cflags := c.cflags ||| 0x40 }
          d.send (k.toSent j job g)

/-- The unfinished collective whose step began first. -/
def Job.slowest (q : Job) : Option Coll :=
  (q.colls.filter fun k => k.step < k.steps q.params.devices).foldl (fun (b : Option Coll) k => match b with
    | none => some k
    | some m => if k.since < m.since then some k else some m) none

/-- COLL_TIMEOUT (R293): a collective step has passed COLL_STEP_LIMIT, which an emergency holds (R449). It is the one that began
first: the limit is one for all, and the first to pass it halts the job. -/
def Dev.collTimeout (j : Fin 64) (d : Dev) : Dev :=
  match d.job j with
  | none => d
  | some job =>
    match job.slowest with
    | none => d
    | some k => if d.limitsHeld j then d else d.collFault j k 0x0705

end Sys2Proof.Machine
end

