-- ==== Sys2Proof/Machine/Ledger.lean ====
section
/-!
DEFINITION. The job ledger: the record of LEDGER_CLOSE and its signature (12_determinism_and_ledger.md R364 to R368, R371).
-/

namespace Sys2Proof.Machine

/-- An element entered in a list before the first element with a greater key. -/
def insertKey {α : Type} (key : α → Nat) (x : α) : List α → List α
  | [] => [x]
  | y :: t => if key x < key y then x :: y :: t else y :: insertKey key x t

/-- A list in increasing order of a key; equal keys keep their order. -/
def sortKey {α : Type} (key : α → Nat) (l : List α) : List α := l.foldl (fun s x => insertKey key x s) []

/-- A section of a record: KIND, COUNT, BYTES and the elements (R367). -/
def ledgerSection (kind : Nat) (elems : List (List Byte)) : List Byte :=
  leBytes 2 kind ++ leBytes 2 elems.length ++ leBytes 4 elems.flatten.length ++ elems.flatten

/-- Bytes padded with zeros to a multiple of 8. -/
def pad8 (bs : List Byte) : List Byte := bs ++ List.replicate ((8 - bs.length % 8) % 8) 0

/-- At most `n` elements: beyond that the first n - 1 and the last (R367). -/
def cappedList {α : Type} (n : Nat) (l : List α) : List α := if l.length ≤ n then l else l.take (n - 1) ++ lastOf 1 l

/-- FIRMWARE elements (R367). -/
def firmwareElems (l : List (Nat × Word32 × List Byte)) : List (List Byte) :=
  (sortKey (·.1) l).map fun e => leBytes 1 e.1 ++ leBytes 3 0 ++ leBytes 4 e.2.1.toNat ++ e.2.2

/-- PROGRAM elements (R367). -/
def programElems (l : List (List Byte × Nat)) : List (List Byte) :=
  (sortKey (fun e => beNat e.1) l).map fun e => e.1 ++ leBytes 4 e.2 ++ leBytes 4 0

/-- MODEL elements (R367). -/
def modelElems (l : List ModelElem) : List (List Byte) :=
  (sortKey (fun e => beNat e.hash) l).map fun e =>
    e.hash ++ leBytes 8 e.conflicts ++ leBytes 2 e.nClasses ++ leBytes 1 e.override.toNat ++ leBytes 5 0

/-- The crofts of a job by number. -/
def Dev.croftsOf (d : Dev) (j : Fin 64) : List Croft := sortKey (fun x => x.n.val) (d.crofts.filter fun x => x.job == j)

/-- FIELD elements (R367). -/
def fieldElems (xs : List Croft) : List (List Byte) :=
  xs.flatMap fun x => x.runs.map fun r =>
    leBytes 1 x.n.val ++ leBytes 1 r.ctx ++ leBytes 6 0 ++ leBytes 8 r.sweeps.toNat ++ leBytes 8 r.rollbacks ++ r.hash ++ leBytes 8 0

/-- MAP elements (R367). -/
def mapElems (l : List MapElem) : List (List Byte) :=
  (cappedList 1024 l).map fun e => leBytes 8 e.generation ++ leBytes 8 e.time ++ pad8 e.slots

/-- DEVICES elements (R367): JOB_DEVICES at opening and after each re-mapping (R297). -/
def deviceElems (job : Job) : List (List Byte) :=
  (cappedList 16 job.devLists).map fun e => leBytes 8 e.1 ++ pad8 (e.2.flatMap (leBytes 2))

/-- Senders refused, each once with its mismatches. -/
def flaggedCounts (l : List (Word64 × Nat × Nat)) : List (Word64 × Nat × Nat) :=
  l.foldl (fun s e =>
    if s.any (fun x => x.1 == e.1) then s.map (fun x => if x.1 == e.1 then (x.1, x.2.1, satAdd 32 x.2.2 1) else x)
    else s ++ [(e.1, e.2.1, 1)]) []

/-- FLAGGED elements (R367). -/
def flaggedElems (l : List (Word64 × Nat × Nat)) : List (List Byte) :=
  ((sortKey (fun e => e.1.toNat) (flaggedCounts l)).take 64).map fun e =>
    leBytes 8 e.1.toNat ++ leBytes 2 e.2.1 ++ leBytes 2 0 ++ leBytes 4 e.2.2

/-- JFLAGS (R366). -/
def Job.flags (job : Job) : Nat :=
  let p := job.params
  job.fault.isSome.toNat * 512 + p.plainSum.toNat * 256 + p.adaptive.toNat * 128 + p.compat.toNat * 64 + p.laneFree.toNat * 32
    + p.family.toNat * 16 + p.cls.toNat * 4 + p.det.toNat

/-- The parameter block that JPB_HASH covers (R365). -/
def maskedBlock (b : List Byte) : List Byte :=
  spliceBytes (spliceBytes (spliceBytes b 8 (List.replicate 32 0)) 0x34 [0, 0]) 0x38 (List.replicate 8 0)

/-- STEPPING of this device, as OD 1000.03 (11_object_dictionary.md R352). -/
def stepping : Nat := 0x0B00

/-- The sum of a count over crofts, saturating at 64 bits (R365). -/
def sumOf {α : Type} (l : List α) (f : α → Nat) : Nat := l.foldl (fun s x => satAdd 64 s (f x)) 0

/-- The flag counts of a job: those of its crofts with their open tiles released (R99, R316). -/
def jobTally (xs : List Croft) : Tally := xs.foldl (fun t x => t.add x.finalTally) Tally.zero

/-- The seven sections of the record of a job (R367). -/
def Dev.ledgerSections (d : Dev) (j : Fin 64) (job : Job) : List Byte :=
  let l := job.ledger
  ledgerSection 1 (firmwareElems l.firmware) ++ ledgerSection 2 (programElems l.programs)
    ++ ledgerSection 3 (modelElems l.models) ++ ledgerSection 4 (fieldElems (d.croftsOf j))
    ++ ledgerSection 5 (mapElems l.maps) ++ ledgerSection 6 (deviceElems job) ++ ledgerSection 7 (flaggedElems l.flagged)

/-- The fixed part of the record of a job (R365). -/
def Dev.ledgerFixed (d : Dev) (j : Fin 64) (job : Job) (declared : List Byte) (length seq : Nat) : List Byte :=
  let p := job.params
  let l := job.ledger
  let xs := d.croftsOf j
  let t := jobTally xs
  let fr := job.fault.getD ⟨0, 0, 0⟩
  leBytes 4 0x5247444C ++ leBytes 2 1 ++ leBytes 2 7 ++ leBytes 4 length ++ leBytes 4 p.handle.toNat
    ++ leBytes 8 d.fuses.deviceId.toNat ++ leBytes 8 seq ++ leBytes 8 p.openTime ++ leBytes 8 d.now
    ++ leBytes 2 p.bundle ++ leBytes 2 d.fuses.grade.toNat ++ leBytes 2 stepping ++ leBytes 2 job.flags
    ++ leBytes 8 p.seed.toNat ++ leBytes 2 p.crofts ++ leBytes 2 p.devices ++ leBytes 2 p.ldev ++ leBytes 1 p.staleness ++ leBytes 1 0
    ++ sha384 (maskedBlock p.jpb) ++ sha384 job.collKey ++ declared
    ++ leBytes 8 l.commands ++ leBytes 8 (sumOf xs (·.replays)) ++ leBytes 8 (sumOf (xs.flatMap (·.runs)) (·.rollbacks))
    ++ leBytes 8 l.mapChanges ++ leBytes 8 t.ovf ++ leBytes 8 t.invalid ++ leBytes 8 t.boundVoid ++ leBytes 8 t.cancel
    ++ leBytes 8 t.emptyDraw ++ leBytes 8 l.mismatches ++ leBytes 8 l.discarded ++ leBytes 4 (min job.remaps (2 ^ 32 - 1)) ++ leBytes 4 l.overrides
    ++ leBytes 4 l.refusals ++ leBytes 2 fr.code ++ leBytes 2 0 ++ leBytes 8 fr.step ++ leBytes 8 fr.detail.toNat ++ leBytes 48 0

/-- LENGTH of the record of a job (R367). -/
def Dev.ledgerLength (d : Dev) (j : Fin 64) (job : Job) : Nat := 0x180 + (d.ledgerSections j job).length + 96

/-- The record of a job without its signature. -/
def Dev.ledgerBody (d : Dev) (j : Fin 64) (job : Job) (declared : List Byte) (seq : Nat) : List Byte :=
  d.ledgerFixed j job declared (d.ledgerLength j job) seq ++ d.ledgerSections j job

/-- The fault codes of a LEDGER_CLOSE (R253, R316, R364, R368, R379). -/
def Dev.ledgerFaults (d : Dev) (addr room n : Nat) (canSign : Bool) : List Nat :=
  d.hubRange addr (max 64 n) ++ when_ (meetsPoison d.memPoison addr 64) 0x0A01 ++ when_ (room < n) 0x010C
    ++ when_ ((d.read (addr + 48) 16).any fun b => b != 0) 0x0902 ++ when_ (!canSign) 0x0903

/-- LEDGER_CLOSE (R316, R364 to R368): once every other command of the job has completed, the record is built, signed and
written over the caller block. The job closes with the completion entry. -/
def Dev.ledgerClose (id : Nat) (canSign : Bool) (d : Dev) : Dev :=
  match d.started id 9 with
  | none => d
  | some (c, j, job) =>
    if d.cmds.any fun q => q.id != c.id && q.job == some j then d
    else
      let addr := c.arg 0x20 8
      let n := d.ledgerLength j job
      match lowest (d.ledgerFaults addr (c.arg 0x28 4) n canSign) with
      | some code => d.fail id code
      | none =>
        let seq := d.hub.ledgersSigned + 1
        let body := d.ledgerBody j job (d.read addr 48) seq
        let d : Dev := { d with hub := { d.hub with ledgersSigned := seq } }
        (d.write addr (body ++ ecSign d.boot.key body)).succeed id n

end Sys2Proof.Machine
end

