-- ==== Sys2Proof/Machine/Power.lean ====
section
/-!
DEFINITION. Supplies, power states, throttling, thermal limits, board regulators, the reference clock and 1PPS
(16_power_clocks_thermal.md R439 to R455; 11_object_dictionary.md R353; 17_package_balls_electrical.md R461, R466, R470).
-/

namespace Sys2Proof.Machine

/-- The device with its power state mapped. -/
def Dev.onPower (d : Dev) (f : Power → Power) : Dev := { d with power := f d.power }

/-- POWER_STATE (R441). -/
def Dev.powerState (d : Dev) : Nat :=
  if !d.power.main then 1
  else if d.power.level.val != 0 || d.emergency then 4
  else if d.slots.any fun t => t.island == .run then 3
  else 2

/-- ALERT_N asserted (R449, R405; 17_package_balls_electrical.md R466, R467). -/
def Dev.alert (d : Dev) : Bool := d.power.aux && !d.pins.resetIn && (d.emergency || d.well.phase == .failed)

/-! ## Main rails off (R444, R450, R467) -/

/-- The cells of a Well without power: nothing settled, nothing carried over (14_entropy_well.md R405). -/
def WellCell.stopped (c : WellCell) : WellCell := { c with settling := false, startup := 0, run := 0, lastBit := false }

/-- A Well whose power is gone: as in DISABLED, unless it has FAILED (log 27). -/
def Well.unpowered (w : Well) : Well :=
  { w with
    phase := if w.phase == .failed then .failed else .disabled
    cells := w.cells.map WellCell.stopped, drbg := Drbg.zero, queue := [], consecutive := 0, requests := [] }

/-- The fabric side without power: what it held of messages and of the time it followed is gone. -/
def Fabric.unpowered (f : Fabric) (sent : Nat) : Fabric :=
  { f with
    routes := [], timeState := .free, ctrlSeq := [], ctrlSeen := [], partials := [], ctrlLast := none, ptpValid := false
    stepDue := false, messages := [], shipped := sent }

/-- The hub's main part without power: the mailbox, the outside ports, the root port and the interrupt files lose their
registers, and the queue engine its map. -/
def Hub.unpowered (h : Hub) : Hub :=
  { h with
    mailbox := Mailbox.reset, eth := List.replicate 4 EthPort.reset, pcie := Pcie.reset
    irqFiles := (Hub.reset 0).irqFiles, map := ⟨0, []⟩ }

/-- A loss of power discards the pending sets (11_object_dictionary.md R348). -/
def Hub.discardCommits (h : Hub) : Hub := { h with commits := List.replicate 5 none }

/-- The cores that lose power with the main rails, all but Watch and Hearth, with their SRAM and images (R416), and the monitor and
Dremos. An activation that had switched some Reeves waits again, none of them switched. One of Bailiff whose core has switched stays
ACTIVATING: the directory names its slot (R431 step 4), so that the next boot runs it and its checks end the activation (R432,
log 76). -/
def Boot.unpowered (b : Boot) : Boot :=
  let b : Boot := { b with
    step := min b.step 4
    running := (b.running.zipIdx).map fun p => if p.2 < 2 then p.1 else none
    cores := (b.cores.zipIdx).map fun p => if p.2 < 2 then p.1 else ⟨none, []⟩
    mail := b.mail.map fun _ => []
    released := false, dremos := none, genKat := 0
    switched := if b.actClass = 3 then 0 else b.switched
    act := if b.act == .activating && b.actClass = 3 then .queued else b.act }
  { b with bundle := b.highestBundle }

/-- A test that loses its slot's power ends ABORTED (log 28). -/
def Test.unpowered (t : Test) (now : Nat) : Test :=
  if t.state == .idle then t else { t with state := .idle, results := t.results.set t.slot (3, now) }

/-- Rail measurements with the main rails off: they read 0, and rail 122 keeps its latest one (log 100). -/
def railsOff (l : List (Nat × Nat)) : List (Nat × Nat) := (l.zipIdx).map fun r => if r.2 = 122 then r.1 else (0, 0)

/-- Every rail but 122 off (R444): every open job is lost and none of its commands completes; memories, Granaries and
the registers of the hub's main part lose their contents. -/
def Dev.mainOff (d : Dev) : Dev :=
  let d := d.linksDown
  { d with
    power := { d.power with main := false, level := 0, cause := 0, rails := railsOff d.power.rails, standbyDue := false }
    jobs := d.jobs.map fun _ => none
    crofts := []
    cmds := []
    bars := []
    signals := []
    irqs := []
    mem := []
    memPoison := []
    queues := d.queues.map fun p => (p.1, { Queue.reset with commands := p.2.commands })
    slots := d.slots.map fun t => { t.off with stretched := false, moveMap := ⟨0, []⟩, meshMap := ⟨0, []⟩ }
    boot := d.boot.unpowered
    test := d.test.unpowered d.now
    well := d.well.unpowered
    fabric := d.fabric.unpowered d.sent.length
    hub := d.hub.unpowered }

/-- A fault that takes the main rails off, with its fatal record and FATAL_N (R444); power is lost, and with it the pending sets
(R348). -/
def Dev.powerFault (d : Dev) (code : Nat) : Dev :=
  let d := d.mainOff.faultEvent code none 0
  { d with pins := { d.pins with fatal := true }, hub := d.hub.discardCommits }

/-- POWER_FAIL (R439, R444): it acts while the main rails are on and the device is not held in reset. -/
def Dev.powerFail (lostPwrGood : Bool) (d : Dev) : Dev :=
  let d : Dev := if lostPwrGood then { d with pins := { d.pins with pwrGood := false } } else d
  if !d.power.main || d.pins.resetIn then d else (d.powerFault 0x0C01).onPower fun p => { p with readyDue := true }

/-- POWER_DOWN (R443): a STANDBY request with no job open powers the device down. -/
def Dev.powerDown (d : Dev) : Dev :=
  if d.power.standbyDue && d.noJob then d.mainOff.onPower fun p => { p with readyDue := false } else d

/-- The hottest of the junction sensors (R447). -/
def hottest (tj : List Int) : Int := tj.foldl max (tj.headD 0)

/-- THERMTRIP (R450): power is lost, and with it the pending sets (11_object_dictionary.md R348). -/
def Dev.thermtrip (sensor : Fin 112) (d : Dev) : Dev :=
  if !d.power.aux || d.pins.thermtrip then d
  else
    let d : Dev := { d with pins := { d.pins with thermtrip := true } }
    let tj := if d.power.tj.getD sensor.val 0 < 1250 then d.power.tj.set sensor.val 1250 else d.power.tj
    let d := (d.onPower fun p => { p with tj := tj, tjMax := hottest tj }).mainOff.faultEvent 0x0C03 none 0
    { d with hub := d.hub.discardCommits }

/-! ## Emergencies (R449) -/

/-- An emergency notice to every other device of every open job (R449). -/
def Dev.notices (d : Dev) (begins : Bool) : Dev :=
  (List.finRange 64).foldl (fun d j => match d.job j with
    | some job => (List.range job.params.devices).foldl (fun d v => if v = job.params.ldev then d else d.send (.notice j v begins)) d
    | none => d) d

/-- A power or a thermal emergency declared (R433, R449). -/
def Dev.declare (thermal : Bool) (d : Dev) : Dev :=
  if (if thermal then d.power.emThermal else d.power.emPower) then d
  else
    let first := !d.emergency
    let d := d.onPower fun p => { p with
      emThermal := p.emThermal || thermal, emPower := p.emPower || !thermal, emergencies := satAdd 64 p.emergencies 1 }
    let d : Dev := { d with boot := d.boot.suspend }
    if first then d.notices true else d

/-- The 12 V input in its range as last measured (R439); before the first measurement it is as R442 found it. -/
def Power.vinGood (p : Power) : Bool := p.vin.all fun v => 11400 ≤ v && v ≤ 12600

/-- SUPPLY_OUT_OF_RANGE (R439, R449). -/
def Dev.supplyOutOfRange (d : Dev) : Dev := if d.power.main then d.declare false else d

/-- Whether Watch may program fuses (R424). -/
def Dev.fusesOpen (d : Dev) : Bool := (d.powerState == 2 || d.powerState == 3) && d.power.vinGood

/-- A CONFIRM served (R424): bit by bit, the class's anti-rollback counter rises towards the ROLLBACK of the image in use, as far as
the run of bits goes. The request ends when the counter is there, or with a bit that fails to blow; else it stands. -/
def Dev.raiseRollback (d : Dev) (c : Nat) (run : FuseRun) : Dev :=
  let count := d.fuses.rollback.getD c 0
  let need := ((d.boot.inUse c).map imageRollback).getD 0 - count
  let d : Dev := { d with fuses := { d.fuses with rollback := d.fuses.rollback.set c (count + min need run.bits) } }
  let done := fun (code : Nat) => Dev.endRequest { d with boot := { d.boot with confirm := none } } c code
  if need ≤ run.bits then done 0 else if run.fails then done 0x0B09 else d

/-- A revocation served (R425): the bit of the root-key slot blown, or failing to blow, or not yet blown. -/
def Dev.revoke (d : Dev) (k : Nat) (run : FuseRun) : Dev :=
  let done : Dev := { d with boot := { d.boot with revoke := none } }
  if 0 < run.bits then { done with fuses := { d.fuses with rootRevoked := d.fuses.rootRevoked ||| BitVec.ofNat 4 (2 ^ k) } }
  else if run.fails then done.firmwareFault 0x0B09
  else d

/-- The retirements of Well cells recorded in the fuses (14_entropy_well.md R408). -/
def Dev.recordRetired (d : Dev) : Dev :=
  { d with fuses := { d.fuses with wellRetired := d.fuses.wellRetired ||| d.boot.retired }, boot := { d.boot with retired := 0 } }

/-- Fuse programming that waits, carried out once the conditions of R424 hold. -/
def Dev.serveFuses (d : Dev) : Dev :=
  if !d.fusesOpen then d
  else
    let d := match d.boot.confirm with
      | some r => d.raiseRollback r.1 r.2.2
      | none => d
    let d := match d.boot.revoke with
      | some r => d.revoke (leAt r.1 0 1) r.2.2
      | none => d
    d.recordRetired

/-- Instructions held at every croft tried again, once what held them all is over. -/
def Dev.settleAll (d : Dev) : Dev := d.crofts.foldl (fun d x => d.settle ⟨x.job, x.n⟩) d

/-- A limit written outside an emergency takes effect (R445). -/
def Power.takeLimit (p : Power) : Power := { p with limit := p.nextLimit.getD p.limit, nextLimit := none }

/-- A limit written during the emergency that clears takes effect, over one written before it (R445). -/
def Power.takeClear (p : Power) : Power :=
  { p with limit := (p.clearLimit.or p.nextLimit).getD p.limit, nextLimit := none, clearLimit := none }

/-- STATUS_WORD bits that declare an emergency (R452): POWER_GOOD# [11], VOUT_OV [5], IOUT_OC [4], VIN_UV [3] (PMBus 1.4,
log 29). -/
def statusFault : BitVec 16 := 0x0838

/-- Whether a regulator reports a fault of R452. One whose record is marked missing reports nothing. -/
def BoardReg.faulted (b : BoardReg) : Bool := b.missed < 3 && b.status &&& statusFault != 0

/-- Whether a cause of a power emergency stands (R449): the input out of range, level 10 with P above the limit, or a regulator's
fault. -/
def Power.cause_ (p : Power) : Bool :=
  !p.vinGood || (p.level == 10 && decide (1000 * p.limit < p.package)) || p.board.any BoardReg.faulted

/-- EMERGENCY_CLEAR (R448, R449): when the last emergency clears the crofts resume at level 10. A thermal emergency
needs TJ_MAX at most 110.0 °C, a power emergency that no cause of it stands. -/
def Dev.emergencyClear (thermal : Bool) (d : Dev) : Dev :=
  let p := d.power
  let stands := if thermal then p.emThermal && decide (p.tjMax ≤ 1100) else p.emPower && !p.cause_
  if !stands then d
  else
    let d := d.onPower fun p => { p with emThermal := p.emThermal && !thermal, emPower := p.emPower && thermal }
    if d.emergency then d
    else
      let d := d.onPower fun p =>
        let cause : Fin 4 := if thermal then 2 else 1
        let q : Power := { p.takeClear with level := 10, cause := if p.main then (if p.cause = 0 then cause else p.cause) else 0
                                            changes := if p.main && p.level != 10 then satAdd 64 p.changes 1 else p.changes }
        if p.main then q else { q with level := 0 }
      ((d.notices false).serveFuses).takeHeld.settleAll

/-- EMERGENCY_NOTICE (R449): while one stands, the job's time limits do not run. -/
def Dev.emergencyNotice (j : Fin 64) (dev : Nat) (begins : Bool) (d : Dev) : Dev :=
  d.onJob j fun q =>
    if dev = q.params.ldev || q.params.devices ≤ dev then q
    else if !begins then { q with standing := q.standing.filter fun v => v != dev }
    else if q.standing.contains dev then q else { q with standing := q.standing ++ [dev] }

/-! ## Throttling (R446 to R448) -/

/-- Whether a temperature in 0.1 °C is passed by the junctions or a stack. -/
def Power.hot (p : Power) (limit : Int) : Bool := decide (limit ≤ p.tjMax) || p.hbmTemp.any fun t => decide (limit ≤ t)

/-- Whether the junctions and every stack are at most at a temperature. -/
def Power.cool (p : Power) (limit : Int) : Bool := decide (p.tjMax ≤ limit) && p.hbmTemp.all fun t => decide (t ≤ limit)

/-- The throttle level after an evaluation (R446): powers in mW, the limit in W. -/
def Power.nextLevel (p : Power) (now avg : Nat) : Nat :=
  if 1000 * p.limit < now || p.hot 1050 then min 10 (p.level.val + 1)
  else if 100 * avg ≤ 97 * (1000 * p.limit) && p.cool 1030 then p.level.val - 1
  else p.level.val

/-- THROTTLE_CAUSE after an evaluation (R456): what made the level rise, kept while it stands. -/
def Power.nextCause (p : Power) (now level : Nat) : Fin 4 :=
  if level = 0 then 0
  else
    let power := decide (1000 * p.limit < now) || p.cause.val % 2 = 1
    let heat := p.hot 1050 || 2 ≤ p.cause.val
    Fin.ofNat 4 (power.toNat + 2 * heat.toNat)

/-- POWER_EVALUATION (R445, R446, R449). -/
def Dev.powerEvaluation (now avg : Nat) (overForMs : Bool) (d : Dev) : Dev :=
  if !d.power.main then d
  else
    let d := d.onPower fun p => { p.takeLimit with package := now }
    let level := d.power.nextLevel now avg
    let exceeds := overForMs && d.power.level == 10 && decide (1000 * d.power.limit < now)
    let d := d.onPower fun p => { p with
      level := Fin.ofNat 11 level, cause := p.nextCause now level
      changes := if level = p.level.val then p.changes else satAdd 64 p.changes 1 }
    (if exceeds then d.declare false else d).serveFuses

/-- THERMTRIP_N released while RESET_IN_N is asserted and every sensor reads below 105 °C (R450, R466). -/
def Dev.releaseTrip (d : Dev) : Dev :=
  if d.pins.resetIn && d.power.tj.all fun t => decide (t < 1050) then { d with pins := { d.pins with thermtrip := false } } else d

/-- Whether Hearth runs, and the device is not held in reset (R416, R427 step 3). -/
def Dev.hearthRuns (d : Dev) : Bool := !d.pins.resetIn && (d.boot.inUse 1).isSome

/-- TJ_SAMPLE (R447, R448). The emergency is declared by Hearth. -/
def Dev.tjSample (tj hbm : List Int) (d : Dev) : Dev :=
  if !d.power.aux then d
  else
    let d := d.onPower fun p => { p with tj := tj, hbmTemp := hbm, tjMax := hottest tj }
    (if d.hearthRuns && decide (1150 ≤ d.power.tjMax) then d.declare true else d).releaseTrip

/-! ## Measurements (R353, R452) -/

/-- RAIL_MEASUREMENT (R353): the two inputs from Standby onwards, the rails in Ready, Run and Throttle alone. -/
def Dev.railMeasurement (vin vaux : Nat) (rails : List (Nat × Nat)) (d : Dev) : Dev :=
  if !d.power.aux then d
  else
    (d.onPower fun p => { p with vin := some vin, vaux := vaux, rails := if p.main then rails else p.rails }).serveFuses

/-- Whether the device uses PEC with a regulator (R452): bit 7 of its CAPABILITY. -/
def BoardReg.pec (b : BoardReg) : Bool := b.cap.getLsbD 7

/-- A board regulator after a poll (R353, R452). An answer whose PEC does not match counts as none (log 29). -/
def BoardReg.polled (b : BoardReg) (recs : List PmbusRec) : BoardReg :=
  match recs.find? fun r => r.address == b.address && (r.pecGood || !b.pec) with
  | some r => { b with vout := r.vout, iout := r.iout, temp := r.temp, status := r.status, missed := 0 }
  | none => { b with missed := b.missed + 1, status := if 3 ≤ b.missed + 1 then 0xFFFF else b.status }

/-- What a polled regulator reports (R353, R452): the emergency, the event of other bits, the event of a third miss. -/
def Dev.judgeRegulator (d : Dev) (b : BoardReg) : Dev :=
  if b.missed = 3 then d.eventNamed .regulatorMissed 0 b.address
  else if b.missed != 0 then d
  else
    let d := if b.faulted then
        (d.declare false).onPower fun p => { p with regFaults := satAdd 64 p.regFaults 1 } else d
    if b.status &&& ~~~statusFault != 0 then d.eventNamed .regulatorStatus 0 b.address else d

/-- A poll of every responder. -/
def Dev.poll (recs : List PmbusRec) (d : Dev) : Dev :=
  if !d.power.aux || d.pins.resetIn then d
  else
    let d := d.onPower fun p => { p with board := p.board.map fun b => b.polled recs }
    d.power.board.foldl Dev.judgeRegulator d

/-- PMBUS_POLL (R452). -/
def Dev.pmbusPoll (recs : List PmbusRec) (d : Dev) : Dev := d.poll recs

/-- PMB_ALERT_N (R461): a poll outside the schedule. -/
def Dev.pmbAlertN (recs : List PmbusRec) (d : Dev) : Dev := d.poll recs

/-- PMBUS_SCAN (R353, R452): the responders of addresses 0x40..0x4F in rising address, with VOUT_MODE and CAPABILITY. -/
def Dev.pmbusScan (found : List PmbusFound) (d : Dev) : Dev :=
  if !d.power.aux || d.pins.resetIn then d
  else
    let board := (rangeFrom 0x40 16).filterMap fun a =>
      (found.find? fun p => p.address == a).map fun p => (⟨a, p.mode, p.capability, 0, 0, 0, 0, 0⟩ : BoardReg)
    d.onPower fun p => { p with board := board }

/-! ## Clocks and time signals (R453 to R455) -/

/-- REFCLK_LOSS (R453). -/
def Dev.refclkLoss (d : Dev) : Dev := if d.power.aux then d.onPower fun p => { p with refUnlocked := true } else d

/-- REFCLK_RETURN (R453). -/
def Dev.refclkReturn (d : Dev) : Dev := d.onPower fun p => { p with refUnlocked := false, refAbsent := false }

/-- CLOCK_LOST (R444, R453): the loss has lasted more than 10 µs; it is a fault while the main rails are on. -/
def Dev.clockLost (d : Dev) : Dev :=
  if !d.power.refUnlocked then d
  else
    let d := d.onPower fun p => { p with refAbsent := true }
    if d.power.main && !d.pins.resetIn then (d.powerFault 0x0C02).onPower fun p => { p with readyDue := true } else d

/-- DROOP_STRETCH (R454): a stretch begins, or ends 16 cc after the rail recovered. -/
def Dev.droopStretch (s : Fin 80) (begins : Bool) (d : Dev) : Dev :=
  match d.slot s with
  | some t =>
    if t.island == .off then d
    else
      let d := d.onSlot s fun u => { u with stretched := begins }
      if begins && !t.stretched then d.onPower fun p => { p with droops := satAdd 64 p.droops 1 } else d
  | none => d

/-- Half nanoseconds in a second. -/
def halfSecondNs : Nat := 2000000000

/-- The step to the nearest whole second from a time in units of 0.5 ns, in ns (R282). -/
def toWholeSecond (at2 : Nat) : Int :=
  let r := at2 % halfSecondNs / 2
  if r ≤ 500000000 then -(r : Int) else 1000000000 - r

/-- A time master that follows 1PPS alone: as it becomes master it steps when it is more than 1 ms off, and at every other edge it
slews, at most 500 ppm over the second (R281, R282). -/
def Dev.followPps (d : Dev) (at2 : Nat) : Dev :=
  if d.fabric.timeState != .master || d.fabric.ptpValid then d else d.followSource (toWholeSecond at2) 500000

/-- 1PPS has become valid or ceased to be: the time master is chosen anew while the hub has power (R281). -/
def Dev.ppsChanged (d : Dev) (was : Bool) : Dev := if d.power.main && d.power.ppsValid != was then d.sourceChanged else d

/-- A stamp of device time, in units of 0.5 ns, as elapsed time: what stepped or slewed device time is taken out. -/
def Dev.elapsedHalf (d : Dev) (at2 : Nat) : Nat := ((at2 : Int) - 2 * d.time.offset).toNat

/-- PPS_IN_EDGE (R455): three edges in a row 1 s apart within 1 µs make the input valid. The distance of two edges is elapsed time, in
which no step and no slew of device time counts (09_fohal_scale_out.md R282). -/
def Dev.ppsInEdge (at2 : Nat) (d : Dev) : Dev :=
  if !d.power.aux || d.pins.resetIn then d
  else
    let p := d.power
    let here := d.elapsedHalf at2
    let good := match p.ppsLast with
      | some t => t + halfSecondNs ≤ here + 2000 && here ≤ t + halfSecondNs + 2000
      | none => false
    let n := if good then min 3 (p.ppsEdges + 1) else 1
    let d := d.onPower fun p => { p with ppsEdges := n, ppsValid := decide (3 ≤ n), ppsLast := some here }
    let d := d.ppsChanged p.ppsValid
    if 3 ≤ n then d.followPps at2 else d

/-- PPS_IN_ABSENT (R455). -/
def Dev.ppsInAbsent (d : Dev) : Dev :=
  (d.onPower fun p => { p with ppsEdges := 0, ppsValid := false, ppsLast := none }).ppsChanged d.power.ppsValid

/-- PPS_OUT_SECOND (R455, R470): the output rises at a whole second of device time and falls 100 µs later; it is low while it is not
enabled and during reset. -/
def Dev.ppsOutSecond (rise : Bool) (d : Dev) : Dev :=
  let second := 1000000000
  if !(d.settings.ppsOutEnable && d.power.aux && !d.pins.resetIn) then { d with pins := { d.pins with ppsOut := false } }
  else if rise then
    let d := d.passTo ((d.now + second - 1) / second * second)
    { d with pins := { d.pins with ppsOut := true } }
  else
    let d := if d.pins.ppsOut then d.passTo (d.now / second * second + 100000) else d
    { d with pins := { d.pins with ppsOut := false } }

end Sys2Proof.Machine
end

