-- ==== Sys2Proof/Machine/Arrive.lean ====
section
/-!
DEFINITION. What arrives from other devices over Fohal: flits, the messages they carry, and their effect on the job they belong to
(09_fohal_scale_out.md R260 to R263, R269, R276 to R279, R293, R294, R299; 07_croft_instruction_set.md R205, R210, R222).
-/

namespace Sys2Proof.Machine

/-! ## Messages -/

/-- The open job that a message from a source belongs to here (R260, R276, log 22), when the job includes the source. -/
def Dev.jobOfMsg (d : Dev) (src : Nat) (j : Option (Fin 64)) : Option (Fin 64) :=
  j.filter fun k => (d.job k).any fun q => q.devs.contains src

/-- The command that completes with a fault raised on another device: that of the collective it names, begun or not, while it is
not finished; else the oldest launch (R226, R292, R293). -/
def Dev.haltCarrier (d : Dev) (j : Fin 64) (coll : Option Word32) : Option Nat :=
  (coll.bind fun id => (d.cmds.find? fun c =>
    c.job == some j && c.opcode == 4 && c.state != .finished && c.arg 0x24 4 == id.toNat).map (·.id)).or (d.launchOf j)

/-- A job halted by a fault that another of its devices raised, with the record made there (R226, R292, R293, R296, R299). The halt
is not passed on, since its origin told every device. -/
def Dev.haltedElsewhere (j : Fin 64) (fr : FaultRec) (coll : Option Word32) (d : Dev) : Dev :=
  match d.job j with
  | none => d
  | some q =>
    if q.fault.isSome then d
    else
      let other := if fr.code = 0x0701 || fr.code = 0x0703 then fr.code else 0x010D
      { d.haltJob j fr none (d.haltCarrier j coll) other with sent := d.sent }

/-- The acknowledgement of a MESH.PUT to another device (R205, R278): its mesh unit is told by the tag, and the message is through. -/
def Dev.putAcked (tag : Nat) (d : Dev) : Dev :=
  let d : Dev := { d with fabric := { d.fabric with messages := d.fabric.messages.filter fun m => m.tag != tag } }
  let waits := fun (x : Croft) => match x.units.mesh with
    | some r => InstrWord.operation r.ins.word == some .put && r.desc.length == 68 && leAt r.desc 64 4 == tag
    | none => false
  match d.crofts.find? waits with
  | some x => d.writeAcknowledgement ⟨x.job, x.n⟩ true
  | none => d

/-- A message of a job taking effect. -/
def Dev.hearJob (j : Fin 64) (m : FabricMsg) (d : Dev) : Dev :=
  match m with
  | .signal s => d.remoteSignal { s with job := j }
  | .arrivals implicit num parties dev count => d.barrierArrival j true num parties (.subtree dev count implicit)
  | .release implicit num t => d.barrierForward j num (.down t implicit)
  | .refuse collId dst step chunk seg attempt => d.refuse j collId dst step chunk seg attempt
  | .accept collId dst step chunk seg => d.accepted j collId dst step chunk seg
  | .halt code step detail coll => d.haltedElsewhere j ⟨code, step, detail⟩ coll
  | .notice dev begins => d.emergencyNotice j dev begins
  | .handshake croft e h => d.haloHandshake ⟨j, croft⟩ e h
  | .linkState _ => d
  | .ack _ => d

/-- A message taking effect (R277): a link-state record and an acknowledgement belong to no job. -/
def Dev.hear (src : Nat) (j : Option (Fin 64)) (m : FabricMsg) (d : Dev) : Dev :=
  match m with
  | .linkState r => d.linkStateRecord r
  | .ack t => d.putAcked t
  | m => match d.jobOfMsg src j with
    | some j => d.hearJob j m
    | none => d

/-- Whether a message is a link-state record, which its generation tells apart from a duplicate (R270). -/
def isLinkState : FabricMsg → Bool
  | .linkState _ => true
  | _ => false

/-- The end-to-end sequences seen from a source (R279): all below the first, and those of the list. -/
def Dev.ctrlSeenOf (d : Dev) (src : Nat) : Word32 × List Word32 :=
  ((d.fabric.ctrlSeen.find? fun p => p.1 == src).map (·.2)).getD (0, [])

/-- Whether a sequence has been seen. -/
def seqSeen (s : Word32 × List Word32) (q : Word32) : Bool := decide (2 ^ 31 ≤ (q - s.1).toNat) || s.2.contains q

/-- The sequences seen, with one more. -/
def seqAdd (s : Word32 × List Word32) (q : Word32) : Word32 × List Word32 :=
  let all := s.2 ++ [q]
  (List.range all.length).foldl (fun t _ => if t.2.contains t.1 then (t.1 + 1, t.2.erase t.1) else t) (s.1, all)

/-- A message on CTRL: one whose end-to-end sequence has been seen is discarded; a restarted one that comes after later ones is not
(R279). -/
def Dev.hearCtrl (src : Nat) (j : Option (Fin 64)) (seq : Word32) (m : FabricMsg) (d : Dev) : Dev :=
  let seen := d.ctrlSeenOf src
  if isLinkState m then d.hear src j m
  else if seqSeen seen seq then d
  else
    let rest := d.fabric.ctrlSeen.filter fun p => p.1 != src
    let d : Dev := { d with fabric := { d.fabric with ctrlSeen := rest ++ [(src, seqAdd seen seq)] } }
    d.hear src j m

/-- A halo record in its 32 bytes (06_lattice_field.md R178). -/
def haloRecOf (b : List Byte) : HaloRec :=
  ⟨BitVec.ofNat 64 (leAt b 0 8), BitVec.ofNat 32 (leAt b 8 4), BitVec.ofNat 128 (leAt b 0x10 16)⟩

/-- The halo records of a flit reach the Fields of their job; each takes those of its own edges (R178, R294). -/
def Dev.takeHalo (j : Fin 64) (body : List Byte) (d : Dev) : Dev :=
  (List.range (body.length / 32)).foldl (fun d i =>
    let r := haloRecOf (slice body (32 * i) 32)
    (d.crofts.filter fun x => x.job == j).foldl (fun d x => d.haloRecord ⟨j, x.n⟩ r) d) d

/-- A collective contribution in the bytes of its message (R290). -/
def Dev.takeContribution (j : Fin 64) (body : List Byte) (d : Dev) : Dev :=
  let len := leAt body 0x14 4
  d.contribution j (BitVec.ofNat 256 (leAt body 0 32)) (slice body 32 (min len segMax)) (BitVec.ofNat 128 (leAt body (32 + len) 16))

/-- A complete message that is no MESH.PUT (R277, R279). -/
def Dev.takeBody (chan src : Nat) (j : Option (Fin 64)) (target : Word64) (body : List Byte) (d : Dev) : Dev :=
  if chan = 3 then (match d.jobOfMsg src j with
    | some j => d.takeContribution j body
    | none => d)
  else if chan = 1 && target == Config.haloTarget then (match d.jobOfMsg src j with
    | some j => d.takeHalo j body
    | none => d)
  else match Config.decodeMsg chan target body with
    | none => d
    | some (seq, m) => if chan = 0 then d.hearCtrl src j seq m else d.hear src j m

/-- The bytes of a MESH.PUT landing at a logical croft (R205, R278). PROG_WRITE is raised at the writer's start alone (R222, log 22);
a croft that no launch has named has no Granary to write (R246). -/
def Dev.landPut (j : Fin 64) (n : Fin 256) (off : Nat) (data : List Byte) (d : Dev) : Dev :=
  match d.croft ⟨j, n⟩ with
  | none => d
  | some x => if granarySize < off + data.length then d else d.setCroft (x.write off data)

/-! ## Flits -/

/-- The payload of a flit (R260). -/
def flitData (f : BitVec 2048) : List Byte := ((flitBytes f).drop 0x1C).take (32 * (flitAt f 6 1 % 8))

/-- What has come of the message that a flit belongs to, before it: with RESTART, nothing (R279). -/
def Dev.partialOf (d : Dev) (src tag : Nat) (restart : Bool) : Partial :=
  let p := if restart then none else d.fabric.partials.find? fun p => p.src == src && p.tag == tag
  p.getD ⟨src, tag, 0, none, []⟩

/-- What has come of a message with one flit more (R260, R279). -/
def Partial.add (p : Partial) (off : Nat) (data : List Byte) (last keep : Bool) : Partial :=
  { p with
    count := p.count + data.length
    total := if last then some (off + data.length) else p.total
    bytes := if keep then writeBytes p.bytes off data else p.bytes }

/-- Whether every byte of a message is in. -/
def Partial.complete (p : Partial) : Bool := p.total.any fun t => decide (t ≤ p.count)

/-- The device with what has come of a message kept, or dropped once it is complete. -/
def Dev.keepPartial (d : Dev) (p : Partial) : Dev :=
  let rest := d.fabric.partials.filter fun q => !(q.src == p.src && q.tag == p.tag)
  { d with fabric := { d.fabric with partials := if p.complete then rest else rest ++ [p] } }

/-- A flit of a message for this device (R260, R278, R279): MESH.PUT data land at once and are acknowledged when all are in; any
other message takes effect when it is complete. -/
def Dev.takePayload (f : BitVec 2048) (job : Option (Fin 64)) (d : Dev) : Dev :=
  let src := flitSrc f
  let tag := flitTag f
  let chan := flitAt f 5 1 % 4
  let off := flitAt f 0x18 4
  let flags := flitAt f 7 1
  let data := flitData f
  let croft := match memRef (flitAt f 0x10 8) with
    | .croft n o => if chan = 3 then some (n, o) else none
    | _ => none
  let p := (d.partialOf src tag (bitOf flags 2)).add off data (bitOf flags 1) croft.isNone
  let d := d.keepPartial p
  match croft with
  | some (n, o) =>
    match d.jobOfMsg src job with
    | none => d
    | some j =>
      let d := d.landPut j (Fin.ofNat 256 n) (o + off) data
      if p.complete then d.send (.ack src tag (d.adaptiveJob j)) else d
  | none =>
    if p.complete then d.takeBody chan src job (BitVec.ofNat 64 (flitAt f 0x10 8)) (readBytes p.bytes 0 (p.total.getD 0)) else d

/-- The corrected symbols of a received flit counted, by lane and for the port, and the uncorrectable codewords that begin with it
(R258, R269, R298). -/
def Port.countFec (fec : List Nat) (bad : Nat) (q : Port) : Port :=
  { q with
    fec := (q.fec.zipIdx).map fun p => p.1 + fec.getD p.2 0
    counters := { q.counters with corrected := satAdd 64 q.counters.corrected fec.sum, bad := satAdd 64 q.counters.bad bad } }

/-- A flit that is lost, counted (R261, R298). -/
def Port.countLost (q : Port) : Port := { q with counters := { q.counters with lost := satAdd 64 q.counters.lost 1 } }

/-- The NAK of the expected SEQ, at most once in a round trip (R263). -/
def Dev.sendNak (p : Nat) (d : Dev) : Dev :=
  match d.port p with
  | none => d
  | some q =>
    if q.nakSent && decide (64 * d.time.elapsed < 64 * q.nakAt + q.rtt * unitsPerNs) then d
    else (d.onPort p fun q => { q with nakSent := true, nakAt := d.time.elapsed }).sendLink p (bareFlit 2)

/-- A flit in sequence (R262): the link advances, and what the partner has acknowledged is let go. It alone counts as received: an
intact flit discarded out of sequence does not, which R298 does not settle (DESIGN CHOICE, log 106). -/
def Port.advance (f : BitVec 2048) (q : Port) : Port :=
  { q.acked (BitVec.ofNat 16 (flitAt f 2 2)) with
    expectSeq := q.expectSeq + 1, nakSent := false
    counters := { q.counters with received := satAdd 64 q.counters.received 1 } }

/-- FOHAL_FLIT (R260 to R263, R269): a lost flit, and every later one until the expected SEQ arrives, is discarded, and the expected
SEQ is NAKed; a flit in sequence advances the link and acts by its type: a NAK resends, a payload is taken or passed on. -/
def Dev.fohalFlit (p : Fin 12) (a : FlitArrival) (lost : Bool) (d : Dev) : Dev :=
  let f := a.flit
  match d.port p.val with
  | none => d
  | some q =>
    if q.state != .up then d
    else
      let d := d.onPort p.val (Port.countFec a.fec a.bad.val)
      if lost || !flitCrcOk f then (d.onPort p.val Port.countLost).sendNak p.val
      else if flitSeq f != q.expectSeq then (if seqPrecedes q.expectSeq (flitSeq f) then d.sendNak p.val else d)
      else
        let d := d.onPort p.val (Port.advance f)
        match flitType f with
        | 1 => if flitAt f 8 2 % 2 ^ 15 == d.ownAddr then d.takePayload f a.job else d.forward p.val a.adaptive f
        | 2 => d.nak p (BitVec.ofNat 16 (flitAt f 2 2))
        | _ => d

end Sys2Proof.Machine
end

