-- ==== Sys2Proof/Machine/Boot.lean ====
section
/-!
DEFINITION. Reset, the boot sequence, powering up, Dremos, and the requests of firmware update and fuses
(15_boot_firmware_security.md R424 to R434; 16_power_clocks_thermal.md R441, R442; 17_package_balls_electrical.md R467).
-/

namespace Sys2Proof.Machine

/-! ## Volatile state at a reset (R332, R467) -/

/-- A slot after device reset: its stored state and its repairs stay (R332, R383, log 30). -/
def Slot.reset (t : Slot) : Slot :=
  { t with
    island := .off, cycles := 0, stepsDone := 0, aged := 0, refKhz := 0, drift := 0, marked := false, noSpareAt := none
    errors := ⟨0, 0, 0, 0, 0, 0⟩, haloMax := [0, 0, 0, 0], rollbacks := 0, replayAt := [], fencing := false, checked := false
    view := [], viewPoison := [], stretched := false, moveMap := ⟨0, []⟩, meshMap := ⟨0, []⟩ }

/-- The power side after device reset; a sensor's reading stays while THERMTRIP_N is held. A stored POWER_LIMIT is in
force (R445). -/
def Power.reset (p : Power) (trip : Bool) : Power where
  aux := p.aux
  main := false
  level := 0
  cause := 0
  emPower := false
  emThermal := false
  limit := (p.clearLimit.or p.nextLimit).getD p.limit
  nextLimit := none
  clearLimit := none
  package := 0
  vin := none
  vaux := 0
  rails := []
  board := []
  hbmTemp := List.replicate 12 0
  tj := if trip then p.tj else List.replicate 112 0
  tjMax := if trip then p.tjMax else 0
  standbyDue := false
  readyDue := true
  readyAsked := false
  levelNs := 0
  changes := 0
  emergencies := 0
  droops := 0
  regFaults := 0
  refUnlocked := false
  refAbsent := false
  ppsValid := false
  ppsEdges := 0
  ppsLast := none

/-- The memory units before power-up measures them (08_mesh_and_memory.md R255). -/
def MemUnits.reset (u : MemUnits) : MemUnits where
  hbmPresent := 0
  hbmBacked := List.replicate 12 0
  lpInstalled := List.replicate 24 0
  lpState := List.replicate 24 0
  errors := u.errors.map fun e => { e with corrected := 0, poisoned := 0, repaired := 0 }
  scrubLast := List.replicate 36 0
  unfitDue := false
  unfit := false

/-- The boot state as the ROM finds it: what flash holds, and no image in use (R427, R433). -/
def Boot.reset (b : Boot) : Boot :=
  { b with
    step := 0, running := List.replicate 6 none, staging := List.replicate 6 none, act := .idle, actClass := 0, actSince := 0
    switched := 0, confirm := none, revoke := none, retired := 0, dremos := none, key := 0, bundle := 0, genKat := 0, genRuns := 0
    current := List.replicate 6 none, cores := List.replicate 23 ⟨none, []⟩, mail := List.replicate 23 [], released := false }

/-- Everything volatile at its default (R332, R467), the queue of commands and the outside's record of what was sent
apart. Device time and elapsed time start at 0 (09_fohal_scale_out.md R282). -/
def Dev.defaults (d : Dev) : Dev :=
  let d := d.mainOff
  { d with
    time := ⟨0, 0⟩
    slots := d.slots.map Slot.reset
    queues := []
    units := d.units.reset
    power := d.power.reset d.pins.thermtrip
    boot := d.boot.reset
    well := Well.reset d.fuses.wellRetired
    fabric := { d.fabric with
      ports := List.replicate 12 Port.reset, topo := [], topoGen := 0, mismatch := [], lost := [], flagged := [] }
    hub := Hub.reset d.hub.ledgersSigned
    shadow := d.live
    logs := { d.logs with aggregates := [], trace := [], traceSeq := 0, overruns := 0, traceOn := false, traceLast := none }
    mapGen := 0 }

/-! ## The flashes under a board agent (R418 to R420) -/

/-- Bytes of an image slot (R418). -/
def slotSize (c : Nat) : Nat := ([0x100000, 0x100000, 0x200000, 0x100000, 0x800000, 0x6000000] : List Nat).getD c 0

/-- The offset of a class's image slot in its flash (R418). -/
def slotBase (c : Nat) : Nat := ([0x100000, 0x200000, 0x300000, 0x500000, 0x600000, 0x1000000] : List Nat).getD c 0

/-- The class whose image slot holds an offset of a flash (R418). -/
def classAt (a : Nat) : Option Nat := (List.range 6).find? fun c => decide (slotBase c ≤ a) && decide (a < slotBase c + slotSize c)

/-- Whether every xSPI ball is at high impedance (R420, R467), so that a board agent may use the flashes. -/
def Dev.xspiReleased (d : Dev) : Bool := d.pins.resetIn || !d.power.aux

/-- A byte of a flash outside the event log and the dictionary store, as a board agent reads it (R418, R420): the boot directory
record, an image slot, which reads as ones past its image (log 38), or a region that no image slot holds, which reads as ones where
nothing was programmed (log 97). The cells of such a region hold the complement. -/
def Boot.flashByte (b : Boot) (flash : Fin 2) (a : Nat) : Byte :=
  let kept := ~~~readByte (b.regions.getD flash.val []) a
  match classAt a with
  | some c => ((b.flash.getD flash.val []).getD c []).getD (a - slotBase c) 0xFF
  | none => if a < 64 then (match b.dirs.getD flash.val none with
      | some r => r.bytes.getD a 0
      | none => kept)
    else kept

/-- The boot directory record in 64 bytes, when its CRC passes (R419). -/
def bootDirOf (bs : List Byte) : Option BootDir :=
  if leAt bs 0x3C 4 = (crc32 (bs.take 0x3C)).toNat then some ⟨leAt bs 4 4, (List.range 6).map fun c => leAt bs (8 + c) 1 == 1⟩ else none

/-- An image slot with one byte programmed. -/
def programSlot (old : List Byte) (off : Nat) (v : Byte) : List Byte :=
  (old ++ List.replicate (off + 1 - old.length) 0xFF).set off v

/-- A byte programmed by a board agent (R420). A staged image that it touches is no longer a verified one. -/
def Boot.program (flash : Fin 2) (b : Boot) (a : Nat) (v : Byte) : Boot :=
  match classAt a with
  | some c => { b with
      flash := modifyAt b.flash flash.val fun l => l.set c (programSlot (l.getD c []) (a - slotBase c) v)
      stagedVersion := if b.slotInUse c == (flash.val == 1) then b.stagedVersion else b.stagedVersion.set c 0 }
  | none =>
    let rec_ := ((List.range 64).map (b.flashByte flash)).set a v
    let b : Boot := { b with regions := modifyAt b.regions flash.val fun m =>
      if a < 64 then writeBytes m 0 (rec_.map fun x => ~~~x) else writeBytes m a [~~~v] }
    if a < 64 then { b with dirs := b.dirs.set flash.val (bootDirOf rec_) } else b

/-- What a board agent programmed while the device was held in reset: pieces of a flash, each with its offset (R420). -/
def Boot.programAll (b : Boot) (pieces : List (Fin 2 × Nat × List Byte)) : Boot :=
  pieces.foldl (fun b p => (p.2.2.zipIdx).foldl (fun b q => b.program p.1 (p.2.1 + q.2) q.1) b) b

/-- Where the event log begins in flash 0, and its bytes (R418). -/
def logBase : Nat := 0x8000000
/-- Bytes of the event log. -/
def logSize : Nat := 0x800000

/-- A byte programmed over the event log, which lies in flash 0 (R393, R418). -/
def Logs.program (l : Logs) (flash : Fin 2) (a : Nat) (v : Byte) : Logs :=
  if flash = 0 && decide (logBase ≤ a) && decide (a < logBase + logSize) then
    { l with raw := (l.raw.filter fun p => p.1 != a - logBase) ++ [(a - logBase, v)] }
  else l

/-- What a board agent programmed over the event log. -/
def Logs.programAll (l : Logs) (pieces : List (Fin 2 × Nat × List Byte)) : Logs :=
  pieces.foldl (fun l p => (p.2.2.zipIdx).foldl (fun l q => l.program p.1 (p.2.1 + q.2) q.1) l) l

/-! ## Boot (R427, R428) -/

/-- A class's image taken into use (R427, R428): of its active slot, else of the other slot, which is logged; the slot that failed then
holds no verified image (R430). Every failed verification is logged (R438). -/
def Dev.bootClass (rom : Bool) (c : Nat) (d : Dev) : Dev :=
  let use := fun (d : Dev) (s : Bool) => { d with boot := d.boot.use c ⟨s, d.boot.slotImage s c⟩ }
  let a := d.boot.active c
  match d.verifyImage rom c a (d.boot.slotImage a c) with
  | none => use d a
  | some code =>
    let d := d.firmwareFault code
    match d.verifyImage rom c (!a) (d.boot.slotImage (!a) c) with
    | none =>
      let d := use d (!a)
      Dev.event { d.draw.2 with boot := { d.boot with stagedVersion := d.boot.stagedVersion.set c 0 } } 0xE030 2 0 0 d.draw.1
    | some code => d.firmwareFault code

/-- Whether a class has an image in use. -/
def Dev.boots (d : Dev) (c : Nat) : Bool := (d.boot.inUse c).isSome

/-- Both slots of a class of 1 to 4 have failed (R428): the device stays in Standby with FATAL_N asserted. -/
def Dev.bootFailed (d : Dev) : Dev :=
  let d := d.mainOff.firmwareFault 0x0B08
  { d with pins := { d.pins with fatal := true }, boot := { d.boot with step := 2 } }

/-- RESET_IN_N_ASSERT (R467): the device is held in reset, FATAL_N and ALERT_N are released, and every open job is lost
without a record. -/
def Dev.resetAssert (d : Dev) : Dev :=
  if !d.power.aux then d
  else
    let d := d.mainOff
    Dev.releaseTrip { d with
      pins := { d.pins with resetIn := true, fatal := false, ppsOut := false }
      boot := { d.boot with step := 0 }
      hub := { d.hub with sessions := d.hub.sessions.map fun _ => none } }

/-- RESET_IN_N_RELEASE (R420, R427 steps 1 to 4, R428, R467): what a board agent programmed is in the flashes; the ROM boots Watch, Watch derives its key and boots Hearth, and
the device is in Standby. A class 0 that fails stops the ROM with FATAL_N asserted. -/
def Dev.resetRelease (straps : Fin 4) (pieces : List (Fin 2 × Nat × List Byte)) (d : Dev) : Dev :=
  if !d.power.aux || !d.pins.resetIn then d
  else
    let d := Dev.defaults { d with boot := d.boot.programAll pieces, logs := d.logs.programAll pieces }
    let d : Dev := { d with pins := { d.pins with resetIn := false, fatal := false, ppsOut := false, straps := straps } }
    let d := d.bootClass true 0
    if !d.boots 0 then { d with pins := { d.pins with fatal := true }, boot := { d.boot with step := 1 } }
    else
      let d : Dev := { d with boot := { d.boot with key := attestKey d.fuses } }
      let d := d.bootClass false 1
      if !d.boots 1 then d.bootFailed
      else { d with boot := { d.boot with step := 4, bundle := d.boot.highestBundle } }

/-- VAUX_OUT_OF_RANGE (R439, R441): the device is Off, where no firmware core runs (R416). Every output is released, the TAP loses
its state, and pending sets are discarded (11_object_dictionary.md R348). -/
def Dev.vauxOut (d : Dev) : Dev :=
  let d := d.mainOff
  { d with
    pins := { d.pins with fatal := false, thermtrip := false, ppsOut := false }
    power := { d.power with aux := false }
    boot := { d.boot with
      step := 0, running := List.replicate 6 none, cores := List.replicate 23 ⟨none, []⟩, bundle := 0 }
    tap := ⟨.testLogicReset, 1, [], none⟩
    hub := { d.hub.discardCommits with sessions := d.hub.sessions.map fun _ => none } }

/-- VAUX_IN_RANGE (R441): the device leaves Off, held in reset until RESET_IN_N is released (R468). -/
def Dev.vauxIn (d : Dev) : Dev :=
  if d.power.aux then d
  else { d with power := { d.power with aux := true }, pins := { d.pins with resetIn := true } }

/-! ## Standby to Ready (R427 steps 5 to 8, R442) -/

/-- Backed bytes of a trained stack of a grade (00_scope.md R3). -/
def stackBytes (grade : BitVec 2) : Nat := if grade = 2 then 36000000000 else 48000000000

/-- The memory units as power-up measured them (08_mesh_and_memory.md R251, R252, R255): a subsystem whose training failed still
tells its installed bytes from its mode registers; and the row repairs that are left (13_checking_replay_test.md R387). -/
def MemUnits.trained (u : MemUnits) (grade : BitVec 2) (m : MemTraining) : MemUnits :=
  { u with
    hbmPresent := m.hbmTrained
    hbmBacked := (List.range 12).map fun s => if m.hbmTrained.getLsbD s then stackBytes grade else 0
    lpInstalled := m.lpddr.map fun p => if p.2 = 0 then 0 else p.1
    errors := (u.errors.zipIdx).map fun p => { p.1 with left := m.left.getD p.2 0 }
    lpState := m.lpddr.map (·.2) }

/-- The slots at power-up (08_mesh_and_memory.md R474; 01_croft_anatomy.md R34): Granaries cleared, the islands of ACTIVE
slots in Idle. -/
def Dev.powerUpSlots (d : Dev) : Dev :=
  let map_ := powerUpMap d.fuses.grade d.fuses.slotDisable (d.slots.map (·.spare))
  { d with slots := (d.slots.zip map_).map fun p =>
      { p.1 with spare := p.2, island := if p.2 == .active then .idle else .off, view := [], viewPoison := [], checked := false } }

/-- The Well at power-up (R405). -/
def Well.powerUp (w : Well) (enable : Bool) : Well :=
  if w.phase == .failed || !enable then w
  else { w with
    phase := .starting
    cells := w.cells.map fun c => if c.state == .active then { c with settling := true, startup := 4 } else c }

/-- Whether R442 may run: out of reset, booted to Standby, no trip, not put in Standby on request, and the 12 V input not measured out
of its range. -/
def Dev.mayPowerUp (d : Dev) : Bool :=
  d.boot.step == 4 && d.power.aux && !d.pins.resetIn && !d.pins.thermtrip && !d.power.main && d.power.readyDue && d.power.vinGood

/-- Step 7 of R427: all the checks of R123, those of steps 1 to 3 and then those of every slot in Idle. -/
def Dev.allChecks (bad : List (Fin 80)) (d : Dev) : Dev :=
  (List.finRange 80).foldl (fun d s => match d.slot s with
    | some t => if t.island == .idle then d.generatorCheck (some s) (!bad.contains s) else d
    | none => d) (d.generatorCheck none true)

/-- SPARE_MAP, as its array changes (11_object_dictionary.md R343). -/
def Dev.spareMap (d : Dev) : List SpareState := d.slots.map (·.spare)

/-- The changes of SPARE_MAP and of GEN_KAT that a power-up makes beyond the one that shows: each slot fenced by its check is a change of
the map after that of the map's own, and the first turns GEN_KAT once more (R343). -/
def Dev.countChecks (before mapped : Dev) (d : Dev) : Dev :=
  let fenced := ((mapped.spareMap.zip d.spareMap).filter fun p => p.1 != p.2).length
  let one := fun (x y : Dev) => (x.spareMap != y.spareMap).toNat
  if fenced = 0 then d else (d.changedMore (one before mapped + fenced - one before d) 0x1011 1).changedMore 1 0x6003 1

/-- Step 8 of R427: the body of the verified monitor in HBM3E, where the manual does not say (log 108), and the application cores
released in machine mode. -/
def Dev.releaseMonitor (d : Dev) : Dev :=
  let img := (d.boot.inUse 4).getD []
  let d := d.write (Config.monitorAt % (12 * 2 ^ 36)) (slotSlice img 0x200 (imageBody img))
  { d with boot := { d.boot with released := true } }

/-- POWER_UP_SEQUENCE (R427, R428, R442): Bailiff and the Reeves boot, memory trains, all checks of R123 run, and the
device is Ready; then the monitor boots. The 12 V input has been in range for 10 ms with PWR_GOOD_IN high. -/
def Dev.powerUp (m : MemTraining) (d : Dev) : Dev :=
  if !d.mayPowerUp then d
  else
    let d : Dev := { d with pins := { d.pins with pwrGood := true } }
    let d := d.bootClass false 2
    if !d.boots 2 then d.bootFailed
    else
      let d := d.bootClass false 3
      if !d.boots 3 then d.bootFailed
      else
        let d : Dev := { d with units := d.units.trained d.fuses.grade m }
        let d := Dev.countChecks d d.powerUpSlots (d.powerUpSlots.allChecks m.badSlots)
        let d : Dev := { d with
          power := { d.power with main := true, readyDue := false, readyAsked := false }
          pins := { d.pins with fatal := false }
          well := d.well.powerUp d.settings.wellEnable }
        let d := d.bootClass false 4
        if !d.boots 4 then d.bootFailed
        else
          let d := d.bootClass false 5
          let d := d.releaseMonitor
          Dev.serveFuses { d with boot := { d.boot with step := 8, bundle := d.boot.highestBundle } }

/-- The read or the GET by which the monitor fetches a number of bytes of the Dremos image (R429): DREMOS_SOURCE holds the kind, the
namespace, the LBA and the port. -/
def Boot.dremosFetch (b : Boot) (bytes : Nat) : Sent :=
  let r := b.dremosSource
  if leAt r 0 2 = 0 then .nvmeRead (leAt r 2 4) (leAt r 6 8) bytes else .httpGet (leAt r 14 1) b.dremosUrl

/-- DREMOS_LOAD (R429): the released monitor fetches an image of BODY_BYTES + 512 bytes, and Watch verifies it as class 6. One that
cannot be fetched, or comes short, is DREMOS_LOAD. -/
def Dev.dremosLoad (image : Option (List Byte)) (d : Dev) : Dev :=
  if !d.boot.released || d.boot.dremos.isSome then d
  else match image with
    | none => (d.send (d.boot.dremosFetch 512)).firmwareFault 0x0B0A
    | some got =>
      let bytes := imageBody got + 512
      let d := d.send (d.boot.dremosFetch bytes)
      if got.length < bytes then d.firmwareFault 0x0B0A
      else
        let bs := got.take bytes
        match d.verifyImage false 6 false bs with
        | some code => d.firmwareFault code
        | none => Dev.gainFirmware { d with boot := { d.boot with dremos := some bs } } 6 bs

/-! ## Requests (R424, R425, R430, R431, R443)

A request answers the device, or the status code of R340 that refuses it. -/

/-- Bytes an image needs, once its header's BODY_BYTES is there. -/
def imageNeed (bs : List Byte) : Option Nat := if bs.length < 0x14 then none else some (0x200 + imageBody bs)

/-- Whether the bytes of a staging are complete. -/
def stagedWhole (bs : List Byte) : Bool := (imageNeed bs).any fun n => n ≤ bs.length

/-- IMAGE_STAGE (R430). -/
def Dev.imageStage (c off : Nat) (data : List Byte) (d : Dev) : Except Nat Dev :=
  let b := d.boot
  if slotSize c < off + data.length then .error 4
  else if off != 0 && b.staging.getD c none != some off then .error 5
  else if b.act != .idle && b.actClass = c then .error 8
  else
    let f := !b.slotInUse c
    let old := if off = 0 then [] else b.slotImage f c
    let new := old ++ data
    let flash := modifyAt b.flash f.toNat fun l => l.set c new
    let d : Dev := { d with boot := { b with
      flash := flash, staging := b.staging.set c (some new.length)
      stagedVersion := if off = 0 then b.stagedVersion.set c 0 else b.stagedVersion } }
    if stagedWhole old || !stagedWhole new then .ok d
    else match d.verifyImage false c f new with
      | none => .ok { d with boot := { d.boot with stagedVersion := d.boot.stagedVersion.set c (imageVersion new).toNat } }
      | some code => .ok (d.firmwareFault code)

/-- ACTIVATE (R431 step 1). -/
def Dev.activate (c : Nat) (d : Dev) : Except Nat Dev :=
  if 5 < c then .error 5
  else if d.boot.act != .idle then .error 8
  else
    let f := !d.boot.slotInUse c
    let d : Dev := { d with boot := { d.boot with act := .queued, actClass := c, actSince := d.elapsedNs, switched := 0 } }
    match d.verifyImage false c f (d.boot.slotImage f c) with
    | none => .ok d
    | some code =>
      let d : Dev := { d with boot := { d.boot with stagedVersion := d.boot.stagedVersion.set c 0 } }
      let d := (d.endActivation code).thereAndBack 0x8003 1
      .ok (if c = 0 then d else d.thereAndBack 0x8002 1)

/-- CONFIRM (R424, R434): the counter rises at once when fuses may be programmed, else the request waits. `run` is how far its bits
blow. -/
def Dev.confirm (c : Nat) (run : FuseRun) (d : Dev) : Except Nat Dev :=
  if 6 < c then .error 5
  else if (d.boot.act != .idle && d.boot.actClass = c) || d.boot.confirm.isSome then .error 8
  else
    let d := Dev.serveFuses { d with boot := { d.boot with confirm := some (c, d.elapsedNs, run) } }
    .ok (if d.boot.confirm.isSome || c = 0 then d else d.thereAndBack 0x8006 1)

/-- Whether an active image of a class names a root-key slot (R425): the image of the slot that the directory or a boot made active,
where there is one, the image in use, and the loaded Dremos image. -/
def Boot.usesKey (b : Boot) (k : Nat) : Bool :=
  ((List.range 6).any fun c => [b.active c, b.slotInUse c].any fun s =>
      leAt (b.slotImage s c) 0 4 == imageTag && imageKeySlot (b.slotImage s c) == k)
    || (List.range 7).any fun c => (b.inUse c).any fun i => imageKeySlot i == k

/-- Whether a REVOKE_KEY record is refused (R425). -/
def Dev.revokeBad (d : Dev) (r : List Byte) : Bool :=
  let target := leAt r 0 1
  let signer := leAt r 1 1
  let f := d.fuses
  target == signer || 3 < target || 3 < signer || !f.keyUsable signer || sha384 (slice r 2 96) != f.keyHash signer
    || !ecVerify (slice r 2 96) (slice r 98 96) (leBytes 8 f.deviceId.toNat ++ leBytes 1 target ++ leBytes 1 signer)
    || !f.keyUsable target || d.boot.usesKey target

/-- REVOKE_KEY (R425): under the conditions of R424. -/
def Dev.revokeKey (r : List Byte) (run : FuseRun) (d : Dev) : Except Nat Dev :=
  if d.revokeBad r then .error 5
  else if d.boot.revoke.isSome then .error 8
  else
    let d := Dev.serveFuses { d with boot := { d.boot with revoke := some (r, d.elapsedNs, run) } }
    .ok (if d.boot.revoke.isSome then d else d.thereAndBack 0x9004 1)

/-- ACTIVATION_TIMEOUT (R424, R433): ACTIVATION_WAIT_LIMIT has passed for what was accepted first among an activation of
which no core has switched, a CONFIRM and a revocation that wait. Nothing ends while the device is held in reset or is Off. -/
def Dev.activationTimeout (d : Dev) : Dev :=
  if d.pins.resetIn || !d.power.aux then d
  else
    let b := d.boot
    let act := if b.act == .queued && b.switched = 0 then [b.actSince] else []
    let con := (b.confirm.map (·.2.1)).toList
    let rev := (b.revoke.map (·.2.1)).toList
    match lowest (act ++ con ++ rev) with
    | none => d
    | some t =>
      if act.contains t then d.endActivation 0x0B07
      else match b.confirm with
        | some r => if r.2.1 = t then Dev.endRequest { d with boot := { b with confirm := none } } r.1 0x0B07
          else Dev.firmwareFault { d with boot := { b with revoke := none } } 0x0B07
        | none => Dev.firmwareFault { d with boot := { b with revoke := none } } 0x0B07

/-- POWER_REQUEST (R443): 1 is STANDBY, 2 is READY. A request already met changes nothing. BUSY answers while one is pending (R330). -/
def Dev.powerRequest (v : Nat) (d : Dev) : Except Nat Dev :=
  if v != 1 && v != 2 then .error 5
  else if d.power.standbyDue || d.power.readyAsked then .error 8
  else if v = 1 then .ok (if d.power.main then (d.onPower fun p => { p with standbyDue := true }) else d)
  else .ok (if d.power.main then d else d.onPower fun p => { p with readyDue := true, readyAsked := true })

end Sys2Proof.Machine
end

