-- ==== Sys2Proof/Machine/Test.lean ====
section
/-!
DEFINITION. The in-field test of a slot (13_checking_replay_test.md R388, R389).
-/

namespace Sys2Proof.Machine

/-- Whether a slot may be tested at all (R388). -/
def Dev.testable (d : Dev) (s : Nat) : Bool :=
  match d.slots[s]? with
  | some t => t.spare != .retired && t.spare != .disabled && !d.inRegion s
  | none => false

/-- TEST_REQUEST (R388). -/
def Dev.testRequest (slot set : Nat) (d : Dev) : Except Nat Dev :=
  if 80 ≤ slot || 3 < set || !d.testable slot then .error 5
  else if d.test.state != .idle then .error 8
  else .ok { d with test := { d.test with state := .waiting, slot := slot, set := set } }

/-- The test over, with its result (R389, R397). -/
def Dev.endTest (d : Dev) (result : Nat) : Dev :=
  let t := d.test
  Dev.eventOpen { d with test := { t with state := .idle, results := t.results.set t.slot (result, d.now) } } 0xE008 1 t.slot

/-- The slot under test, with the island powered for the patterns; the change is logged (R383, R389). -/
def Dev.underTest (d : Dev) (s : Fin 80) : Dev :=
  let d := d.onSlot s fun t => { t with spare := .underTest, island := .idle, view := [], viewPoison := [] }
  Dev.eventNamed { d with test := { d.test with state := .running } } .slotUnderTest 1 s.val

/-- The logical croft of the slot moved to the nearest SPARE slot, or paused for the slot (R389). -/
def Dev.makeWay (d : Dev) (s : Fin 80) (c : CroftRef) : Dev :=
  if (d.nearestSpare s.val).isSome then d.moveOff c s
  else ((d.unbind c none (some s)).onCroft c fun y => { y with paused := true }).mapChange [c.job]

/-- TEST_START (R389): the test waits in Throttle and in an emergency, for the step boundary of the croft on its slot, and until the
slot that the croft is to take is checked (R123). A croft whose step record cannot be read is lost (R382). -/
def Dev.testStart (d : Dev) : Dev :=
  let s : Fin 80 := Fin.ofNat 80 d.test.slot
  if d.test.state != .waiting || !d.power.main || d.powerState == 4 || !d.testable s.val then d
  else
    match d.carried s with
    | none => d.underTest s
    | some x =>
      match d.job x.job with
      | some job =>
        if !d.movable x job.params.ldev || !d.replaceable s then d
        else if x.recordLost then (if job.fault.isSome then d else d.relocate ⟨x.job, x.n⟩ s false)
        else (d.makeWay s ⟨x.job, x.n⟩).underTest s
      | none => d

/-- A paused croft after a test that did not pass is bound on a slot under R380 (R389), once that is checked and no transfer to the
croft is under way (R39); else it goes on waiting for a replacement. -/
def Dev.resumePaused (d : Dev) (s : Fin 80) : Dev :=
  match d.crofts.find? fun x => x.paused && x.vacated == some s with
  | none => d
  | some x =>
    let c : CroftRef := ⟨x.job, x.n⟩
    let d := d.onCroft c fun y => { y with paused := false }
    if d.replaceable s && (d.job c.job).any (fun job => !d.targeted c job.params.ldev) then d.moveOff c s else d

/-- A tested slot (R383, R389): cleared, with its island Off; ACTIVE when it passed and a paused croft waits for it, in which case
its island enters Idle again for the generator check (R123). One that a fault region has taken meanwhile stays FENCED. -/
def Dev.closeTest (d : Dev) (s : Fin 80) (pass : Bool) : Dev :=
  let waits := d.crofts.any fun x => x.paused && x.vacated == some s
  d.onSlot s fun t =>
    if t.spare != .underTest then t.off
    else if !pass then { t.off with spare := .fenced }
    else if waits then { t.off with spare := .active, island := .idle }
    else { t.off with spare := .spare }

/-- TEST_DONE (R389): the patterns end. Without a verified pattern image none are applied (R427 step 8, R432). A
slot that fails is logged as FENCED (R383). A paused croft takes its slot back when the slot is checked. -/
def Dev.testDone (r : TestOutcome) (d : Dev) : Dev :=
  if d.test.state != .running then d
  else
    let s : Fin 80 := Fin.ofNat 80 d.test.slot
    let r := if (d.boot.inUse 5).isNone then TestOutcome.patternInvalid else r
    let pass := r == .pass
    let fences := !pass && d.slotIs s.val .underTest
    let d := d.closeTest s pass
    let d := if fences then d.eventOpen 0xE002 1 s.val else d
    let d := if d.slotIs s.val .active then d else d.resumePaused s
    d.endTest (match r with
      | .pass => 1
      | .fail => 2
      | .patternInvalid => 4)

/-- TEST_WAIT_EXPIRY (R389). -/
def Dev.testWaitExpiry (d : Dev) : Dev := if d.test.state == .waiting then d.endTest 3 else d

end Sys2Proof.Machine
end

