-- ==== Sys2Proof/Machine/Spdm.lean ====
section
/-!
DEFINITION. The SPDM 1.3 responder behind SPDM_REQUEST and SPDM_RESPONSE (12_determinism_and_ledger.md R369, R370;
14_entropy_well.md R411). The layouts and codes of the messages are those of DMTF DSP0274, which the manual names
(log 32).
-/

namespace Sys2Proof.Machine

/-! ## The place of a responder -/

/-- The SPDM state of a door, while the door is open. -/
def Dev.spdm (d : Dev) : Door → Option Spdm
  | .session k => (d.hub.sessions.getD k.val none).map (·.spdm)
  | .mailbox => some d.hub.mailbox.spdm

/-- The device with the SPDM state of a door mapped. -/
def Dev.onSpdm (d : Dev) (door : Door) (f : Spdm → Spdm) : Dev :=
  match door with
  | .session k =>
    { d with hub := { d.hub with sessions := modifyAt d.hub.sessions k.val (Option.map fun s => { s with spdm := f s.spdm }) } }
  | .mailbox => { d with hub := { d.hub with mailbox := { d.hub.mailbox with spdm := f d.hub.mailbox.spdm } } }

/-- Whether a request of a door waits for its nonce (R411). -/
def Dev.spdmWaits (d : Dev) (door : Door) : Bool :=
  d.well.requests.any fun r => match r with
    | .watch (.spdm x _) _ _ => x == door
    | _ => false

/-! ## Messages -/

/-- The request codes that the responder answers, in the order of the table's rows: GET_VERSION, GET_CAPABILITIES,
NEGOTIATE_ALGORITHMS, GET_DIGESTS, GET_CERTIFICATE, CHALLENGE, GET_MEASUREMENTS. -/
def spdmCodes : List Nat := [0x84, 0xE1, 0xE3, 0x81, 0x82, 0x83, 0xE0]

/-- The code of a request. -/
def spdmCode (req : List Byte) : Nat := leAt req 1 1

/-- An ERROR response: 1 InvalidRequest, 4 UnexpectedRequest, 5 Unspecified, 7 UnsupportedRequest, 0x41
VersionMismatch. -/
def spdmError (code data : Nat) : List Byte := [0x13, 0x7F, BitVec.ofNat 8 code, BitVec.ofNat 8 data]

/-- VERSION, with the one entry 1.3. -/
def spdmVersion : List Byte := [0x10, 0x04, 0, 0, 0, 1, 0x00, 0x13]

/-- Flags of CAPABILITIES: CERT_CAP, CHAL_CAP, MEAS_CAP with signatures. -/
def spdmFlags : Nat := 0x16

/-- CAPABILITIES. The crypto timeout exponent and the two sizes are free values: the manual states none. -/
def Dev.spdmCapabilities (d : Dev) : List Byte × Dev :=
  let f := d.drawBytes 9
  ([0x13, 0x61, 0, 0, 0] ++ f.1.take 1 ++ [0, 0] ++ leBytes 4 spdmFlags ++ (f.1.drop 1), f.2)

/-- ALGORITHMS for a request: what it offers of ECDSA P-384 and SHA-384, and SHA-384 for measurements. -/
def spdmAlgorithms (req : List Byte) : List Byte :=
  [0x13, 0x63, 0, 0] ++ leBytes 2 36 ++ leBytes 1 (leAt req 6 1 % 2) ++ [0] ++ leBytes 4 4
    ++ leBytes 4 (leAt req 8 4 &&& 0x80) ++ leBytes 4 (leAt req 12 4 &&& 2) ++ List.replicate 16 0

/-- Whether a NEGOTIATE_ALGORITHMS is malformed or offers nothing that the responder has. -/
def negotiateBad (req : List Byte) : Bool :=
  decide (req.length < 32) || leAt req 4 2 != req.length || leAt req 8 4 &&& 0x80 == 0 || leAt req 12 4 &&& 2 == 0

/-- The certificate chain of OD 9020.01, in slot 0. -/
def Dev.spdmChain (d : Dev) : List Byte := d.certChain

/-- DIGESTS, of slot 0. -/
def Dev.spdmDigests (d : Dev) : List Byte := [0x13, 0x01, 1, 1] ++ sha384 d.spdmChain

/-- CERTIFICATE for a request of slot 0: as much of the chain as was asked for and a response of 1,024 bytes holds. -/
def Dev.spdmCertificate (d : Dev) (req : List Byte) : List Byte :=
  let chain := d.spdmChain
  let off := leAt req 4 2
  let n := min (min (leAt req 6 2) 1016) (chain.length - off)
  [0x13, 0x02, 0, 0] ++ leBytes 2 n ++ leBytes 2 (chain.length - off - n) ++ slice chain off n

/-! ## Measurements (R370) -/

/-- A measurement block in the DMTF format. -/
def measureBlock (index form : Nat) (value : List Byte) : List Byte :=
  leBytes 1 index ++ [1] ++ leBytes 2 (value.length + 3) ++ leBytes 1 form ++ leBytes 2 value.length ++ value

/-- The raw values of blocks 0xF0, 0xF1 and 0xF2. The first has a byte for each of its fields and counters. -/
def Dev.rawMeasures (d : Dev) : List (Nat × List Byte) :=
  let f := d.fuses
  [(0xF0, leBytes 1 f.rootRevoked.toNat ++ f.rollback.map (fun n => BitVec.ofNat 8 n) ++ leBytes 1 f.productionLock.toNat
      ++ leBytes 1 f.debugPolicy.toNat),
   (0xF1, leBytes 1 d.live.detEnable.toNat ++ leBytes 2 d.live.longSum ++ leBytes 8 d.hub.ledgersSigned),
   (0xF2, leBytes 4 f.grade.toNat ++ leBytes 4 stepping ++ leBytes 4 d.boot.bundle)]

/-- The measurement blocks, by rising index. What a raw block measures, its value type, is a free value. -/
def Dev.measures (d : Dev) : List (Nat × List Byte) × Dev :=
  let images := d.runningImages.map fun e => (e.1 + 1, measureBlock (e.1 + 1) 1 e.2.2)
  let t := d.draw
  let raw := d.rawMeasures.map fun r => (r.1, measureBlock r.1 (0x80 + t.1.toNat % 128) r.2)
  (images ++ raw, t.2)

/-- The signature over a transcript (DSP0274: the prefix of version 1.3, then the context, then the hash). -/
def Dev.spdmSign (d : Dev) (context : String) (transcript : List Byte) : List Byte :=
  let bytes := fun (s : String) => s.toList.map fun c => BitVec.ofNat 8 c.toNat
  let prefix_ := (List.replicate 4 (bytes "dmtf-spdm-v1.3.*")).flatten
  let label : List Byte := bytes context
  ecSign d.boot.key (prefix_ ++ List.replicate (36 - label.length) 0 ++ label ++ sha384 transcript)

/-! ## Answers -/

/-- The answer to a request put in SPDM_RESPONSE. -/
def Dev.spdmRespond (d : Dev) (door : Door) (resp : List Byte) : Dev := d.onSpdm door fun s => { s with response := resp, changes := s.changes + 1 }

/-- Whether a CHALLENGE is malformed: slot 0, and no measurement summary, that of the TCB, or of all blocks. -/
def challengeBad (req : List Byte) : Bool :=
  decide (req.length < 44) || leAt req 2 1 != 0 || !([0, 1, 0xFF] : List Nat).contains (leAt req 3 1)

/-- CHALLENGE_AUTH with its nonce. Which blocks belong to the TCB the manual does not say: that summary is free. -/
def Dev.challengeAuth (d : Dev) (door : Door) (req nonce : List Byte) : Dev :=
  match d.spdm door with
  | none => d
  | some s =>
    let m := d.measures
    let summary : List Byte × Dev := match leAt req 3 1 with
      | 0 => ([], m.2)
      | 1 => m.2.drawBytes 48
      | _ => (sha384 (m.1.flatMap (·.2)), m.2)
    let body := [0x13, 0x03, 0, 1] ++ sha384 d.spdmChain ++ nonce ++ summary.1 ++ [0, 0] ++ slice req 36 8
    let sig := d.spdmSign "responder-challenge_auth signing" (s.vca ++ s.certs ++ req ++ body)
    (summary.2.onSpdm door fun s => { s with certs := [], measures := [] }).spdmRespond door (body ++ sig)

/-- Whether a GET_MEASUREMENTS asks for a signature, and so for a nonce. -/
def measuresSigned (req : List Byte) : Bool := bitOf (leAt req 2 1) 0

/-- Whether a GET_MEASUREMENTS is malformed or names a block that is not there. -/
def Dev.measuresBad (d : Dev) (req : List Byte) : Bool :=
  let op := leAt req 3 1
  (if measuresSigned req then decide (req.length < 45) || leAt req 36 1 != 0 else decide (req.length < 12))
    || !(op == 0 || op == 0xFF || d.measures.1.any fun b => b.1 == op)

/-- MEASUREMENTS with its nonce; a signature ends the transcript of measurements. -/
def Dev.measurements (d : Dev) (door : Door) (req nonce : List Byte) : Dev :=
  match d.spdm door with
  | none => d
  | some s =>
    let op := leAt req 3 1
    let m := d.measures
    let blocks := if op = 0 then [] else if op = 0xFF then m.1 else m.1.filter fun b => b.1 == op
    let record := blocks.flatMap (·.2)
    let context := if measuresSigned req then slice req 37 8 else slice req 4 8
    let body := [0x13, 0x60] ++ leBytes 1 (if op = 0 then m.1.length else 0) ++ [0] ++ leBytes 1 blocks.length
      ++ leBytes 3 record.length ++ record ++ nonce ++ [0, 0] ++ context
    if measuresSigned req then
      let sig := d.spdmSign "responder-measurements signing" (s.vca ++ s.measures ++ req ++ body)
      (m.2.onSpdm door fun s => { s with measures := [] }).spdmRespond door (body ++ sig)
    else (m.2.onSpdm door fun s => { s with measures := s.measures ++ req ++ body }).spdmRespond door body

/-- A request whose nonce has arrived from the Well (R411). -/
def Dev.spdmNonce (d : Dev) (door : Door) (req nonce : List Byte) : Dev :=
  if spdmCode req = 0x83 then d.challengeAuth door req nonce else d.measurements door req nonce

/-- A request entered with the Well (R410). -/
def Dev.askWell (d : Dev) (r : WellReq) : Dev := { d with well := { d.well with requests := d.well.requests ++ [r] } }

/-- A request that needs a nonce: held for the Well, or answered with ERROR Unspecified when it is DISABLED or FAILED
(R411). -/
def Dev.spdmAsk (d : Dev) (door : Door) (req : List Byte) : Dev :=
  match d.well.phase with
  | .disabled | .failed =>
    Dev.spdmRespond { d with well := { d.well with refused := satAdd 64 d.well.refused 1 } } door (spdmError 5 0)
  | _ => (d.spdmRespond door []).askWell (.watch (.spdm door req) 32 [])

/-- A request in its sequence: VERSION, CAPABILITIES and ALGORITHMS once each, then the others. -/
def Dev.spdmServe (d : Dev) (door : Door) (s : Spdm) (req : List Byte) : Dev :=
  let step := fun (d : Dev) (resp : List Byte) =>
    (d.onSpdm door fun s => { s with phase := s.phase + 1, vca := s.vca ++ req ++ resp }).spdmRespond door resp
  let note := fun (resp : List Byte) =>
    (d.onSpdm door fun s => { s with certs := s.certs ++ req ++ resp, measures := [] }).spdmRespond door resp
  let need := if spdmCode req = 0xE1 then 1 else if spdmCode req = 0xE3 then 2 else 3
  if leAt req 0 1 != 0x13 then d.spdmRespond door (spdmError 0x41 0)
  else if s.phase != need then d.spdmRespond door (spdmError 4 0)
  else match spdmCode req with
    | 0xE1 => if req.length < 20 then d.spdmRespond door (spdmError 1 0) else step d.spdmCapabilities.2 d.spdmCapabilities.1
    | 0xE3 => if negotiateBad req then d.spdmRespond door (spdmError 1 0) else step d (spdmAlgorithms req)
    | 0x81 => note d.spdmDigests
    | 0x82 =>
      if decide (req.length < 8) || leAt req 2 1 != 0 || decide (d.spdmChain.length ≤ leAt req 4 2) then
        d.spdmRespond door (spdmError 1 0)
      else note (d.spdmCertificate req)
    | 0x83 => if challengeBad req then d.spdmRespond door (spdmError 1 0) else d.spdmAsk door req
    | _ =>
      if d.measuresBad req then d.spdmRespond door (spdmError 1 0)
      else if measuresSigned req then d.spdmAsk door req
      else
        let n := d.drawBytes 32
        n.2.measurements door req n.1

/-- A door without a request that waits for its nonce. -/
def Dev.spdmWithdraw (d : Dev) (door : Door) : Dev :=
  let theirs := fun (r : WellReq) => match r with
    | .watch (.spdm x _) _ _ => x == door
    | _ => false
  { d with well := { d.well with requests := d.well.requests.filter fun r => !theirs r } }

/-- One whole request message written to SPDM_REQUEST (R369). SPDM_RESPONSE holds the response to the last request, so an earlier
one that still waits for its nonce is withdrawn (DESIGN CHOICE, log 98). -/
def Dev.spdmRequest (door : Door) (req : List Byte) (d : Dev) : Dev :=
  let d := if d.spdmWaits door then d.spdmWithdraw door else d
  match d.spdm door with
  | none => d
  | some s =>
    if req.length < 4 then d.spdmRespond door (spdmError 1 0)
    else if !spdmCodes.contains (spdmCode req) then d.spdmRespond door (spdmError 7 (spdmCode req))
    else if spdmCode req = 0x84 then
      if leAt req 0 1 != 0x10 then d.spdmRespond door (spdmError 0x41 0)
      else (d.onSpdm door fun s => { s with phase := 1, vca := req ++ spdmVersion, certs := [], measures := [] }).spdmRespond door
        spdmVersion
    else d.spdmServe door s req

end Sys2Proof.Machine
end

