-- ==== Sys2Proof/Machine/Well.lean ====
section
/-!
DEFINITION. The Well: cells, health tests, the DRBG, its failures, and what it serves (14_entropy_well.md); and the
management handshake, which waits for it (11_object_dictionary.md R333, R334).
-/

namespace Sys2Proof.Machine

/-- The device with the Well mapped. -/
def Dev.onWell (d : Dev) (f : Well → Well) : Dev := { d with well := f d.well }

/-- The device with a cell of the Well mapped. -/
def Dev.onCell (d : Dev) (i : Nat) (f : WellCell → WellCell) : Dev :=
  d.onWell fun w => { w with cells := modifyAt w.cells i f }

/-- A cell of the Well. -/
def Dev.cell (d : Dev) (i : Fin 4) : Option WellCell := d.well.cells[i.val]?

/-- Whether the cells run (R405). -/
def Well.runs (w : Well) : Bool := w.phase == .starting || w.phase == .ready

/-- Whether a cell supplies bits: ACTIVE, settled and past its start-up test (R399, R405). -/
def WellCell.supplies (c : WellCell) : Bool := c.state == .active && !c.settling && c.startup == 0

/-- A cell that starts or restarts: it settles, then runs four start-up blocks (R405, R406). -/
def WellCell.restart (c : WellCell) : WellCell := { c with settling := true, startup := 4, run := 0, lastBit := false }

/-! ## CTR_DRBG with AES-256 and the derivation function (R403; NIST SP 800-90A, log 16) -/

/-- The chain of Block_Cipher_df: CBC-MAC of AES-256. -/
def bcc (key : List Byte) (data : List Byte) : List Byte :=
  (blocksOf 16 (data.length / 16) data).foldl (fun v b => aes256 key (List.zipWith (fun x y => x ^^^ y) v b)) (List.replicate 16 0)

/-- Block_Cipher_df for 48 bytes. -/
def blockDf (input : List Byte) : List Byte :=
  let s := beBytes 4 input.length ++ beBytes 4 48 ++ input ++ [0x80]
  let s := s ++ List.replicate ((16 - s.length % 16) % 16) 0
  let k : List Byte := (List.range 32).map fun i => BitVec.ofNat 8 i
  let t := (List.range 3).flatMap fun i => bcc k (beBytes 4 i ++ List.replicate 12 0 ++ s)
  let key := t.take 32
  let x := aes256 key ((t.drop 32).take 16)
  let y := aes256 key x
  x ++ y ++ aes256 key y

/-- V plus a number, as CTR_DRBG counts. -/
def ctrPlus (v : List Byte) (n : Nat) : List Byte := beBytes 16 (beNat v + n)

/-- CTR_DRBG_Update. -/
def Drbg.update (g : Drbg) (data : List Byte) : Drbg :=
  let t := (List.range 3).flatMap fun i => aes256 g.key (ctrPlus g.v (i + 1))
  let t := List.zipWith (fun x y => x ^^^ y) t data
  { g with key := t.take 32, v := t.drop 32 }

/-- The DRBG instantiated (R403). -/
def Drbg.instantiate (entropy nonce personal : List Byte) : Drbg :=
  let g : Drbg := Drbg.update { Drbg.zero with key := List.replicate 32 0 } (blockDf (entropy ++ nonce ++ personal))
  { g with ready := true }

/-- The DRBG reseeded with a passing block; the state is held for one generate, and a block that passes meanwhile waits for its own
reseed (R403). -/
def Drbg.reseed (g : Drbg) (entropy : List Byte) : Drbg :=
  if g.held then { g with waiting := g.waiting ++ [entropy] } else { g.update (blockDf entropy) with held := true }

/-- The one generate of 1,024 bytes after a reseed (R403). -/
def Drbg.generate (g : Drbg) : List Byte × Drbg :=
  let out := (List.range 64).flatMap fun i => aes256 g.key (ctrPlus g.v (i + 1))
  (out, { Drbg.update { g with v := ctrPlus g.v 64 } (List.replicate 48 0) with held := false })

/-- The DRBG with the block that has waited longest taken for the next reseed (R403). -/
def Drbg.next (g : Drbg) : Drbg :=
  match g.waiting with
  | [] => g
  | b :: rest => Drbg.reseed { g with waiting := rest } b

/-! ## Failure (R407, R412) -/

/-- A croft that never began, whose launch has failed: it starts nothing (R412). -/
def Croft.neverStart (x : Croft) : Croft :=
  { x with seq := { x.seq with state := .stopped }, units := { x.units with queues := x.units.queues.map fun _ => [] } }

/-- The crofts that the launch of a croft named and that have not started. -/
def Dev.launchMates (d : Dev) (c : CroftRef) (q : Cmd) : List CroftRef :=
  (d.crofts.filter fun y => y.job == c.job && q.names y.n && y.unstarted).map fun y => ⟨y.job, y.n⟩

/-- The launch that a seeding request belongs to, while its croft has not started (R412). -/
def Dev.seedingLaunch (d : Dev) (c : CroftRef) : Option Cmd :=
  match d.croft c with
  | some x => if x.unstarted then d.commandOf c else none
  | none => none

/-- A lane-set seeding request that fails: the launch it belongs to completes with the fault and starts no croft; for a
later binding the job halts (R412). -/
def Dev.failLanes (d : Dev) (c : CroftRef) (code : Nat) : Dev :=
  match d.seedingLaunch c with
  | some q =>
    let d := d.fail q.id code
    { d with crofts := d.crofts.map fun y => if y.job == c.job && q.names y.n && y.unstarted then y.neverStart else y }
  | none => match d.croft c with
    | some x => d.croftFault c code x.seq.pc
    | none => d

/-- A waiting request that fails with the Well (R407, R411, R412). The requests of a launch fail together: those of the crofts in
the list have failed with an earlier one. -/
def Dev.failRequest (code : Nat) (s : Dev × List CroftRef) (r : WellReq) : Dev × List CroftRef :=
  match r with
  | .watch (.dtls f) _ _ => (s.1.send (.alert f (some 80)), s.2)
  | .watch (.spdm door _) _ _ => (s.1.spdmRespond door (spdmError 5 0), s.2)
  | .lanes c _ =>
    if s.2.contains c then s
    else (s.1.failLanes c code, s.2 ++ ((s.1.seedingLaunch c).map fun q => s.1.launchMates c q).getD [])

/-- The Well emptied on entry to DISABLED or FAILED: the queue flushed, the DRBG zeroised, the cells stopped, and every
waiting request answered with a fault (R404, R405, R407). -/
def Dev.wellEmpty (d : Dev) (phase : WellPhase) (code : Nat) : Dev :=
  let rs := d.well.requests
  let d := d.onWell fun w => { w with
    phase := phase, cells := w.cells.map WellCell.stopped, drbg := Drbg.zero, queue := [], requests := [] }
  (rs.foldl (Dev.failRequest code) (d, [])).1

/-- Entry to FAILED (R407). -/
def Dev.wellFail (d : Dev) : Dev := (d.event 0x0806 3 0 0 0).wellEmpty .failed 0x0806

/-- A cell retired, to be recorded in the fuses once they may be programmed (R424), and the lowest SPARE cell started in its place; with no ACTIVE cell left the
Well fails (R407, R408). -/
def Dev.retireCell (d : Dev) (i : Fin 4) : Dev :=
  let d := d.onCell i.val fun c => { c.stopped with state := .retired }
  let d : Dev := { d with boot := { d.boot with retired := d.boot.retired ||| BitVec.ofNat 4 (2 ^ i.val) } }
  let d := if d.fusesOpen then d.recordRetired else d
  let d := d.draw.2.event 0xE021 2 0 0 d.draw.1
  let spare := (List.range 4).find? fun k => (d.well.cells[k]?).any fun c => c.state == .spare
  let d := match spare with
    | some k => d.onCell k fun c => { c.restart with state := .active }
    | none => d
  if d.well.cells.any fun c => c.state == .active then d else d.wellFail

/-! ## Blocks (R401 to R406) -/

/-- The repetition count over a block, begun with the run carried from the last (R402): the last bit, its run, and
whether a run reached 41. -/
def repetition (last : Bool) (run : Nat) (bits : List Bool) : Bool × Nat × Bool :=
  bits.foldl (fun s b =>
    let n := if s.2.1 != 0 && b == s.1 then s.2.1 + 1 else 1
    (b, n, s.2.2 || decide (41 ≤ n))) (last, run, false)

/-- The adaptive proportion test fails (R402). -/
def proportionBad (bits : List Bool) : Bool := decide (793 ≤ (bits.filter fun b => b == bits.headD false).length)

/-- The debiased bits of successive pairs of raw bits (R401): XOR pairing (0) or von Neumann (1). -/
def debiased (rule : Nat) : List Bool → List Bool
  | a :: b :: t => if rule = 0 then (a != b) :: debiased rule t else if a != b then a :: debiased rule t else debiased rule t
  | _ => []

/-- The bytes of a block, its first bit in bit 0 of the first. -/
def blockBytesOf (bits : List Bool) : List Byte := leBytes 128 (bits.foldr (fun b n => b.toNat + 2 * n) 0)

/-- The failed blocks of a list that lie within 60 minutes of elapsed time (R407). -/
def recent (now : Nat) (l : List Nat) : List Nat := l.filter fun t => now < t + hourNs

/-- A failed block (R406 to R408): the cell restarts, or is retired with its fourth; then the failure counts decide. -/
def Dev.blockFails (d : Dev) (i : Fin 4) : Dev :=
  let now := d.elapsedNs
  let d := d.corrected 0xE020 0 0 0
  let d := d.onWell fun w => { w with
    failedCount := satAdd 64 w.failedCount 1, restarts := satAdd 64 w.restarts 1
    consecutive := w.consecutive + 1, window := recent now w.window ++ [now] }
  let d := d.onCell i.val fun c => { c.restart with failed := recent now c.failed ++ [now] }
  let worn := (d.cell i).any fun c => decide (4 ≤ c.failed.length)
  let d := if worn then d.retireCell i else d
  if d.well.phase == .failed then d
  else if decide (3 ≤ d.well.consecutive) || decide (8 ≤ d.well.window.length) then d.wellFail
  else d

/-- The lower-numbered ACTIVE cell, cell A of R403. -/
def Well.cellA (w : Well) : Option Nat := (List.range 4).find? fun k => (w.cells[k]?).any fun c => c.state == .active

/-- Whether another cell than `i` is ACTIVE. -/
def Well.other (w : Well) (i : Nat) : Bool :=
  (List.range 4).any fun k => k != i && (w.cells[k]?).any fun c => c.state == .active

/-- A passing block before the DRBG is instantiated (R403): the entropy input from cell A, the nonce from the other
ACTIVE cell, or from the next block of cell A when it is alone. -/
def Well.gather (w : Well) (i : Nat) (block personal : List Byte) : Well :=
  let g := w.drbg
  let isA := w.cellA == some i
  let g : Drbg := if isA && g.entropy.isNone then { g with entropy := some block }
    else if g.nonce.isNone && (!isA || !w.other i) then { g with nonce := some (block.take 16) }
    else g
  match g.entropy, g.nonce with
  | some e, some n => { w with drbg := Drbg.instantiate e n personal, phase := .ready }
  | _, _ => { w with drbg := g }

/-- WELL_BLOCK_TESTED (R401 to R403, R405): the raw bits, under the pairing rule that stood when their block began, make 1,024
debiased bits, which are tested; start-up blocks are discarded, and later ones reach the DRBG. The next raw block follows
WELL_DEBIAS as it stands now. -/
def Dev.wellBlockTested (i : Fin 4) (raw : List Bool) (d : Dev) : Dev :=
  match d.cell i with
  | none => d
  | some c =>
    let bits := debiased c.debias raw
    if !d.well.runs || c.state != .active || c.settling || bits.length != 1024 then d
    else
      let r := repetition c.lastBit c.run bits
      let d := d.onCell i.val fun c => { c with debias := d.live.debias }
      if r.2.2 || proportionBad bits then d.blockFails i
      else
        let d := d.onCell i.val fun c => { c with lastBit := r.1, run := r.2.1, startup := c.startup - 1 }
        let d := d.onWell fun w => { w with passed := satAdd 64 w.passed 1, consecutive := 0 }
        let block := blockBytesOf bits
        if c.startup != 0 then d
        else if d.well.drbg.ready then d.onWell fun w => { w with drbg := w.drbg.reseed block }
        else d.onWell fun w => w.gather i.val block (leBytes 8 d.fuses.deviceId.toNat)

/-- Bytes of the output queue (R404). -/
def queueSize : Nat := 4096

/-- WELL_GENERATE (R403): the held generate, when the queue has room for it; then a block that waits is taken for a reseed. -/
def Dev.wellGenerate (d : Dev) : Dev :=
  if d.well.phase != .ready || !d.well.drbg.held || queueSize < d.well.queue.length + 1024 then d
  else d.onWell fun w => { w with queue := w.queue ++ w.drbg.generate.1, drbg := w.drbg.generate.2.next }

/-! ## Trim and calibration (R400, R408, R409) -/

/-- A trim moved towards balance by some steps, kept within its 8 bits. -/
def trimMoved (trim ones steps : Nat) : Nat :=
  let up := (ones < 2048) == Config.trimUp
  if up then min 255 (trim + steps) else trim - steps

/-- A cell's trim set, and the cell retired when it is out of range (R400, R408). -/
def Dev.setTrim (d : Dev) (i : Fin 4) (trim ones : Nat) : Dev :=
  let d := d.onCell i.val fun c => { c with trim := trim, bias := (ones : Int) - 2048 }
  if trim = 0 ∨ 255 ≤ trim then d.retireCell i else d

/-- The trim of a cell, before a move. The trim a cell starts from is a free value (log 33): 0 marks a cell without a
reading yet, since a cell whose trim reaches 0 is retired. -/
def Dev.presentTrim (d : Dev) (c : WellCell) : Nat × Dev := if c.trim = 0 then (d.draw.1.toNat % 256, d.draw.2) else (c.trim, d)

/-- WELL_TRIM_UPDATE (R400). -/
def Dev.wellTrimUpdate (i : Fin 4) (ones : Nat) (d : Dev) : Dev :=
  match d.cell i with
  | none => d
  | some c =>
    if !d.well.runs || c.state != .active then d
    else
      let t := d.presentTrim c
      let off := (ones - 2048) + (2048 - ones)
      t.2.setTrim i (if 128 < off then trimMoved t.1 ones 1 else t.1) ones

/-- WELL_CELL_SETTLED (R405, R406, R408): the start-up test begins, or the cell is retired. -/
def Dev.wellCellSettled (i : Fin 4) (settled : Bool) (d : Dev) : Dev :=
  match d.cell i with
  | none => d
  | some c =>
    if !d.well.runs || c.state != .active || !c.settling then d
    else if settled then
      d.onCell i.val fun c => { c with settling := false, startup := 4, lastCal := d.elapsedNs, debias := d.live.debias }
    else d.retireCell i

/-- Nanoseconds between calibrations at most (R409). -/
def calibrationNs : Nat := 60000000000

/-- WELL_CALIBRATION (R409): while the queue is full and another cell supplies, or at the deadline. By how many of the
eight steps the trim moves is a free value (log 33). -/
def Dev.wellCalibration (i : Fin 4) (ones : Nat) (d : Dev) : Dev :=
  match d.cell i with
  | none => d
  | some c =>
    let others := (List.range 4).any fun k => k != i.val && (d.well.cells[k]?).any WellCell.supplies
    let free := decide (queueSize ≤ d.well.queue.length) && others
    let due := decide (c.lastCal + calibrationNs ≤ d.elapsedNs)
    if !d.well.runs || !c.supplies || !(free || due) then d
    else
      let now := d.elapsedNs
      let t := d.presentTrim c
      let steps := t.2.draw.1.toNat % 9
      let d := (t.2.draw.2.onCell i.val fun c => { c with lastCal := now }).onWell fun w => { w with
        calibrations := satAdd 64 w.calibrations 1 }
      d.setTrim i (trimMoved t.1 ones steps) ones

/-! ## WELL_ENABLE (R414) -/

/-- WELL_ENABLE written (R405, R414): 0 enters DISABLED from any state, 1 enters STARTING from DISABLED. -/
def Dev.wellEnableWrite (on : Bool) (d : Dev) : Dev :=
  let d : Dev := { d with settings := { d.settings with wellEnable := on } }
  if !on then
    let left := d.well.phase == .failed
    let d := if d.well.phase == .disabled then d else d.wellEmpty .disabled 0x0805
    if left then d.onWell fun w => { w with window := [], consecutive := 0, cells := w.cells.map fun c => { c with failed := [] } }
    else d
  else if d.well.phase == .disabled && d.power.main then
    let d := d.onWell fun w => { w with
      phase := .starting, consecutive := 0, cells := w.cells.map fun c => if c.state == .active then c.restart else c }
    if d.well.cells.any fun c => c.state == .active then d else d.wellFail
  else d

/-- A Well that power-up started without an ACTIVE cell fails at once (R407). -/
def Dev.wellCheck (d : Dev) : Dev :=
  if d.well.phase == .starting && !(d.well.cells.any fun c => c.state == .active) then d.wellFail else d

/-! ## Management handshakes (11_object_dictionary.md R333, R334) -/

/-- Fingerprint and role of a ROLE_ENTRY; an empty one has a zero fingerprint (R355). -/
def roleOf (e : List Byte) : BitVec 384 × Nat := (BitVec.ofNat 384 (beNat (slice e 0 48)), leAt e 48 2)

/-- The ROLE_ENTRY records that are not empty. -/
def Dev.roles (d : Dev) : List (BitVec 384 × Nat) := (d.settings.roleEntries.map roleOf).filter fun r => r.1 != 0

/-- Whether some ROLE_ENTRY holds the owner role (R334). -/
def Dev.owned (d : Dev) : Bool := d.roles.any fun r => r.2 == 3

/-- The ROLE_ENTRY that gives a fingerprint its role, and that role (R334): of several, the lowest. -/
def Dev.entryFor (d : Dev) (f : BitVec 384) : Option (Nat × Nat) :=
  (((d.settings.roleEntries.map roleOf).zipIdx).find? fun p => p.1.1 == f && p.1.1 != 0).map fun p => (p.2, p.1.2)

/-- The role of a fingerprint (R334). -/
def Dev.roleFor (d : Dev) (f : BitVec 384) : Option Nat := (d.entryFor f).map (·.2)

/-- TLS_AES_256_GCM_SHA384, secp384r1 and ecdsa_secp384r1_sha384 by their TLS numbers (RFC 8446, log 32). -/
def dtlsSuite : BitVec 16 × BitVec 16 × BitVec 16 := (0x1302, 24, 0x0503)

/-- Whether a client offers the one suite, group and signature scheme of the device (R333). What it offers of pre-shared keys and
early data the device does not take, and the handshake goes on without. -/
def offerFits (o : DtlsOffer) : Bool :=
  o.suites.contains dtlsSuite.1 && o.groups.contains dtlsSuite.2.1 && o.signatures.contains dtlsSuite.2.2

/-- Whether an IPv6 address is link-local. -/
def linkLocal (a : BitVec 128) : Bool := a.extractLsb' 118 10 == 0x3FA

/-- Whether a datagram reaches Birsiler (R333): IPv6 to UDP port 4,747 at the link-local address, or at the static MGMT_ADDR when
there is one; the global address that SLAAC gives hangs on the network (log 32). -/
def Dev.reachesBirsiler (d : Dev) (o : DtlsOffer) : Bool :=
  let static_ := beNat (slice d.live.mgmtAddr 0 16)
  o.ipv6 && o.port == 4747 && (linkLocal o.dest || static_ = 0 || static_ = o.dest.toNat)

/-- Handshakes that wait for the Well. -/
def Dev.handshakes (d : Dev) : Nat :=
  (d.well.requests.filter fun r => match r with
    | .watch (.dtls _) _ _ => true
    | _ => false).length

/-- A session opened at a free place: the device presents its certificate chain, with a CertificateVerify under the attestation key
(R333, 15_boot_firmware_security.md R426). What the signature covers is the transcript of DTLS 1.3 (Config.dtlsTranscript). -/
def Dev.openSession (d : Dev) (f : BitVec 384) : Dev :=
  match (List.range 16).find? fun k => (d.hub.sessions.getD k none).isNone, d.entryFor f with
  | some k, some e =>
    let d := d.send (.certificate f d.certChain (ecSign d.boot.key (Config.dtlsTranscript f d.freeCount)))
    { d with hub := { d.hub with sessions := d.hub.sessions.set k (some ⟨f, d.elapsedNs, [], Spdm.reset, e.1⟩) }
             freeCount := d.freeCount + 1 }
  | _, _ => d.send (.alert f none)

/-- DTLS_HANDSHAKE (R333, R334, R411): the offer and the client are checked, then the ephemeral key comes from the Well. -/
def Dev.dtlsHandshake (f : BitVec 384) (o : DtlsOffer) (d : Dev) : Dev :=
  if !d.power.aux || d.pins.resetIn || d.boot.step < 2 || !d.hub.mgmtLink || !d.reachesBirsiler o then d
  else if !offerFits o then d.send (.alert f none)
  else if (d.roleFor f).isNone then d.send (.alert f (some 49))
  else if !d.owned || !o.signed then d.send (.alert f none)
  else if decide (16 ≤ (d.hub.sessions.filter Option.isSome).length + d.handshakes) then d.send (.alert f none)
  else match d.well.phase with
    | .disabled | .failed => (d.onWell fun w => { w with refused := satAdd 64 w.refused 1 }).send (.alert f (some 80))
    | _ => d.askWell (.watch (.dtls f) 64 [])

/-! ## Delivery (R410 to R413) -/

/-- A Watch request with all its bytes (R411). A handshake is held against the roles as they are now (R334); without a link it just
ends. -/
def Dev.watchServed (d : Dev) (use : WatchUse) (got : List Byte) : Dev :=
  match use with
  | .dtls f =>
    if !d.hub.mgmtLink then d
    else if (d.roleFor f).isNone then d.send (.alert f (some 49))
    else if !d.owned then d.send (.alert f none)
    else d.openSession f
  | .spdm door req => d.spdmNonce door req got

/-- Bytes of a lane-set seeding request (R412). -/
def lanesBytes : Nat := 20480

/-- The generator state that 16 bytes of the Well make. -/
def genOf (bs : List Byte) : Gen := (BitVec.ofNat 64 (leAt bs 0 8), BitVec.ofNat 64 (leAt bs 8 8))

/-- The generators of a croft in the order of their lane numbers, from the bytes of its request (R110, R412). -/
def seededLanes (lanes : List LaneSet) (got : List Byte) : List LaneSet :=
  (lanes.zipIdx).map fun p =>
    let from_ := if p.2 < 4 then 64 * p.2 else 256
    { p.1 with gens := (List.range (setSize p.2)).map fun i => genOf (slice got (16 * (from_ + i)) 16), ready := true }

/-- The instructions that waited for the states of a job's crofts tried again. -/
def Dev.settleJob (d : Dev) (j : Fin 64) : Dev :=
  (d.crofts.filter fun x => x.job == j).foldl (fun d x => d.settle ⟨x.job, x.n⟩) d

/-- A lane-set seeding request with all its bytes (R412). -/
def Dev.lanesServed (d : Dev) (c : CroftRef) (got : List Byte) : Dev :=
  (d.onCroft c fun x => { x with lanes := seededLanes x.lanes got }).settleJob c.job

/-- A waiting request as one of the Watch class, the higher of the two (R410). -/
def WellReq.isWatch : WellReq → Bool
  | .watch _ _ _ => true
  | .lanes _ _ => false

/-- The position of the request served next (R410). -/
def Well.nextRequest (w : Well) : Option Nat :=
  match w.requests.findIdx? WellReq.isWatch with
  | some i => some i
  | none => if w.requests.isEmpty then none else some 0

/-- A request with one unit more; a draw of 128 zero bits for a generator is discarded (R110). -/
def WellReq.fed (r : WellReq) (bytes : List Byte) : WellReq :=
  match r with
  | .watch u n got => .watch u n (got ++ bytes)
  | .lanes c got => if bytes.all fun b => b == 0 then .lanes c got else .lanes c (got ++ bytes)

/-- What completes with a request that has all its bytes. -/
def Dev.served (d : Dev) (r : WellReq) : Dev :=
  match r with
  | .watch u n got => d.watchServed u (got.take n)
  | .lanes c got => d.lanesServed c got

/-- Whether a request has all its bytes. -/
def WellReq.done : WellReq → Bool
  | .watch _ n got => decide (n ≤ got.length)
  | .lanes _ got => decide (lanesBytes ≤ got.length)

/-- WELL_DELIVERY (R410): one unit of 16 bytes to the request whose turn it is. -/
def Dev.wellDelivery (d : Dev) : Dev :=
  match d.well.nextRequest with
  | none => d
  | some i =>
    match d.well.requests[i]? with
    | none => d
    | some r =>
      if d.well.phase != .ready || d.well.queue.length < 16 then d
      else
        let r := r.fed (d.well.queue.take 16)
        let d := d.onWell fun w => { w with queue := w.queue.drop 16, delivered := satAdd 64 w.delivered 16 }
        if r.done then (d.onWell fun w => { w with requests := w.requests.eraseIdx i }).served r
        else d.onWell fun w => { w with requests := w.requests.set i r }

/-- SEED_CSR_READ (R413): the status in [31:30] and, with ES16, 16 bits in [15:0] (the RISC-V Zkr extension). -/
def Dev.seedCsrRead (hart : Fin 32) (d : Dev) : Dev :=
  if !d.power.main then d
  else match d.well.phase with
    | .starting | .disabled => d.send (.seed hart 0)
    | .failed => d.send (.seed hart 0xC0000000)
    | .ready =>
      if !d.well.requests.isEmpty || d.well.queue.length < 2 then d.send (.seed hart 0x40000000)
      else
        let v := leAt d.well.queue 0 2
        (d.onWell fun w => { w with queue := w.queue.drop 2, delivered := satAdd 64 w.delivered 2 }).send
          (.seed hart (BitVec.ofNat 32 (2 ^ 31 + v)))

end Sys2Proof.Machine
end

