-- ==== Sys2Proof/Machine/Tap.lean ====
section
/-!
DEFINITION. The IEEE 1149.1 test access port (15_boot_firmware_security.md R436; 17_package_balls_electrical.md R466).
The controller's graph and what its states do are those of IEEE 1149.1 (log 32).
-/

namespace Sys2Proof.Machine

/-- The next state of the controller at a rising edge. -/
def TapState.next (s : TapState) (tms : Bool) : TapState :=
  match s, tms with
  | .testLogicReset, true => .testLogicReset
  | .testLogicReset, false => .runTestIdle
  | .runTestIdle, true => .selectDr
  | .runTestIdle, false => .runTestIdle
  | .selectDr, true => .selectIr
  | .selectDr, false => .captureDr
  | .captureDr, true => .exit1Dr
  | .captureDr, false => .shiftDr
  | .shiftDr, true => .exit1Dr
  | .shiftDr, false => .shiftDr
  | .exit1Dr, true => .updateDr
  | .exit1Dr, false => .pauseDr
  | .pauseDr, true => .exit2Dr
  | .pauseDr, false => .pauseDr
  | .exit2Dr, true => .updateDr
  | .exit2Dr, false => .shiftDr
  | .updateDr, true => .selectDr
  | .updateDr, false => .runTestIdle
  | .selectIr, true => .testLogicReset
  | .selectIr, false => .captureIr
  | .captureIr, true => .exit1Ir
  | .captureIr, false => .shiftIr
  | .shiftIr, true => .exit1Ir
  | .shiftIr, false => .shiftIr
  | .exit1Ir, true => .updateIr
  | .exit1Ir, false => .pauseIr
  | .pauseIr, true => .exit2Ir
  | .pauseIr, false => .pauseIr
  | .exit2Ir, true => .updateIr
  | .exit2Ir, false => .shiftIr
  | .updateIr, true => .selectDr
  | .updateIr, false => .runTestIdle

/-- IDCODE (R436). -/
def idcode : Word32 := BitVec.ofNat 32 (1 * 2 ^ 28 + 0x0925 * 2 ^ 12 + Config.jep106.toNat * 2 + 1)

/-- The bits of a number, the lowest first. -/
def bitList (w v : Nat) : List Bool := (List.range w).map fun i => bitOf v i

/-- The number of a list of bits, the lowest first. -/
def bitValue (l : List Bool) : Nat := l.foldr (fun b n => b.toNat + 2 * n) 0

/-- The instruction register and TDO as Test-Logic-Reset leaves them (R436). -/
def Tap.reset : Tap := ⟨.testLogicReset, 1, [], none⟩

/-- The data register captured for an instruction: IDCODE, SAMPLE, and BYPASS for every other opcode. The cells of the
boundary-scan register hold free values. -/
def Dev.captureDr (d : Dev) : List Bool × Dev :=
  if d.tap.ir = 1 then (bitList 32 idcode.toNat, d)
  else if d.tap.ir = 2 then
    ((List.range Config.boundaryCells).map fun i => (Config.freeValue (d.freeCount + i)).getLsbD 0,
      { d with freeCount := d.freeCount + Config.boundaryCells })
  else ([false], d)

/-- The register shifted by one bit. -/
def Tap.shifted (t : Tap) (tdi : Bool) : Tap := { t with shift := t.shift.drop 1 ++ [tdi] }

/-- A rising edge of TCK: the state's capture or shift, then the next state. -/
def Dev.tckRises (d : Dev) (tms tdi : Bool) : Dev :=
  let d : Dev := match d.tap.state with
    | .captureDr => { d.captureDr.2 with tap := { d.tap with shift := d.captureDr.1 } }
    | .captureIr => { d.draw.2 with tap := { d.tap with shift := [true, false] ++ bitList 6 d.draw.1.toNat } }
    | .shiftDr | .shiftIr => { d with tap := d.tap.shifted tdi }
    | _ => d
  { d with tap := { d.tap with state := d.tap.state.next tms } }

/-- A falling edge of TCK: updates, the reset of the instruction register, and TDO, which is driven in Shift-DR and
Shift-IR only (R466). -/
def Tap.tckFalls (t : Tap) : Tap :=
  let t := match t.state with
    | .updateIr => { t with ir := BitVec.ofNat 8 (bitValue t.shift) }
    | .testLogicReset => { t with ir := 1 }
    | _ => t
  { t with tdo := match t.state with
      | .shiftDr | .shiftIr => t.shift.head?
      | _ => none }

/-- TAP_TCK_EDGE (R436): the TAP answers while the auxiliary input is in range. While TRST_N is low it stays in Test-Logic-Reset (R466). -/
def Dev.tapTckEdge (rising : Bool) (tms : TapPins) (tdi : Bool) (d : Dev) : Dev :=
  let d : Dev := { d with pins := { d.pins with trst := tms.trst } }
  if !d.power.aux then d
  else if tms.trst then { d with tap := Tap.reset }
  else if rising then d.tckRises tms.tms tdi
  else { d with tap := d.tap.tckFalls }

/-- TRST_N_ASSERT (R466). -/
def Dev.trstNAssert (d : Dev) : Dev :=
  let d : Dev := { d with pins := { d.pins with trst := true } }
  if d.power.aux then { d with tap := Tap.reset } else d

end Sys2Proof.Machine
end

