-- ==== Sys2Proof/Machine/Ports.lean ====
section
/-!
DEFINITION. The outside ports of the hub: 800GbE rings and frames, the PCIe root port, the management link
(10_queues_and_hub.md R303, R323 to R326; 11_object_dictionary.md R333).
-/

namespace Sys2Proof.Machine

/-! ## Ethernet rings (R324) -/

/-- The device with an Ethernet port mapped. -/
def Dev.onEth (d : Dev) (p : Nat) (f : EthPort → EthPort) : Dev :=
  { d with hub := { d.hub with eth := modifyAt d.hub.eth p f } }

/-- A transmit (`true`) or receive ring of a port. -/
def Dev.ring (d : Dev) (p : Nat) (tx : Bool) (r : Nat) : Ring :=
  match d.hub.eth[p]? with
  | some e => (if tx then e.tx else e.rx).getD r Ring.reset
  | none => Ring.reset

/-- The device with a ring of a port mapped. -/
def Dev.onRing (d : Dev) (p : Nat) (tx : Bool) (r : Nat) (f : Ring → Ring) : Dev :=
  d.onEth p fun e => if tx then { e with tx := modifyAt e.tx r f } else { e with rx := modifyAt e.rx r f }

/-- Descriptors of a ring. -/
def Ring.size (q : Ring) : Nat := 2 ^ q.sizeLog2.toNat

/-- A ring whose base and size keep R324, every descriptor backed. -/
def Dev.ringUsable (d : Dev) (q : Ring) : Bool :=
  4 ≤ q.sizeLog2.toNat && q.sizeLog2.toNat ≤ 16 && d.ringOk q.base (32 * q.size)

/-- A write of CONTROL (R324). A ring that is enabled starts with both indices at 0, and one that breaks R324 stays
disabled (log 36). -/
def Dev.writeRingControl (d : Dev) (p : Nat) (tx : Bool) (r : Nat) (v : Nat) : Dev :=
  let q := d.ring p tx r
  let on := bitOf v 0 && (q.enable || d.ringUsable q)
  d.onRing p tx r fun q => { q with
    enable := on, irqEn := bitOf v 1
    head := if on && !q.enable then 0 else q.head, tail := if on && !q.enable then 0 else q.tail }

/-- ETH_TAIL_WRITE (R307, R308, R324): the descriptors up to the value pass to the port, or a bad value disables the
ring. -/
def Dev.ethTailWrite (p : Nat) (tx : Bool) (r : Nat) (v : Word32) (d : Dev) : Dev :=
  let q := d.ring p tx r
  if !q.enable || v == q.tail then d
  else if (v - q.head).toNat ≤ q.size && v - q.tail ≤ v - q.head then d.onRing p tx r fun q => { q with tail := v }
  else (d.onRing p tx r fun q => { q with enable := false }).eventNamed .ethRingRange 0 0

/-- The address of a ring's descriptor at an index. -/
def Ring.at_ (q : Ring) (i : Word32) : Nat := q.base.toNat + 32 * (i.toNat % q.size)

/-- Descriptors that the port still holds: OWN is set up to the first that is not (R324). -/
def Dev.owned_ (d : Dev) (q : Ring) : List (List Byte) :=
  ((List.range (q.tail - q.head).toNat).map fun i => d.read (q.at_ (q.head + BitVec.ofNat 32 i)) 32).takeWhile fun b =>
    bitOf (leAt b 10 2) 0

/-- A descriptor as the port writes it back, OWN cleared (R324). -/
def descBack (desc : List Byte) (length flags : Nat) (hash : Nat) (ts : List Byte) : List Byte :=
  slice desc 0 8 ++ leBytes 2 length ++ leBytes 2 flags ++ leBytes 4 hash ++ ts ++ List.replicate 6 0

/-- The ring moved past some descriptors that have been written back, with its interrupt. -/
def Dev.ringAdvance (d : Dev) (p : Nat) (tx : Bool) (r : Nat) (n : Nat) : Dev :=
  let q := d.ring p tx r
  let d := d.onRing p tx r fun q => { q with head := q.head + BitVec.ofNat 32 n }
  if q.irqEn then d.interrupt q.irqVector else d

/-- Timestamp fields: the time when it is valid, else free values. -/
def Dev.stamp (d : Dev) (valid : Bool) (frac : BitVec 16) : List Byte × Dev :=
  if valid then (leBytes 8 d.now ++ leBytes 2 frac.toNat, d) else d.drawBytes 10

/-! ## Links and flow control (R323) -/

/-- Whether the link that a ring belongs to is up: all 64 rings are the 800G port's, and two 400G ports have 32 each
(10_queues_and_hub.md R323; log 36: the first port has the lower numbers). -/
def EthPort.carries (e : EthPort) (ring : Nat) : Bool :=
  e.link == 1 || e.link == 4 || (e.link == 2 && decide (ring < 32)) || (e.link == 3 && decide (32 ≤ ring))

/-- Whether a frame of a port's ring may pass: the port is up. -/
def Dev.ethUp (d : Dev) (p ring : Nat) : Bool := d.power.main && (d.hub.eth[p]?).any fun e => e.carries ring

/-- Where the pause time of a priority stands for the link of a ring. -/
def EthPort.pauseAt (e : EthPort) (ring prio : Nat) : Nat := if 2 ≤ e.link.val && 32 ≤ ring then 8 + prio else prio

/-- Elapsed time of a pause quantum, 512 bit times of the link (IEEE 802.1Qbb), to the tenth of a unit. -/
def EthPort.quanta (e : EthPort) (n : Nat) : Nat := n * (if e.link == 1 then 235243008 else 470486016) / 10

/-- Whether a frame is a priority flow control frame, which the port consumes (R323, IEEE 802.1Qbb). -/
def isPfc (frame : List Byte) : Bool := beNat (slice frame 12 4) == 0x88080101

/-- A priority flow control frame: each priority it enables is paused for its quanta from now on. -/
def Dev.takePfc (d : Dev) (p ring : Nat) (frame : List Byte) : Dev :=
  d.onEth p fun e => { e with
    pfc := (List.range 8).foldl (fun l i =>
      if bitOf (beNat (slice frame 16 2)) i
      then l.set (e.pauseAt ring i) (d.time.elapsed + e.quanta (beNat (slice frame (18 + 2 * i) 2))) else l) e.pfc }

/-- The priority of a frame: that of its VLAN tag, else 0 (log 36). -/
def framePriority (frame : List Byte) : Nat :=
  if beNat (slice frame 12 2) = 0x8100 then bitsOf (beNat (slice frame 14 2)) 13 3 else 0

/-- Whether flow control holds a frame of a ring back. -/
def Dev.pausedBy (d : Dev) (p ring : Nat) (frame : List Byte) : Bool :=
  (d.hub.eth[p]?).any fun e => decide (d.time.elapsed < e.pfc.getD (e.pauseAt ring (framePriority frame)) 0)

/-- Bytes of the frame check sequence. -/
def fcsBytes : Nat := 4

/-- Whether a frame has a length that a port supports, with its FCS (R323; log 36). -/
def frameLengthOk (frame : List Byte) : Bool := 64 ≤ frame.length + fcsBytes && frame.length + fcsBytes ≤ 9600

/-- Where the header behind the Ethernet header and a VLAN tag begins, with its type. -/
def frameInner (frame : List Byte) : Nat × Nat :=
  if beNat (slice frame 12 2) = 0x8100 then (18, beNat (slice frame 16 2)) else (14, beNat (slice frame 12 2))

/-- The header of a TCP or UDP segment in a frame of IPv4, no fragment, or IPv6: its protocol and where it begins. -/
def frameSegment (frame : List Byte) : Option (Nat × Nat) :=
  let h := frameInner frame
  let proto := if h.2 = 0x0800 then leAt frame (h.1 + 9) 1 else leAt frame (h.1 + 6) 1
  let at_ := if h.2 = 0x0800 then h.1 + 4 * (leAt frame h.1 1 % 16) else h.1 + 40
  let whole := h.2 = 0x86DD || (h.2 = 0x0800 && beNat (slice frame (h.1 + 6) 2) % 2 ^ 14 = 0)
  if whole && (proto = 6 || proto = 17) then some (proto, at_) else none

/-- What the receive hash is taken over (R323): the IPv4 or IPv6 addresses, then the TCP or UDP ports. A frame of neither has no flow. -/
def frameFlow (frame : List Byte) : Option (List Byte) :=
  let h := frameInner frame
  let ports := ((frameSegment frame).map fun p => slice frame p.2 4).getD []
  if h.2 = 0x0800 then some (slice frame (h.1 + 12) 8 ++ ports)
  else if h.2 = 0x86DD then some (slice frame (h.1 + 8) 32 ++ ports)
  else none

/-- The Toeplitz hash of some bytes under a key (R323): for each bit that is set, the 32 bits of the key that begin there. -/
def toeplitz (key : BitVec 320) (input : List Byte) : Word32 :=
  (List.range (8 * input.length)).foldl (fun h i =>
    if bitOf (leAt input (i / 8) 1) (7 - i % 8) then h ^^^ BitVec.ofNat 32 (key.toNat / 2 ^ (288 - i)) else h) 0

/-- Whether receive distribution sends a frame with a hash to a ring (R323): the hash of its flow, and the ring that the hash chooses
among the 64 of the port or the 32 of the 400G port. A frame without a flow may go to any ring (log 36). -/
def EthPort.distributes (e : EthPort) (ring : Nat) (hash : Word32) (frame : List Byte) : Bool :=
  match frameFlow frame with
  | none => true
  | some flow =>
    let rings := if e.link == 1 then 64 else 32
    hash == toeplitz Config.hashKey flow && ring % rings == Config.hashRing hash % rings

/-- Whether a frame carries an IEEE 1588-2019 event message (R323), of types 0 to 3: in a frame of its own type, or to UDP port 319. -/
def ptpEvent (frame : List Byte) : Bool :=
  let h := frameInner frame
  let udp := (frameSegment frame).any fun p => p.1 = 17 && beNat (slice frame (p.2 + 2) 2) = 319 && leAt frame (p.2 + 8) 1 % 16 < 4
  (h.2 = 0x88F7 && leAt frame h.1 1 % 16 < 4) || udp

/-! ## Receive (R323, R324) -/

/-- A frame cut over the receive buffers, each a descriptor and the bytes it takes; none when they are too few. -/
def cutFrame : List (List Byte) → List Byte → Option (List (List Byte × List Byte))
  | [], _ => none
  | b :: bs, f =>
    let n := leAt b 8 2
    if f.length ≤ n then some [(b, f)] else (cutFrame bs (f.drop n)).map fun l => (b, f.take n) :: l

/-- ETH_FRAME_RECEIVE (R323, R324): the frame is written to the buffers of the ring that its distribution chose; with too few, or with
a length outside 64 to 9,600 bytes, it is dropped (log 36). Its FCS is checked. A flow control frame pauses the priorities it names and is
consumed. Only an IEEE 1588 event message is stamped. -/
def Dev.ethFrameReceive (p ring : Nat) (hash : Word32) (frame : List Byte) (fcs : Word32) (tsValid : Bool) (frac : BitVec 16) (d : Dev) : Dev :=
  let q := d.ring p false ring
  let fcsErr := fcs != crc32 frame
  let tsValid := tsValid && ptpEvent frame
  if !d.ethUp p ring || !frameLengthOk frame || !((d.hub.eth[p]?).any fun e => e.distributes ring hash frame) then d
  else if isPfc frame then if fcsErr then d else d.takePfc p ring frame
  else if !q.enable then d
  else match cutFrame (d.owned_ q) frame with
    | none => d
    | some parts =>
      match lowest (parts.flatMap fun x => d.hubRange (leAt x.1 0 8) x.2.length) with
      | some code => d.faultEvent code none 0
      | none =>
        let d := (parts.zipIdx).foldl (fun d x =>
          let last := x.2 + 1 == parts.length
          let s := d.stamp (tsValid && last) frac
          let flags := 2 * last.toNat + 4 * (tsValid && last).toNat + 8 * (fcsErr && last).toNat
          let d := s.2.write (leAt x.1.1 0 8) x.1.2
          d.write (q.at_ (q.head + BitVec.ofNat 32 x.2)) (descBack x.1.1 x.1.2.length flags hash.toNat s.1)) d
        d.ringAdvance p false ring parts.length

/-! ## Transmit (R324) -/

/-- The descriptors of the next frame to send, up to its EOP. -/
def frameDescs : List (List Byte) → Option (List (List Byte))
  | [] => none
  | b :: bs => if bitOf (leAt b 10 2) 1 then some [b] else (frameDescs bs).map fun l => b :: l

/-- Where the IEEE 1588 message of a frame begins, if it carries one: after its type 0x88F7 and a VLAN tag. -/
def ptpAt (frame : List Byte) : Option Nat :=
  if beNat (slice frame 12 2) = 0x88F7 then some 14
  else if beNat (slice frame 12 2) = 0x8100 && beNat (slice frame 16 2) = 0x88F7 then some 18 else none

/-- A frame as it leaves: a one-step Sync, whose twoStepFlag is clear, takes the device time as its originTimestamp of seconds
and nanoseconds (R323, IEEE 1588-2019; log 36). -/
def oneStep (now : Nat) (frame : List Byte) : List Byte :=
  match ptpAt frame with
  | none => frame
  | some o =>
    if leAt frame o 1 % 16 = 0 && !bitOf (leAt frame (o + 6) 1) 1
    then spliceBytes frame (o + 34) (beBytes 6 (now / 1000000000) ++ beBytes 4 (now % 1000000000)) else frame

/-- A frame as it leaves, with its FCS generated (R323). -/
def withFcs (frame : List Byte) : List Byte := frame ++ leBytes 4 (crc32 frame).toNat

/-- The bytes of the frame that some transmit descriptors name. -/
def Dev.frameOf (d : Dev) (bs : List (List Byte)) : List Byte := bs.flatMap fun b => d.read (leAt b 0 8) (leAt b 8 2)

/-- ETH_FRAME_TRANSMIT_DONE (R323, R324): the frame leaves, and its descriptors are written back. A frame whose buffer cannot
be read, or of a length that no port supports, is not sent (log 36). One whose priority is paused has not left. -/
def Dev.ethFrameTransmitDone (p ring : Nat) (frac : BitVec 16) (d : Dev) : Dev :=
  let q := d.ring p true ring
  if !d.ethUp p ring || !q.enable then d
  else match frameDescs (d.owned_ q) with
    | none => d
    | some bs =>
      let bad := lowest (bs.flatMap fun b => d.readFaults (leAt b 0 8) (leAt b 8 2))
      if bad.isNone && d.pausedBy p ring (d.frameOf bs) then d else
      let d : Dev := match bad with
        | some code => d.faultEvent code none 0
        | none => if frameLengthOk (d.frameOf bs) then d.send (.frame p (withFcs (oneStep d.now (d.frameOf bs)))) else d
      let d := (bs.zipIdx).foldl (fun d x =>
        let asked := bitOf (leAt x.1 10 2) 2
        let s := d.stamp asked frac
        let flags := leAt x.1 10 2 / 2 * 2
        s.2.write (q.at_ (q.head + BitVec.ofNat 32 x.2)) (descBack x.1 (leAt x.1 8 2) flags (leAt x.1 12 4) s.1)) d
      d.ringAdvance p true ring bs.length

/-! ## Links -/

/-- Whether ETH_LINK may take a value in a mode of ETH_MODE (R323). -/
def linkFits (mode code : Nat) : Bool := code == 0 || (mode == 1 && code == 1) || (mode == 2 && 2 ≤ code)

/-- ETH_LINK_CHANGE (R323). -/
def Dev.ethLinkChange (p : Nat) (code : Fin 5) (d : Dev) : Dev :=
  if !d.power.main || !linkFits (d.live.ethMode.getD p 0) code.val then d
  else d.onEth p fun e => { e with link := code }

/-- MGMT_LINK_CHANGE (R333): the port runs on auxiliary power. -/
def Dev.mgmtLinkChange (up : Bool) (d : Dev) : Dev :=
  if !d.power.aux || d.pins.resetIn || d.boot.step < 2 then d else { d with hub := { d.hub with mgmtLink := up } }

/-- Whether the root port trains to a rate, a width and FLIT mode (R325): no link; or 2.5 (as 2 or 3, log 37), 5, 8, 16, 32 or 64 GT/s,
x1 to x16, and FLIT mode at 64 GT/s. -/
def pcieTrains (rate width : Byte) (flit : Bool) : Bool :=
  (rate == 0 && width == 0 && !flit)
    || (([2, 3, 5, 8, 16, 32, 64] : List Byte).contains rate && ([1, 2, 4, 8, 16] : List Byte).contains width && flit == (rate == 64))

/-- PCIE_LINK_CHANGE (R325). -/
def Dev.pcieLinkChange (rate width : Byte) (flit : Bool) (d : Dev) : Dev :=
  if !d.power.main || !pcieTrains rate width flit then d
  else { d with hub := { d.hub with pcie := { d.hub.pcie with rate := rate, width := width, flit := flit } } }

/-! ## Sessions -/

/-- A session closed; a request of it that waits for the Well goes with it. -/
def Dev.closeSession (d : Dev) (k : Nat) : Dev :=
  let theirs := fun (r : WellReq) => match r with
    | .watch (.spdm (.session i) _) _ _ => i.val == k
    | _ => false
  { d with
    hub := { d.hub with sessions := d.hub.sessions.set k none }
    well := { d.well with requests := d.well.requests.filter fun r => !theirs r } }

/-- Nanoseconds after which an idle session closes (R333). -/
def sessionIdleNs : Nat := 300000000000

/-- SESSION_IDLE_CLOSE (R333). -/
def Dev.sessionIdleClose (k : Fin 16) (d : Dev) : Dev :=
  match d.hub.sessions.getD k.val none with
  | some s => if s.used + sessionIdleNs ≤ d.elapsedNs then d.closeSession k.val else d
  | none => d

/-! ## PCIe inbound (R326) -/

/-- Base of the interrupt files (R303). -/
def irqFiles : Nat := 0x50020000000

/-- Whether a range lies wholly within an inbound window; a limit is the first address after its window (log 37). -/
def Pcie.admits (p : Pcie) (a n : Nat) : Bool := p.windows.any fun w => w.1.toNat ≤ a && a + n ≤ w.2.toNat

/-- Whether an address is a register of an interrupt file. -/
def inIrqFiles (a : Nat) : Bool := irqFiles ≤ a && a < irqFiles + 32 * 4096

/-- An identity made pending at an interrupt file: 1 to 2,047 (R303). -/
def Dev.pend (d : Dev) (core : Nat) (machine : Bool) (id : Nat) : Dev :=
  let i := (core, machine, id)
  if id = 0 || 2047 < id || d.irqs.contains i then d else { d with irqs := d.irqs ++ [i] }

/-- A 4-byte write to an interrupt file by the root port (R303, R326): one to a register that makes an identity pending does so; the
rest of the page takes no such write (log 99). -/
def Dev.postInterrupt (d : Dev) (a v : Nat) : Dev :=
  let off := a - irqFiles
  match Config.irqRegister (off % 4096) with
  | some (.post machine reversed) => d.pend (off / 4096) machine (if reversed then beNat (leBytes 4 v) else v)
  | _ => d

/-- An interrupt file of a core (R303). -/
def Dev.irqFile (d : Dev) (core : Nat) (machine : Bool) : IrqFile :=
  let files := d.hub.irqFiles.getD core (⟨0, 0, []⟩, ⟨0, 0, []⟩)
  if machine then files.1 else files.2

/-- The device with an interrupt file of a core mapped. -/
def Dev.onIrqFile (d : Dev) (core : Nat) (machine : Bool) (f : IrqFile → IrqFile) : Dev :=
  { d with hub := { d.hub with irqFiles := modifyAt d.hub.irqFiles core fun x => if machine then (f x.1, x.2) else (x.1, f x.2) } }

/-- The identity that an interrupt file offers its core (R303): the lowest that is pending and enabled, and below the threshold where
that is not 0, while delivery is on. -/
def Dev.irqTop (d : Dev) (core : Nat) (machine : Bool) : Option Nat :=
  let f := d.irqFile core machine
  let ids := d.irqs.filterMap fun i => if i.1 = core && i.2.1 == machine && f.enabled.contains i.2.2 then some i.2.2 else none
  if f.delivery ≠ 1 then none
  else match ids.min? with
    | some i => if f.threshold = 0 || decide (i < f.threshold.toNat) then some i else none
    | none => none

/-- A word of 32 identities, from those that are set. -/
def irqWord (ids : List Nat) (word : Nat) : Nat :=
  (List.range 32).foldl (fun n b => if ids.contains (32 * word + b) then n + 2 ^ b else n) 0

/-- The identities that are set once a word of 32 is written. -/
def irqSet (ids : List Nat) (word v : Nat) : List Nat :=
  (List.range 2048).filter fun i => i != 0 && if i / 32 = word then bitOf v (i % 32) else ids.contains i

/-- The identities pending at an interrupt file. -/
def Dev.irqPending (d : Dev) (core : Nat) (machine : Bool) : List Nat :=
  d.irqs.filterMap fun i => if i.1 = core && i.2.1 == machine then some i.2.2 else none

/-- A store of an application core to its interrupt file's page (R303, the IMSIC of the RISC-V AIA; log 99): an identity made pending;
delivery and threshold; a word of pending or of enabled identities; the top identity claimed, which is then pending no longer. -/
def Dev.writeIrq (d : Dev) (a v : Nat) : Dev :=
  let core := (a - irqFiles) / 4096
  match Config.irqRegister ((a - irqFiles) % 4096) with
  | none => d
  | some (.post _ _) => d.postInterrupt a v
  | some (.delivery m) => d.onIrqFile core m fun f => { f with delivery := BitVec.ofNat 32 (v % 2) }
  | some (.threshold m) => d.onIrqFile core m fun f => { f with threshold := BitVec.ofNat 32 (v % 2048) }
  | some (.enabled m w) => d.onIrqFile core m fun f => { f with enabled := irqSet f.enabled w.val v }
  | some (.pending m w) =>
    let rest := d.irqs.filter fun i => !(i.1 == core && i.2.1 == m)
    { d with irqs := rest ++ (irqSet (d.irqPending core m) w.val v).map fun i => (core, m, i) }
  | some (.top m) => match d.irqTop core m with
    | some i => { d with irqs := d.irqs.erase (core, m, i) }
    | none => d

/-- What a register of an interrupt file reads as (R303, log 99): the top identity with its priority, which is its own number. -/
def Dev.readIrq (d : Dev) (a : Nat) : Nat :=
  let core := (a - irqFiles) / 4096
  match Config.irqRegister ((a - irqFiles) % 4096) with
  | none => 0
  | some (.post _ _) => 0
  | some (.delivery m) => (d.irqFile core m).delivery.toNat
  | some (.threshold m) => (d.irqFile core m).threshold.toNat
  | some (.enabled m w) => irqWord (d.irqFile core m).enabled w.val
  | some (.pending m w) => irqWord (d.irqPending core m) w.val
  | some (.top m) => match d.irqTop core m with
    | some i => i * 2 ^ 16 + i
    | none => 0

/-- The largest payload of an inbound write, and the most bytes an inbound read asks for (R325). -/
def maxPayload : Nat := 512
/-- Bytes of a read request. -/
def maxRead : Nat := 4096

/-- An inbound request that the root port does not accept. -/
def Dev.blockInbound (d : Dev) : Dev := (d.send (.pcie none)).eventNamed .pcieInboundBlocked 0 0

/-- PCIE_INBOUND (R325, R326): a request, or an error of the link, which is entered in the event log. A request inside a window that no backed memory answers, or that reads a poisoned word, and
one larger than the port supports, also complete as Unsupported Request (log 37). -/
def Dev.pcieInbound (r : PcieReq) (d : Dev) : Dev :=
  if !d.power.main || d.hub.pcie.rate == 0 then d
  else match r with
    | .error correctable => d.eventNamed (if correctable then .pcieCorrectable else .pcieUncorrectable) 0 0
    | .read a n =>
      if maxRead < n || !d.hub.pcie.admits a n || outsideTiers a n then d.blockInbound
      else match lowest (d.readFaults a n) with
        | some code => (d.faultEvent code none 0).send (.pcie none)
        | none => d.send (.pcie (some (d.read a n)))
    | .write a bs =>
      if inIrqFiles a && a % 4 == 0 && bs.length == 4 then d.postInterrupt a (leNat bs)
      else if maxPayload < bs.length || !d.hub.pcie.admits a bs.length || outsideTiers a bs.length then d.blockInbound
      else match lowest (d.hubRange a bs.length) with
        | some code => (d.faultEvent code none 0).send (.pcie none)
        | none => d.write a bs

end Sys2Proof.Machine
end

