-- ==== Sys2Proof/Machine/Entries.lean ====
section
/-!
DEFINITION. The entries of the Birsiler object dictionary: their types, access, roles, persistence and values
(11_object_dictionary.md R328 to R332, R343, R350 to R355, and the entry tables of the other chapters). What an entry
does when it is written stands in Dictionary.lean.
-/

namespace Sys2Proof.Machine

/-- How an entry's value changes (R343): without a version, never, or with a version. -/
inductive Ver where
  | none_
  | fixed
  | live
deriving DecidableEq, Repr

/-- An entry family of one index (R328, R329, R330): its subindices `lo` to `lo + count - 1`, the columns of its table
row, and its value. `max` is MAX_SIZE, 0 for the present size; `size` and `part` give the size and a part of the value. -/
structure OdRow where
  index  : Nat
  lo     : Nat
  count  : Nat
  type   : Nat
  access : Nat
  role   : Nat
  flash  : Bool
  elem   : Nat
  max    : Nat
  ver    : Ver
  get    : Dev → Nat → List Byte
  size   : Dev → Nat → Nat := fun d n => (get d n).length
  part   : Dev → Nat → Nat → Nat → List Byte := fun d n off k => slice (get d n) off k

/-- Type codes (R329). -/
def tU8 : Nat := 1
/-- U16. -/
def tU16 : Nat := 2
/-- U32. -/
def tU32 : Nat := 3
/-- U64. -/
def tU64 : Nat := 4
/-- S16. -/
def tS16 : Nat := 6
/-- BOOL. -/
def tBool : Nat := 10
/-- ENUM. -/
def tEnum : Nat := 11
/-- STR. -/
def tStr : Nat := 12
/-- BLOB. -/
def tBlob : Nat := 13
/-- RECORD. -/
def tRec : Nat := 14
/-- ARRAY. -/
def tArr : Nat := 15

/-- Access codes (R330). -/
def aRO : Nat := 0
/-- RW. -/
def aRW : Nat := 1
/-- WO. -/
def aWO : Nat := 2
/-- RWS. -/
def aRWS : Nat := 3
/-- CMD. -/
def aCMD : Nat := 4

/-- An RO entry that is no ARRAY. -/
def roRow (index lo count type : Nat) (ver : Ver) (flash : Bool) (get : Dev → Nat → List Byte) : OdRow where
  index := index
  lo := lo
  count := count
  type := type
  access := aRO
  role := 0
  flash := flash
  elem := if type = 13 then 1 else 0
  max := 0
  ver := ver
  get := get

/-- An entry that may be written. -/
def rwRow (index lo count type access role : Nat) (flash : Bool) (get : Dev → Nat → List Byte) : OdRow where
  index := index
  lo := lo
  count := count
  type := type
  access := access
  role := role
  flash := flash
  elem := if type = 13 then 1 else 0
  max := if type = 12 then 255 else 0
  ver := .live
  get := get

/-- An ARRAY that is RO. -/
def arrRow (index lo count elem max : Nat) (flash : Bool) (get : Dev → Nat → List Byte) : OdRow :=
  { roRow index lo count 15 .live flash get with elem := elem, max := max }

/-! ## Values -/

/-- A BOOL. -/
def eBool (b : Bool) : List Byte := leBytes 1 b.toNat

/-- An S16. -/
def eS16 (i : Int) : List Byte := leBytes 2 (wrapInt 16 i)

/-- Text as UTF-8 of ASCII characters. -/
def eText (s : String) : List Byte := s.toList.map fun c => BitVec.ofNat 8 c.toNat

/-- LINEAR11 of PMBus times a scale (16_power_clocks_thermal.md R452), rounded towards zero. -/
def linear11 (w : BitVec 16) (scale : Nat) : Int :=
  let m := signedOf 11 (w.toNat % 2048)
  let e := signedOf 5 (w.toNat / 2048)
  if 0 ≤ e then m * scale * 2 ^ e.toNat else (m * scale).tdiv (2 ^ (-e).toNat)

/-- LINEAR16 of PMBus in mV, with the exponent of VOUT_MODE. -/
def linear16 (w : BitVec 16) (mode : Byte) : Nat :=
  let e := signedOf 5 (mode.toNat % 32)
  if 0 ≤ e then w.toNat * 1000 * 2 ^ e.toNat else w.toNat * 1000 / 2 ^ (-e).toNat

/-- A BOARD_REG record (R353, R355). -/
def BoardReg.bytes (b : BoardReg) : List Byte :=
  leBytes 1 b.address ++ leBytes 4 (linear16 b.vout b.mode) ++ leBytes 4 (wrapInt 32 (linear11 b.iout 1000))
    ++ eS16 (linear11 b.temp 10) ++ leBytes 2 b.status.toNat

/-- A capability record (R350). -/
def capRecord (id version param : Nat) : List Byte := leBytes 2 id ++ leBytes 2 version ++ leBytes 4 param

/-- The capability records of bundle 3.x (R351). -/
def Dev.caps (d : Dev) : List (List Byte) :=
  [capRecord 1 1 (activeCount d.fuses.grade), capRecord 2 1 3, capRecord 3 1 255, capRecord 4 1 0, capRecord 5 1 0,
   capRecord 6 1 12, capRecord 7 1 0, capRecord 8 1 0, capRecord 9 1 0x13, capRecord 10 1 0, capRecord 11 1 0,
   capRecord 12 1 4, capRecord 13 1 6]

/-- SPARE_MAP codes (01_croft_anatomy.md R37). -/
def SpareState.code : SpareState → Nat
  | .active => 0 | .spare => 1 | .fenced => 2 | .retired => 3 | .disabled => 4 | .underTest => 5

/-- PORT_STATE codes (09_fohal_scale_out.md R298). -/
def PortState.code : PortState → Nat
  | .down => 0 | .detect => 1 | .train => 2 | .measure => 3 | .exchange => 4 | .up => 5 | .retrain => 6

/-- TIME_STATE codes (R298). -/
def TimePhase.code : TimePhase → Nat
  | .free => 0 | .syncing => 1 | .synced => 2 | .master => 3

/-- WELL_STATE codes (14_entropy_well.md R405). -/
def WellPhase.code : WellPhase → Nat
  | .disabled => 0 | .starting => 1 | .ready => 2 | .failed => 3

/-- WELL_CELL codes (R355). -/
def CellState.code : CellState → Nat
  | .active => 0 | .spare => 1 | .retired => 2

/-- TEST_STATE codes (R355). -/
def TestState.code : TestState → Nat
  | .idle => 0 | .waiting => 1 | .running => 2

/-- ACTIVATION_STATE codes (R355). -/
def ActState.code : ActState → Nat
  | .idle => 0 | .queued => 1 | .activating => 2

/-- The job at a position, as a Nat. -/
def Dev.jobAt (d : Dev) (n : Nat) : Option Job := d.job (Fin.ofNat 64 n)

/-- A port, or one after reset when there is none. -/
def Dev.portAt (d : Dev) (n : Nat) : Port := (d.port n).getD Port.reset

/-- CABLE_LENGTH in mm, to 0.1 m (R266): the round trip less the fixed latencies of both sides, at 4.9 ns/m. All times are
in 2^-6 ns. -/
def Port.cable (q : Port) : Nat :=
  let fixed := 180 * 64 + leAt q.partner 0x14 4 + leAt q.partner 0x18 4
  (100 * (q.rtt - fixed) + 49 * 64) / (98 * 64) * 100

/-- An entry of the route table (R274). -/
def Route.word (r : Route) : Nat :=
  r.primary * 2 ^ 28 + (r.adaptive.foldl (fun m p => m ||| 2 ^ p) 0) * 2 ^ 16 + r.hops % 256 * 256 + 1

/-- Whether a mesh node still forwards. -/
def MeshState.works (m : MeshState) (x y : Nat) : Bool := !m.covers x y && !m.failed.contains (x, y)

/-- CUT_LINKS (08_mesh_and_memory.md R241, R250). -/
def MeshState.cuts (m : MeshState) : Nat × Nat :=
  (((List.range 10).filter fun y => m.works 5 y && m.works 6 y).length,
   ((List.range 12).filter fun x => m.works x 4 && m.works x 5).length)

/-- The bytes of an event record (13_checking_replay_test.md R393). -/
def EventRec.bytes (r : EventRec) : List Byte :=
  let head := leBytes 8 r.seq ++ leBytes 8 r.time ++ leBytes 2 r.event ++ leBytes 1 r.severity ++ leBytes 1 r.kind
    ++ leBytes 2 r.source
  head ++ leBytes 2 (crc16 (head ++ leBytes 8 r.low.toNat)).toNat ++ leBytes 8 r.low.toNat

/-- A byte of a region of the event log, whose oldest record lies at the start of a sector; erased flash reads as ones (log 38). -/
def regionByte (cap at_ : Nat) (l : List EventRec) (off : Nat) : Byte :=
  match l[(off / 32 + cap - 2048 * at_) % cap]? with
    | some r => r.bytes.getD (off % 32) 0
    | none => 0xFF

/-- Bytes of the general region (R393). -/
def generalBytes : Nat := 32 * generalCap

/-- A byte of the event log: what a board agent programmed there since, else the general region and after it the fatal region
(R393; log 97). -/
def Logs.byte (l : Logs) (off : Nat) : Byte :=
  match l.raw.find? fun p => p.1 == off with
  | some p => p.2
  | none =>
    if off < generalBytes then regionByte generalCap l.generalAt l.general off
    else regionByte fatalCap l.fatalAt l.fatal (off - generalBytes)

/-- A part of the event log. -/
def Logs.part (l : Logs) (off n : Nat) : List Byte := (List.range n).map fun i => l.byte (off + i)

/-- A trace record (R392). -/
def traceBytes (r : Nat × Nat × Nat × BitVec 112) : List Byte :=
  leBytes 8 r.1 ++ leBytes 8 r.2.1 ++ leBytes 2 r.2.2.1 ++ bytesOf r.2.2.2

/-- Records of the trace ring (R392). -/
def traceCap : Nat := 524288

/-- A part of the trace ring (R392): the record with SEQ s lies at (s - 1) mod 524,288. -/
def tracePart (l : List (Nat × Nat × Nat × BitVec 112)) (off n : Nat) : List Byte :=
  (List.range n).map fun i => match l.find? fun r => (r.1 - 1) % traceCap == (off + i) / 32 with
    | some r => (traceBytes r).getD ((off + i) % 32) 0
    | none => 0

/-- A part of GRANARY_VIEW (01_croft_anatomy.md R43): a poisoned word reads as zeros. -/
def Slot.viewPart (t : Slot) (off n : Nat) : List Byte :=
  (List.range n).map fun i => if t.viewPoison.contains ((off + i) / 8 * 8) then 0 else readByte t.view (off + i)

/-- The version of the image in slot A or B of a class (R355): in use, or verified in the other slot. -/
def Boot.versionIn (b : Boot) (c : Nat) (slotB : Bool) : Nat :=
  if slotB == b.slotInUse c then
    (imageVersion (match b.running.getD c none with
      | some r => r.bytes
      | none => b.slotImage slotB c)).toNat
  else b.stagedVersion.getD c 0

/-- IMAGE_STATE of a class (15_boot_firmware_security.md R428, R429): the slot running, and the versions in both slots;
class 6 is the running Dremos image. -/
def Boot.imageState (b : Boot) (c : Nat) : List Byte :=
  if c = 6 then leBytes 1 0xFF ++ leBytes 4 ((b.dremos.map fun i => (imageVersion i).toNat).getD 0) ++ leBytes 4 0
  else eBool (b.slotInUse c) ++ leBytes 4 (b.versionIn c false) ++ leBytes 4 (b.versionIn c true)

/-- FIELD_HALO_MAX and the other entries of a slot. -/
def Dev.slotAt (d : Dev) (n : Nat) (f : Slot → List Byte) : List Byte := ((d.slots[n]?).map f).getD []

/-! ### Ball names (17_package_balls_electrical.md R460, R462) -/

/-- The quadrants in the clockwise order. -/
inductive Quadrant where
  | n | e | s | w
deriving DecidableEq, Repr

/-- The quadrant of a ball (R460): the nearest side, and of two equally near the first in the order N, E, S, W, N. -/
def quadrantOf (r c : Nat) : Quadrant :=
  if r < c && r ≤ 107 - c then .n
  else if 107 - c < r && 107 - c ≤ 107 - r then .e
  else if 107 - r < 107 - c && 107 - r ≤ c then .s
  else .w

/-- Depth and position of a ball within its quadrant (R460). -/
def Quadrant.local_ : Quadrant → Nat → Nat → Nat × Nat
  | .n, r, c => (r, c)
  | .e, r, c => (107 - c, r)
  | .s, r, c => (107 - r, 107 - c)
  | .w, r, c => (c, 107 - r)

/-- Row and column of the ball at a depth and a position of a quadrant (R460). -/
def Quadrant.ball : Quadrant → Nat → Nat → Nat × Nat
  | .n, d, a => (d, a)
  | .e, d, a => (a, 107 - d)
  | .s, d, a => (107 - d, 107 - a)
  | .w, d, a => (107 - a, d)

/-- The letter of a quadrant. -/
def Quadrant.letter : Quadrant → String
  | .n => "N" | .e => "E" | .s => "S" | .w => "W"

/-- Decimal digits with leading zeros. -/
def digits : Nat → Nat → List Byte
  | 0, _ => []
  | k + 1, v => digits k (v / 10) ++ [BitVec.ofNat 8 (48 + v % 10)]

/-- A number of up to three decimal digits, without leading zeros. -/
def decimal (v : Nat) : List Byte := digits (if v < 10 then 1 else if v < 100 then 2 else 3) v

/-- The name of a ball (R460). -/
def ballName (r c : Nat) : List Byte :=
  let q := quadrantOf r c
  let p := q.local_ r c
  eText q.letter ++ digits 4 (107 * p.1 - p.1 * p.1 + p.2)

/-- Both legs of a differential signal (R461). -/
def bothLegs (name : List Byte) : List (List Byte) := [name ++ eText "_P", name ++ eText "_N"]

/-- A signal of a bus, with its number in brackets. -/
def busBit (name : List Byte) (i : Nat) : List Byte := name ++ eText "[" ++ decimal i ++ eText "]"

/-- The signals of an LPDDR5X subsystem (R461): how the channel stands in a name the manual does not say (log 38). -/
def lpddrSignals (n : Nat) : List (List Byte) :=
  let lp := eText "LP" ++ decimal n ++ eText "_"
  [lp ++ eText "RESET_N", lp ++ eText "ZQ"] ++ (List.range 4).flatMap fun ch =>
    let pre := lp ++ decimal ch ++ eText "_"
    let bus := fun (name : String) (k : Nat) => (List.range k).map (busBit (pre ++ eText name))
    bus "DQ" 16 ++ bus "DMI" 2 ++ bus "RDQS_T" 2 ++ bus "RDQS_C" 2 ++ bus "WCK_T" 2 ++ bus "WCK_C" 2 ++ bus "CA" 7 ++ bus "CS" 2
      ++ [pre ++ eText "CK_T", pre ++ eText "CK_C"]

/-- The lanes of a Fohal or Ethernet port (R461). -/
def laneSignals (name : String) (port lanes : Nat) : List (List Byte) :=
  (List.range lanes).flatMap fun l => (["_TX", "_RX"] : List String).flatMap fun dir =>
    bothLegs (eText name ++ decimal port ++ eText dir ++ decimal l)

/-- The signals that one quadrant holds (R461). -/
def Quadrant.signals : Quadrant → List (List Byte)
  | .n =>
    List.replicate 16 (eText "VAUX33")
      ++ (List.range 6).flatMap (fun p => laneSignals "FH" p 9) ++ (List.range 4).flatMap (fun p => laneSignals "ETH" p 8)
      ++ (["PCIE_TX", "PCIE_RX"] : List String).flatMap (fun b => (List.range 16).flatMap fun l => bothLegs (busBit (eText b) l))
      ++ bothLegs (eText "PCIE_REFCLK") ++ (["PCIE_PERST_N", "PCIE_CLKREQ_N", "PCIE_WAKE_N"] : List String).map eText
      ++ bothLegs (eText "MGMT_TX") ++ bothLegs (eText "MGMT_RX")
      ++ (["XSPI_SCK", "XSPI_DQS"] : List String).map eText ++ (List.range 8).map (busBit (eText "XSPI_IO"))
      ++ (["XSPI_CS0_N", "XSPI_CS1_N", "XSPI_RESET_N"] : List String).map eText
      ++ bothLegs (eText "REFCLK") ++ (["PPS_IN", "PPS_OUT", "PMB_SCL", "PMB_SDA", "PMB_ALERT_N", "SMB_SCL", "SMB_SDA",
        "PWR_GOOD_IN", "RESET_IN_N", "ALERT_N", "FATAL_N", "THERMTRIP_N", "SMB_ADDR0", "SMB_ADDR1", "TCK", "TMS", "TDI", "TDO",
        "TRST_N"] : List String).map eText
  | .e => (List.range 12).flatMap lpddrSignals
  | .s => (List.range 6).flatMap fun p => laneSignals "FH" (6 + p) 9
  | .w => (List.range 12).flatMap fun n => lpddrSignals (12 + n)

/-- The signals that every quadrant may hold (R461): 12 V, ground and the reserved balls, which carry none (log 38). -/
def spreadSignals : List (List Byte) :=
  List.replicate 960 (eText "VIN12") ++ List.replicate 6357 (eText "GND") ++ List.replicate 64 (eText "RESERVED")

/-- The balls of a quadrant, by row and column. -/
def Quadrant.balls (q : Quadrant) : List (Nat × Nat) :=
  (List.range 108).flatMap fun r => (List.range 108).filterMap fun c => if quadrantOf r c = q then some (r, c) else none

/-- Whether a ball takes its signal before another: the lower weight, then the lower row and column. -/
def ballBefore (x y : Nat × Nat) : Bool :=
  let key := fun (p : Nat × Nat) => Config.ballWeight p.1 p.2 * 108 * 108 + p.1 * 108 + p.2
  key x < key y

/-- How many balls of a list take their signals before a ball. -/
def ballRank (l : List (Nat × Nat)) (x : Nat × Nat) : Nat := (l.filter fun y => ballBefore y x).length

/-- The balls of a quadrant that carry no signal of its own. -/
def Quadrant.spread (q : Quadrant) : List (Nat × Nat) := q.balls.filter fun x => q.signals.length ≤ ballRank q.balls x

/-- The signal name of a ball (R461, R462): the first balls of a quadrant by Config.ballWeight carry its own signals, and the others of
the package the signals of every quadrant. -/
def ballSignal (r c : Nat) : List Byte :=
  let q := quadrantOf r c
  let k := ballRank q.balls (r, c)
  if k < q.signals.length then q.signals.getD k []
  else spreadSignals.getD (ballRank (([.n, .e, .s, .w] : List Quadrant).flatMap Quadrant.spread) (r, c)) []

/-- A line of BALL_MAP (R462). -/
def ballLine (r c : Nat) : List Byte :=
  ballName r c ++ eText "," ++ decimal r ++ eText "," ++ decimal c ++ eText "," ++ ballSignal r c ++ [10]

/-- BALL_MAP (R462): a line for each ball in the order of the names, each ended by a line feed (log 38). -/
def ballMap : List Byte :=
  ([.e, .n, .s, .w] : List Quadrant).flatMap fun q => (List.range 54).flatMap fun d => (List.range (107 - 2 * d)).flatMap fun k =>
    ballLine (q.ball d (d + 1 + k)).1 (q.ball d (d + 1 + k)).2

/-! ### Event names and trace kinds (13_checking_replay_test.md R395, R397) -/

/-- A record of EVENT_NAMES or TRACE_KINDS (R397). -/
def nameRecord (id : Nat) (name : List Byte) : List Byte := leBytes 2 id ++ leBytes 1 (min 255 name.length) ++ name.take 255

/-- The identities that the manual gives, with their names (R282, R348, R395, R406, R408, R428, R431). -/
def knownEvents : List (Nat × String) :=
  [(0xE001, "REPLAY"), (0xE002, "FENCED"), (0xE003, "RETIRED"), (0xE004, "AGE_MARKED"), (0xE005, "AGE_NO_SPARE"),
   (0xE006, "ROW_REPAIRED"), (0xE007, "POISONED"), (0xE008, "TEST_DONE"), (0xE009, "STEP_SUSPECT"), (0xE00A, "CORRECTED"),
   (0xE00B, "REPAIR_EXHAUSTED"), (0xE00C, "UNFIT"), (0xE00D, "MAP_CHANGED"), (0xE020, "WELL_BLOCK_FAILED"),
   (0xE021, "WELL_CELL_RETIRED"), (0xE030, "BOOT_FALLBACK"), (0xE031, "ACTIVATED"), (0xE040, "TIME_STEP"),
   (0xE050, "COMMIT_APPLIED")]

/-- The events that the manual names without an identity, or describes without a name. -/
def openEvents : List (Config.NamedEvent × Option String) :=
  [(.laneSpared, some "LANE_SPARED"), (.portHalfWidth, some "PORT_HALF_WIDTH"), (.linkJoin, some "LINK_JOIN"),
   (.linkLeave, some "LINK_LEAVE"), (.routesUpdated, some "ROUTES_UPDATED"), (.topologyMismatch, some "TOPOLOGY_MISMATCH"),
   (.bundleMismatch, some "BUNDLE_MISMATCH"), (.fabricAddrConflict, some "FABRIC_ADDR_CONFLICT"),
   (.digestMismatch, some "DIGEST_MISMATCH"), (.barrierLate, some "BARRIER_LATE"), (.timeUnsynced, some "TIME_UNSYNCED"),
   (.ethRingRange, some "ETH_RING_RANGE"), (.pcieInboundBlocked, some "PCIE_INBOUND_BLOCKED"), (.regulatorMissed, none),
   (.regulatorStatus, none), (.slotUnderTest, none), (.pcieCorrectable, none), (.pcieUncorrectable, none)]

/-- OD C002.01 EVENT_NAMES (R395, R397): the identities that the manual gives, those it leaves open, and any others (log 38). -/
def eventNames : List Byte :=
  (knownEvents.flatMap fun e => nameRecord e.1 (eText e.2))
    ++ (openEvents.flatMap fun e =>
      nameRecord (0xE000 + (Config.eventIdentity e.1).toNat) ((e.2.map eText).getD (Config.eventText e.1)))
    ++ (Config.moreEvents ()).flatMap fun e => nameRecord e.1.toNat e.2

/-- OD B002.01 TRACE_KINDS (R392, R397). -/
def traceKinds : List Byte := (Config.traceKinds ()).flatMap fun e => nameRecord e.1.toNat e.2

/-- REFCLK_STATE (R353, 16_power_clocks_thermal.md R453; log 100): absent before the board's supplies stand and after a loss of more
than 10 µs. -/
def Dev.refclkState (d : Dev) : Nat :=
  if !d.power.aux || d.pins.resetIn || d.power.refAbsent then 0 else if d.power.refUnlocked then 2 else 1

/-- ISLAND_FREQ in kHz (16_power_clocks_thermal.md R446, R451): 0 while the islands are off (log 100). -/
def Dev.islandKhz (d : Dev) (n : Nat) : Nat :=
  if d.power.main then ([2700000 - 150000 * min d.power.level.val 9, 2000000, 1000000, 3000000, 4900000] : List Nat).getD n 0 else 0

/-- MESH_VC_FLITS of a node (08_mesh_and_memory.md R250). -/
def Dev.vcFlits (d : Dev) (node : Nat) : List Byte :=
  (List.range 4).flatMap fun c => leBytes 8 (d.mesh.granted.getD (4 * node + c) 0)

/-- The rows of MESH_VC_FLITS for some nodes; the four corners have none (08_mesh_and_memory.md R229). -/
def vcRow (node count : Nat) : OdRow := roRow 0xA050 (node + 1) count tRec .none_ false fun d n => d.vcFlits (node + n)

/-- The members of a staging that a RECORD of three U8 holds. -/
def e3 (p : Nat × Nat × Nat) : List Byte := leBytes 1 p.1 ++ leBytes 1 p.2.1 ++ leBytes 1 p.2.2

/-! ## The tables, in order of index and subindex -/

/-- Range 1000: identity, maps, capabilities (R4, R37, R351, R355, R436, R462). -/
def odIdentity : List OdRow :=
  [roRow 0x1000 1 1 tU64 .fixed false fun d _ => leBytes 8 d.fuses.deviceId.toNat,
   roRow 0x1000 2 1 tEnum .fixed false fun d _ => leBytes 2 d.fuses.grade.toNat,
   roRow 0x1000 3 1 tEnum .fixed false fun _ _ => leBytes 2 stepping,
   roRow 0x1000 4 1 tStr .fixed false fun d _ => eText (if d.fuses.grade = 2 then "WG25-M-B0" else "WG25-H-B0"),
   roRow 0x1000 5 1 tU16 .live false fun d _ => leBytes 2 d.boot.bundle,
   roRow 0x1000 6 1 tU32 .fixed false fun _ _ => leBytes 4 idcode.toNat,
   roRow 0x1000 7 1 tBlob .fixed false fun _ _ => ballMap,
   arrRow 0x1010 1 64 1 256 false fun d n => match d.jobAt n with
     | some q => d.mapSlots (Fin.ofNat 64 n) q.params.crofts
     | none => [],
   arrRow 0x1011 1 1 2 160 false fun d _ => d.slots.flatMap fun t => leBytes 2 t.spare.code,
   roRow 0x1012 0 1 tU64 .none_ false fun d _ => leBytes 8 d.mapGen,
   roRow 0x1013 1 64 tRec .live false fun d n => match d.jobAt n with
     | some q => leBytes 4 q.params.handle.toNat ++ leBytes 2 q.params.crofts ++ leBytes 2 q.params.devices
     | none => List.replicate 8 0,
   rwRow 0x1020 1 1 tRec aRWS 3 true fun d _ => d.live.mgmtAddr,
   rwRow 0x1020 2 1 tBool aCMD 3 false fun d _ => eBool ((d.hub.commits.getD 0 none).isSome),
   roRow 0x1020 3 1 tEnum .live false fun d _ => leBytes 2 d.hub.mgmtLink.toNat,
   roRow 0x1100 0 1 tU8 .fixed false fun d _ => leBytes 1 d.caps.length,
   roRow 0x1100 1 13 tRec .fixed false fun d n => d.caps.getD n []]

/-- Ranges 2000 and 2800: supplies and temperatures (R355; 16_power_clocks_thermal.md R456). -/
def odPower : List OdRow :=
  [roRow 0x2000 1 1 tU32 .none_ false fun d _ => leBytes 4 (d.power.vin.getD 0),
   roRow 0x2000 2 1 tU32 .none_ false fun d _ => leBytes 4 d.power.vaux,
   roRow 0x2001 0 1 tU8 .fixed false fun _ _ => [123],
   roRow 0x2001 1 123 tRec .none_ false fun d n =>
     let r := d.power.rails.getD n (0, 0)
     leBytes 4 r.1 ++ leBytes 4 r.2,
   roRow 0x2010 1 1 tU32 .none_ false fun d _ => leBytes 4 d.power.package,
   rwRow 0x2010 2 1 tU32 aRW 2 true fun d _ => leBytes 4 ((d.power.clearLimit.or d.power.nextLimit).getD d.power.limit),
   roRow 0x2011 1 1 tU8 .live false fun d _ => leBytes 1 d.power.level.val,
   roRow 0x2012 1 1 tEnum .live false fun d _ => leBytes 2 d.power.cause.val,
   roRow 0x2020 0 1 tU8 .live false fun d _ => leBytes 1 d.power.board.length,
   roRow 0x2020 1 16 tRec .none_ false fun d n => ((d.power.board[n]?).map BoardReg.bytes).getD (List.replicate 13 0),
   roRow 0x2030 1 1 tEnum .live false fun d _ => leBytes 2 d.powerState,
   rwRow 0x2031 1 1 tEnum aCMD 2 false fun d _ =>
     leBytes 2 (if d.power.standbyDue then 1 else if d.power.readyAsked then 2 else 0),
   roRow 0x2032 1 1 tEnum .live false fun d _ => leBytes 2 (d.power.emPower.toNat + 2 * d.power.emThermal.toNat),
   roRow 0x2800 0 1 tU8 .fixed false fun _ _ => [112],
   roRow 0x2800 1 112 tS16 .none_ false fun d n => eS16 (d.power.tj.getD n 0),
   roRow 0x2801 1 1 tS16 .none_ false fun d _ => eS16 d.power.tjMax,
   roRow 0x2802 1 1 tRec .fixed false fun _ _ => eS16 1050 ++ eS16 1150 ++ eS16 1250,
   roRow 0x2803 1 12 tS16 .none_ false fun d n => eS16 (d.power.hbmTemp.getD n 0)]

/-- Ranges 3000 and 3800: clocks and memories (R355; 08_mesh_and_memory.md R255; 16_power_clocks_thermal.md R451, R456). -/
def odClocks : List OdRow :=
  [roRow 0x3000 1 5 tU32 .live false fun d n => leBytes 4 (d.islandKhz n),
   roRow 0x3001 1 1 tEnum .none_ false fun d _ => leBytes 2 d.refclkState,
   roRow 0x3002 1 1 tEnum .none_ false fun d _ => leBytes 2 d.power.ppsValid.toNat,
   roRow 0x3003 1 1 tU64 .none_ false fun d _ => leBytes 8 d.now,
   rwRow 0x3004 1 1 tBool aRW 2 true fun d _ => eBool d.settings.ppsOutEnable,
   roRow 0x3005 1 1 tU64 .none_ false fun d _ => leBytes 8 d.elapsedNs,
   roRow 0x3800 1 1 tU16 .none_ false fun d _ => leBytes 2 d.units.hbmPresent.toNat,
   roRow 0x3801 1 12 tU64 .none_ false fun d n => leBytes 8 (d.units.hbmBacked.getD n 0),
   roRow 0x3802 1 24 tU64 .none_ false fun d n => leBytes 8 (d.units.lpInstalled.getD n 0),
   roRow 0x3803 1 24 tEnum .none_ false fun d n => leBytes 2 (d.units.lpState.getD n 0).val,
   roRow 0x3804 1 24 tU64 .none_ false fun d n => leBytes 8 (d.units.lpBacked n),
   roRow 0x3810 1 36 tU64 .live false fun d n => leBytes 8 (d.units.scrubLast.getD n 0)]

/-- Ranges 4000 and 4800: the package mesh and Fohal (08_mesh_and_memory.md R250; 09_fohal_scale_out.md R298). -/
def odFabric : List OdRow :=
  [arrRow 0x4000 1 1 4 0 true fun d _ => d.mesh.regions.flatMap fun r => e3 (r.1, r.2.1, r.2.2.1) ++ leBytes 1 r.2.2.2,
   roRow 0x4001 1 1 tRec .live false fun d _ => leBytes 1 d.mesh.cuts.1 ++ leBytes 1 d.mesh.cuts.2,
   rwRow 0x4002 1 1 tU32 aRW 2 true fun d _ => leBytes 4 d.settings.meshAckLimit,
   rwRow 0x4800 1 1 tEnum aRWS 2 true fun d _ => leBytes 2 d.live.topology,
   rwRow 0x4800 2 1 tU16 aRWS 2 true fun d _ => leBytes 2 d.live.fabricAddr,
   rwRow 0x4800 3 1 tRec aRWS 2 true fun d _ => e3 d.live.coord,
   rwRow 0x4800 4 1 tRec aRWS 2 true fun d _ => e3 d.live.dims,
   rwRow 0x4800 5 1 tBool aCMD 2 false fun d _ => eBool ((d.hub.commits.getD 1 none).isSome),
   rwRow 0x4801 1 12 tBool aRW 2 true fun d n => eBool (d.settings.portEnable.getD n false),
   roRow 0x4802 1 12 tEnum .live false fun d n => leBytes 2 (d.portAt n).state.code,
   roRow 0x4803 1 12 tRec .live false fun d n =>
     let q := d.portAt n
     leBytes 2 q.lanes.toNat ++ eBool q.spare ++ leBytes 1 q.width
       ++ leBytes 2 (if q.width = 0 then 0 else (Config.portRate q.fullRate).toNat),
   { arrRow 0x4804 1 12 2 18 false fun d n => (d.portAt n).loss.flatMap (leBytes 2) with ver := .none_ },
   roRow 0x4805 1 12 tU32 .none_ false fun d n => leBytes 4 (d.portAt n).rtt,
   roRow 0x4806 1 12 tU32 .none_ false fun d n => leBytes 4 (d.portAt n).cable,
   roRow 0x4807 1 12 tBlob .none_ false fun d n => (d.portAt n).partner,
   { arrRow 0x4810 1 1 4 131072 false fun d _ => d.fabric.routes.flatMap fun r => leBytes 2 r.dest ++ leBytes 4 r.word with
     size := fun _ _ => 131072
     part := fun d _ off k => (List.range k).map fun i =>
       let a := (off + i) / 4
       match d.fabric.routes.find? fun r => r.dest == a with
       | some r => (leBytes 4 r.word).getD ((off + i) % 4) 0
       | none => 0 },
   roRow 0x4811 1 1 tU64 .none_ false fun d _ => leBytes 8 d.fabric.topoGen,
   arrRow 0x4820 1 64 2 40960 false fun d n => match d.jobAt n with
     | some q => q.devs.flatMap (leBytes 2)
     | none => [],
   roRow 0x4830 1 1 tEnum .live false fun d _ => leBytes 2 d.fabric.timeState.code,
   rwRow 0x4840 1 1 tU32 aRW 2 true fun d _ => leBytes 4 d.settings.collStepLimit,
   arrRow 0x4850 1 1 18 1152 false fun d _ => d.fabric.flagged.flatMap fun e =>
     leBytes 8 e.1.toNat ++ leBytes 2 e.2.1 ++ leBytes 8 e.2.2]

/-- Range 5000: queues, models and outside ports (05_dense_sampling.md R155; 06_lattice_field.md R191; 07; 10; R355). -/
def odHub : List OdRow :=
  [roRow 0x5000 1 1 tU16 .fixed false fun _ _ => leBytes 2 16384,
   roRow 0x5001 1 1 tU16 .live false fun d _ => leBytes 2 d.cmds.length,
   roRow 0x5002 1 1 tU8 .live false fun d _ => leBytes 1 (d.jobs.filter Option.isSome).length,
   rwRow 0x5012 1 1 tU32 aRW 2 true fun d _ => leBytes 4 d.settings.syncWaitLimit,
   roRow 0x5020 1 1 tEnum .live false fun d _ => leBytes 2 d.hub.model.result,
   roRow 0x5020 2 1 tU64 .live false fun d _ => leBytes 8 d.hub.model.conflicts,
   roRow 0x5020 3 1 tRec .live false fun d _ => leBytes 4 d.hub.model.first.1.toNat ++ leBytes 4 d.hub.model.first.2.toNat,
   rwRow 0x5030 1 1 tU32 aRW 2 true fun d _ => leBytes 4 d.settings.haloTimeout,
   rwRow 0x5040 1 4 tEnum aRWS 1 true fun d n => leBytes 2 (d.live.ethMode.getD n 0),
   roRow 0x5041 1 4 tEnum .live false fun d n => leBytes 2 (((d.hub.eth[n]?).map (·.link.val)).getD 0),
   rwRow 0x5042 1 1 tBool aCMD 1 false fun d _ => eBool ((d.hub.commits.getD 2 none).isSome),
   roRow 0x5050 1 1 tRec .live false fun d _ => [d.hub.pcie.rate, d.hub.pcie.width] ++ eBool d.hub.pcie.flit]

/-- Range 6000: generators and the Well (04_lane_generators.md R124; 14_entropy_well.md R414; R355). -/
def odWell : List OdRow :=
  [roRow 0x6001 1 2 tBlob .fixed false fun _ n => leBytes 17 (charPoly (n == 1)),
   { roRow 0x6002 1 2 tArr .fixed false fun _ n => (jumpPolys (charPoly (n == 1)) 98).flatMap (leBytes 16) with
     elem := 16, max := 1568, size := fun _ _ => 1568 },
   roRow 0x6003 1 1 tEnum .live false fun d _ => leBytes 2 d.boot.genKat,
   roRow 0x6003 2 1 tU64 .none_ false fun d _ => leBytes 8 d.boot.genRuns,
   roRow 0x6010 1 1 tEnum .live false fun d _ => leBytes 2 d.well.phase.code,
   rwRow 0x6010 2 1 tBool aRW 2 true fun d _ => eBool d.settings.wellEnable,
   rwRow 0x6010 3 1 tEnum aRWS 2 true fun d _ => leBytes 2 d.live.debias,
   rwRow 0x6010 4 1 tBool aCMD 2 false fun d _ => eBool ((d.hub.commits.getD 3 none).isSome),
   roRow 0x6011 1 4 tEnum .live false fun d n => leBytes 2 (((d.well.cells[n]?).map (·.state.code)).getD 0),
   roRow 0x6012 1 1 tRec .fixed false fun _ _ => leBytes 2 41 ++ leBytes 2 793,
   roRow 0x6013 1 4 tRec .none_ false fun d n =>
     ((d.well.cells[n]?).map fun c => leBytes 1 c.trim ++ eS16 c.bias).getD [0, 0, 0],
   roRow 0x6014 1 1 tU8 .live false fun d _ => leBytes 1 (recent d.elapsedNs d.well.window).length]

/-- Ranges 7000 and 7800: determinism, tables, test (R67, R88, R137, R397; 01_croft_anatomy.md R43; R355). -/
def odTest : List OdRow :=
  [rwRow 0x7000 1 1 tBool aRWS 2 true fun d _ => eBool d.live.detEnable,
   rwRow 0x7000 2 1 tBool aCMD 1 false fun d _ => eBool ((d.hub.commits.getD 4 none).isSome),
   rwRow 0x7008 1 1 tEnum aRWS 1 true fun d _ => leBytes 2 d.live.longSum,
   { roRow 0x7010 1 5 tBlob .fixed false fun _ n => match n with
       | 0 => tableBlob expTable
       | 1 => tableBlob logisticTable
       | 2 => tableBlob log2Table
       | 3 => tableBlob gumbelTable
       | _ => tableBlob cosTable with
     size := fun _ _ => 4100 },
   roRow 0x7020 1 1 tU64 .none_ true fun d _ => leBytes 8 d.hub.ledgersSigned,
   rwRow 0x7800 1 1 tRec aCMD 2 false fun d _ => if d.test.state = .idle then [0, 0] else leBytes 1 d.test.slot ++ leBytes 1 d.test.set,
   roRow 0x7800 2 1 tEnum .live false fun d _ => leBytes 2 d.test.state.code,
   roRow 0x7801 1 80 tRec .live true fun d n =>
     let r := d.test.results.getD n (0, 0)
     leBytes 2 r.1 ++ leBytes 8 r.2,
   rwRow 0x7802 1 1 tU32 aRW 2 true fun d _ => leBytes 4 d.settings.testWaitLimit,
   { roRow 0x7804 1 80 tBlob .none_ false fun _ _ => [] with
     size := fun _ _ => 67108864
     part := fun d n off k => d.slotAt n fun t => t.viewPart off k },
   roRow 0x7810 1 80 tRec .none_ false fun d n => d.slotAt n fun t => leBytes 4 t.aged ++ leBytes 4 t.refKhz ++ leBytes 2 t.drift,
   rwRow 0x7811 1 1 tU16 aRW 2 true fun d _ => leBytes 2 d.settings.ageLimit,
   rwRow 0x7812 1 1 tU16 aRW 2 true fun d _ => leBytes 2 d.settings.replayRate]

/-- Range 8000: images and activation (15_boot_firmware_security.md R437; R355). -/
def odImages : List OdRow :=
  [roRow 0x8000 1 7 tRec .live false fun d n => d.boot.imageState n,
   { rwRow 0x8001 1 6 tBlob aWO 3 true fun d n => d.boot.slotImage (!d.boot.slotInUse n) n with
     size := fun _ n => slotSize n },
   rwRow 0x8002 1 1 tRec aCMD 3 false fun d _ => leBytes 1 (if d.boot.act = .idle then 0 else d.boot.actClass),
   roRow 0x8003 1 1 tEnum .live false fun d _ => leBytes 2 d.boot.act.code,
   roRow 0x8004 1 1 tRec .live true fun d _ =>
     let r := d.boot.result
     leBytes 1 r.1 ++ leBytes 2 r.2.1 ++ leBytes 8 r.2.2,
   rwRow 0x8005 1 1 tU32 aRW 3 true fun d _ => leBytes 4 d.settings.actWaitLimit,
   rwRow 0x8006 1 1 tRec aCMD 3 false fun d _ => leBytes 1 ((d.boot.confirm.map (·.1)).getD 0),
   rwRow 0x8010 1 1 tRec aRW 3 true fun d _ => d.boot.dremosSource,
   rwRow 0x8010 2 1 tStr aRW 3 true fun d _ => d.boot.dremosUrl,
   roRow 0x8020 1 1 tBlob .live false fun d _ => (d.boot.governing.map BootDir.bytes).getD (List.replicate 64 0)]

/-- Range 9000: keys, roles, attestation (R334, R355, R369, R437). -/
def odSecurity : List OdRow :=
  [roRow 0x9000 1 4 tRec .live false fun d n => d.fuses.keyHash n ++ eBool (d.fuses.rootRevoked.getLsbD n),
   roRow 0x9001 1 7 tU8 .live false fun d n => leBytes 1 (d.fuses.rollback.getD n 0),
   roRow 0x9002 1 1 tBool .fixed false fun d _ => eBool d.fuses.productionLock,
   roRow 0x9003 1 1 tEnum .fixed false fun d _ => leBytes 2 d.fuses.debugPolicy.toNat,
   rwRow 0x9004 1 1 tRec aCMD 3 false fun d _ => (d.boot.revoke.map (·.1)).getD (List.replicate 194 0),
   rwRow 0x9010 1 32 tRec aRW 3 true fun d n => d.settings.roleEntries.getD n (List.replicate 50 0),
   rwRow 0x9011 1 1 tEnum aRW 3 true fun d _ => leBytes 2 d.settings.mailboxRole,
   roRow 0x9020 1 1 tBlob .fixed true fun d _ => d.certChain,
   { rwRow 0x9030 1 1 tBlob aWO 0 false fun _ _ => [] with max := 1024, size := fun _ _ => 1024 },
   roRow 0x9030 2 1 tBlob .live false fun _ _ => []]

/-- QUEUE_COMMANDS, the family that spills over the indices A070 to A0B0 (R328). -/
def odQueues : List OdRow :=
  (List.range 65).map fun k =>
    let lo := if k = 0 then 1 else 0
    let count := if k = 0 then 255 else if k = 64 then 1 else 256
    roRow (0xA070 + k) lo count tU64 .none_ false fun d n =>
      leBytes 8 (d.queue (Fin.ofNat 16384 (256 * k + lo + n - 1))).commands.toNat

/-- Range A000: counters, before and after QUEUE_COMMANDS (R35, R191, R250, R298, R397, R414, R456; 07). -/
def odCounters : List OdRow :=
  [roRow 0xA010 1 80 tU64 .none_ false fun d n => d.slotAt n fun t => leBytes 8 t.cycles.toNat,
   roRow 0xA030 1 80 tRec .none_ false fun d n => d.slotAt n fun t => t.haloMax.flatMap (leBytes 4),
   roRow 0xA031 1 80 tU64 .none_ false fun d n => d.slotAt n fun t => leBytes 8 t.rollbacks,
   roRow 0xA040 1 80 tU64 .none_ false fun d n => d.slotAt n fun t => leBytes 8 t.stepsDone.toNat,
   vcRow 1 10, vcRow 12 96, vcRow 109 10,
   roRow 0xA060 1 12 tRec .none_ false fun d n =>
     let c := (d.portAt n).counters
     leBytes 8 c.sent ++ leBytes 8 c.received ++ leBytes 8 c.lost ++ leBytes 8 c.naks ++ leBytes 8 c.corrected ++ leBytes 8 c.bad
       ++ leBytes 8 c.retrains]
  ++ odQueues ++
  [roRow 0xA0C0 1 1 tRec .none_ false fun d _ =>
     let p := d.power
     leBytes 8 p.levelNs ++ leBytes 8 p.changes ++ leBytes 8 p.emergencies ++ leBytes 8 p.droops ++ leBytes 8 p.regFaults,
   roRow 0xA0D0 1 80 tRec .none_ false fun d n => d.slotAt n fun t =>
     leBytes 8 t.errors.residue ++ leBytes 8 t.errors.duplicate ++ leBytes 8 t.errors.corrected ++ leBytes 8 t.errors.poisoned
       ++ leBytes 8 t.errors.field ++ leBytes 8 t.errors.replays ++ leBytes 8 (2048 - t.rows.length),
   roRow 0xA0D1 1 36 tRec .none_ false fun d n =>
     let e := d.units.errors.getD n ⟨0, 0, 0, 0⟩
     leBytes 8 e.corrected ++ leBytes 8 e.poisoned ++ leBytes 4 e.repaired ++ leBytes 4 e.left,
   roRow 0xA0E0 1 1 tRec .none_ false fun d _ =>
     let w := d.well
     leBytes 8 w.passed ++ leBytes 8 w.failedCount ++ leBytes 8 w.delivered ++ leBytes 8 w.restarts ++ leBytes 8 w.calibrations
       ++ leBytes 8 w.refused]

/-- Ranges B000 and C000: trace and logs (R355, R392, R393, R397). -/
def odLogs : List OdRow :=
  [rwRow 0xB000 1 1 tBool aRW 2 false fun d _ => eBool (d.logs.traceOn && d.fuses.debugPolicy != 1),
   roRow 0xB000 2 1 tU64 .none_ false fun d _ => leBytes 8 d.logs.overruns,
   { roRow 0xB001 1 1 tBlob .none_ false fun _ _ => [] with
     size := fun _ _ => 32 * traceCap, part := fun d _ off k => tracePart d.logs.trace off k },
   roRow 0xB002 1 1 tBlob .fixed false fun _ _ => traceKinds,
   roRow 0xC000 1 1 tU64 .none_ true fun d _ => leBytes 8 d.logs.count,
   { roRow 0xC001 1 1 tBlob .none_ true fun _ _ => [] with
     size := fun _ _ => 8388608
     part := fun d _ off k => d.logs.part off k },
   { roRow 0xC001 2 1 tBlob .none_ true fun _ _ => [] with
     size := fun _ _ => 524288, part := fun d _ off k => d.logs.part (generalBytes + off) k },
   roRow 0xC002 1 1 tBlob .fixed false fun _ _ => eventNames]

/-- The whole dictionary, in the order of INFO's NEXT (R339). -/
def odRows : List OdRow :=
  odIdentity ++ odPower ++ odClocks ++ odFabric ++ odHub ++ odWell ++ odTest ++ odImages ++ odSecurity ++ odCounters ++ odLogs

/-! ### The flashes as a board agent reads them (15_boot_firmware_security.md R418, R420) -/

/-- The values of the persistent entries, in the order of the dictionary (R332). -/
def Dev.stored (d : Dev) : List (List Byte) :=
  (odRows.filter fun r => r.flash && r.index < 0xB000).flatMap fun r => (List.range r.count).map fun n => r.get d n

/-- A byte of a flash (R418, R420): the dictionary store of R332, whose layout is not stated (Config.storeByte), where no byte was
programmed over it; the event log, in flash 0; else as Boot.flashByte has it. -/
def Dev.flashByte (d : Dev) (flash : Fin 2) (a : Nat) : Byte :=
  if flash = 0 && decide (logBase ≤ a) && decide (a < logBase + logSize) then d.logs.byte (a - logBase)
  else
    let b := d.boot.flashByte flash a
    if decide (0x7000000 ≤ a) && decide (a < 0x8000000) && b == 0xFF then Config.storeByte flash.val d.stored (a - 0x7000000) else b

/-- Whether a row holds an address. -/
def OdRow.holds (r : OdRow) (index sub : Nat) : Bool := r.index == index && r.lo ≤ sub && sub < r.lo + r.count

/-- The row of an address (R328). -/
def odFind (index sub : Nat) : Option OdRow := odRows.find? fun r => r.holds index sub

/-- The first existing address after one (R339). -/
def odNext (index sub : Nat) : Option (Nat × Nat) :=
  (odRows.find? fun r => index < r.index || (r.index == index && sub + 1 < r.lo + r.count)).map fun r =>
    (r.index, if r.index = index then max r.lo (sub + 1) else r.lo)

/-! ## Versions (R343) -/

/-- The rows whose values change with a version. -/
def odLive : List OdRow := odRows.filter fun r => r.ver == .live

/-- The device as SHADOW reads see it (R347). -/
def Dev.shadowed (d : Dev) : Dev := { d with live := d.shadow }

/-- The keys of the values of a row that differ between two states. -/
def OdRow.changed (r : OdRow) (old new : Dev) : List Nat :=
  let keys := fun (a b : Dev) (shadow : Bool) =>
    ((List.range r.count).filter fun n => r.get a n != r.get b n).map fun n => verKey r.index (r.lo + n) shadow
  keys old new false ++ if r.access = 3 then keys old.shadowed new.shadowed true else []

/-- The versions after a command (R343): each value that differs has changed once;
`Dev.thereAndBack` has counted what one command changes and changes back. -/
def Dev.bumped (old new : Dev) : Dev :=
  { new with hub := { new.hub with versions := (odLive.flatMap fun r => r.changed old new).foldl addChange new.hub.versions } }

/-- The ENTRY_VERSION of a value (R343): 1 at power-up, up by 1 at each change, from 2^32 - 1 to 1. -/
def Dev.version (d : Dev) (r : OdRow) (sub : Nat) (shadow : Bool) : Nat :=
  match r.ver with
  | .none_ => 0
  | .fixed => 1
  | .live =>
    let k := verKey r.index sub (shadow && r.access == 3)
    (((d.hub.versions.find? fun p => p.1 == k).map (·.2)).getD 0) % (2 ^ 32 - 1) + 1

end Sys2Proof.Machine
end

