-- ==== Sys2Proof/Machine/Dictionary.lean ====
section
/-!
DEFINITION. The doors of the dictionary: Birsiler messages of sessions and the mailbox, the SMBus subset, writes of every
entry, and the staging blocks (11_object_dictionary.md R330 to R349).
-/

namespace Sys2Proof.Machine

/-! ## Messages (R335, R336, R340) -/

/-- Status codes (R340). -/
def stOk : Nat := 0
/-- NO_ENTRY. -/
def stNoEntry : Nat := 1
/-- ACCESS. -/
def stAccess : Nat := 2
/-- ROLE. -/
def stRole : Nat := 3
/-- LENGTH. -/
def stLength : Nat := 4
/-- VALUE_RANGE. -/
def stRange : Nat := 5
/-- VERSION_CONFLICT. -/
def stVersion : Nat := 6
/-- UNAVAILABLE. -/
def stUnavailable : Nat := 7
/-- BUSY. -/
def stBusy : Nat := 8
/-- FORMAT. -/
def stFormat : Nat := 9
/-- OFFSET. -/
def stOffset : Nat := 0xA

/-- KIND of a message. -/
def msgKind (m : List Byte) : Nat := leAt m 1 1

/-- INDEX of a message. -/
def msgIndex (m : List Byte) : Nat := leAt m 8 2

/-- SUBINDEX of a message. -/
def msgSub (m : List Byte) : Nat := leAt m 0xA 1

/-- OFFSET of a message. -/
def msgOffset (m : List Byte) : Nat := leAt m 0xC 4

/-- COUNT of a message. -/
def msgCount (m : List Byte) : Nat := leAt m 0x10 2

/-- FLAGS.SHADOW of a message. -/
def msgShadow (m : List Byte) : Bool := bitOf (leAt m 3 1) 0

/-- FLAGS.NEXT of a message. -/
def msgNext (m : List Byte) : Bool := bitOf (leAt m 3 1) 1

/-- A malformed header, or a reserved field or flag that is set (R336, R340). -/
def formatBad (m : List Byte) : Bool :=
  decide (m.length < 32) || leAt m 0 1 != 1 || !([1, 2, 3] : List Nat).contains (msgKind m) || leAt m 2 1 != 0
    || decide (4 ≤ leAt m 3 1) || (msgNext m && msgKind m != 3) || leAt m 0xB 1 != 0 || leAt m 0x12 2 != 0
    || decide (1024 < msgCount m) || leAt m 0x18 8 != 0 || m.length != 32 + (if msgKind m = 2 then msgCount m else 0)

/-- What a request comes to: the device after it, its status, the address and version it names, and the bytes it
carries. -/
structure Answer where
  dev     : Dev
  status  : Nat
  index   : Nat
  sub     : Nat
  version : Nat
  data    : List Byte

/-- The reply to a request (R336). FLAGS are those of the request. -/
def replyBytes (m : List Byte) (a : Answer) : List Byte :=
  leBytes 1 1 ++ leBytes 1 (msgKind m ||| 0x80) ++ leBytes 1 a.status ++ slice m 3 1 ++ slice m 4 4 ++ leBytes 2 a.index
    ++ leBytes 1 a.sub ++ [0] ++ slice m 0xC 4 ++ leBytes 2 a.data.length ++ leBytes 2 0 ++ leBytes 4 a.version
    ++ leBytes 8 a.dev.now ++ a.data

/-! ## Doors and roles (R331, R334, R345) -/

/-- The role of a door, while the door is open (R334, R345). -/
def Dev.doorRole (d : Dev) : Door → Option Nat
  | .session k => (d.hub.sessions.getD k.val none).map fun s => (roleOf (d.settings.roleEntries.getD s.entry [])).2
  | .mailbox => if d.owned then some d.settings.mailboxRole else some 3

/-! ## Where an entry cannot be reached (R43, R344) -/

/-- Entries that answer reads in Standby (R344). -/
def standbyReads (r : OdRow) : Bool :=
  let i := r.index
  r.flash || (0x1000 ≤ i && i < 0x3000) || (0x8000 ≤ i && i < 0xA000) || (0xC000 ≤ i)

/-- Entries that answer writes in Standby: flash RW entries (R344), and POWER_REQUEST, which leaves Standby (R443,
log 35). -/
def standbyWrites (r : OdRow) : Bool := (r.flash && r.access == 1) || r.index == 0x2031

/-- Whether a slot's Granary may not be viewed (R43). -/
def Dev.viewClosed (d : Dev) (n : Nat) : Bool :=
  match d.slots[n]? with
  | some t => t.island == .off || (d.carried (Fin.ofNat 80 n)).isSome || (d.test.state == .running && d.test.slot == n)
  | none => true

/-- UNAVAILABLE (R340). -/
def Dev.unavailable (d : Dev) (r : OdRow) (sub : Nat) (write : Bool) : Bool :=
  (!d.power.main && !(if write then standbyWrites r else standbyReads r)) || (r.index == 0x7804 && d.viewClosed (sub - 1))

/-! ## Staging (R347 to R349) -/

/-- The blocks by their code in COMMIT_APPLIED (R348). -/
def blockCode : Block → Nat
  | .management => 0 | .fabric => 1 | .ethernet => 2 | .well => 3 | .determinism => 4

/-- The committed set with the members of a block taken from another set (R348, R349). -/
def Staged.take (b : Block) (old new : Staged) : Staged :=
  match b with
  | .management => { old with mgmtAddr := new.mgmtAddr }
  | .fabric => { old with topology := new.topology, fabricAddr := new.fabricAddr, coord := new.coord, dims := new.dims }
  | .ethernet => { old with ethMode := new.ethMode }
  | .well => { old with debias := new.debias }
  | .determinism => { old with detEnable := new.detEnable, longSum := new.longSum }

/-- The members of a block that differ between two sets, each by index and subindex (R349). -/
def Staged.differ (b : Block) (x y : Staged) : List (Nat × Nat) :=
  let on := fun (c : Bool) (p : Nat × Nat) => if c then [p] else []
  match b with
  | .management => on (x.mgmtAddr != y.mgmtAddr) (0x1020, 1)
  | .fabric =>
    on (x.topology != y.topology) (0x4800, 1) ++ on (x.fabricAddr != y.fabricAddr) (0x4800, 2)
      ++ on (x.coord != y.coord) (0x4800, 3) ++ on (x.dims != y.dims) (0x4800, 4)
  | .ethernet => (List.range 4).flatMap fun p => on (x.ethMode.getD p 0 != y.ethMode.getD p 0) (0x5040, p + 1)
  | .well => on (x.debias != y.debias) (0x6010, 3)
  | .determinism => on (x.detEnable != y.detEnable) (0x7000, 1) ++ on (x.longSum != y.longSum) (0x7008, 1)

/-- A COMMIT entry written with 1 (R348): the shadow set becomes the pending set. -/
def Dev.commitBlock (d : Dev) (b : Block) : Dev :=
  { d with hub := { d.hub with commits := d.hub.commits.set (blockCode b) (some d.shadow) } }

/-- DETAIL64 of COMMIT_APPLIED (R348). -/
def commitDetail (b : Block) (member : Nat × Nat) : Word64 :=
  BitVec.ofNat 64 ((blockCode b) * 2 ^ 56 + member.1 * 2 ^ 16 + member.2 * 2 ^ 8)

/-- The events of an applied commit: one for each member that changed, or one without (R348). -/
def Dev.logCommit (d : Dev) (b : Block) (members : List (Nat × Nat)) : Dev :=
  (if members.isEmpty then [(0, 0)] else members).foldl (fun d m => d.event 0xE050 0 0 0 (commitDetail b m)) d

/-- An Ethernet port whose mode changes: it goes down and its rings are disabled (R349). -/
def EthPort.remode (e : EthPort) : EthPort :=
  { link := 0, tx := e.tx.map fun q => { q with enable := false }, rx := e.rx.map fun q => { q with enable := false }
    pfc := List.replicate 16 0 }

/-- A port told to retrain (09_fohal_scale_out.md R265, R298): one that is UP goes to RETRAIN, one that trains begins again. -/
def Dev.trainAgain (d : Dev) (p : Nat) : Dev :=
  match (d.portAt p).state with
  | .up => d.retrain p
  | .train | .measure | .exchange => d.onPort p fun q => { q with state := .train }
  | .down | .detect | .retrain => d

/-- What applying a block does beside its values (R298, R349). With the fabric block every port retrains, and the partners are held
against the new coordinates (09_fohal_scale_out.md R271). -/
def Dev.afterCommit (d : Dev) (b : Block) (members : List (Nat × Nat)) : Dev :=
  match b with
  | .management => (List.range 16).foldl Dev.closeSession d
  | .fabric =>
    let d := (List.range 12).foldl (fun d p => (d.trainAgain p).checkNeighbour p) d
    if members.isEmpty then d else d.flood []
  | .ethernet => members.foldl (fun d m => d.onEth (m.2 - 1) EthPort.remode) d
  | _ => d

/-- COMMIT_APPLIED (R348, R349): at the safe boundary the pending set replaces the committed values. That of the fabric
block is the next moment without an open job; the others stand between any two commands of the model. Without power nothing is
applied: the pending sets are gone. -/
def Dev.commitApplied (b : Block) (d : Dev) : Dev :=
  match d.hub.commits.getD (blockCode b) none with
  | none => d
  | some p =>
    if (b == .fabric && !d.noJob) || !d.power.aux || d.pins.resetIn then d
    else
      let members := d.live.differ b p
      let d : Dev := { d with live := d.live.take b p, hub := { d.hub with commits := d.hub.commits.set (blockCode b) none } }
      (d.logCommit b members).afterCommit b members

/-! ## Writes (R338) -/

/-- The device with its settings mapped. -/
def Dev.onSettings (d : Dev) (f : Settings → Settings) : Dev := { d with settings := f d.settings }

/-- The device with its shadow set mapped. -/
def Dev.onShadow (d : Dev) (f : Staged → Staged) : Dev := { d with shadow := f d.shadow }

/-- A value held to a range. -/
def ranged (v lo hi : Nat) (d : Dev) : Except Nat Dev := if lo ≤ v && v ≤ hi then .ok d else .error stRange

/-- The largest value of U32. -/
def maxU32 : Nat := 2 ^ 32 - 1

/-- POWER_LIMIT written (16_power_clocks_thermal.md R445): 1,000 W up to the grade's limit, in force at the next
evaluation, or when an emergency clears. -/
def Dev.powerLimit (w : Nat) (d : Dev) : Except Nat Dev :=
  ranged w 1000 (if d.fuses.grade = 2 then 2500 else 3000) (d.onPower fun p =>
    if d.emergency then { p with clearLimit := some w } else { p with nextLimit := some w })

/-- PORT_ENABLE written: a port that is not enabled stays in DOWN (09_fohal_scale_out.md R265). -/
def Dev.portEnable (p : Nat) (on : Bool) (d : Dev) : Dev :=
  let d := d.onSettings fun s => { s with portEnable := s.portEnable.set p on }
  if on then d else d.dropPort p .closed

/-- A whole value written to an RWS entry's shadow (R347). -/
def Dev.writeShadow (index sub v : Nat) (bytes : List Byte) (d : Dev) : Except Nat Dev :=
  let three := (leAt bytes 0 1, leAt bytes 1 1, leAt bytes 2 1)
  match index, sub with
  | 0x1020, _ => ranged (leAt bytes 16 1) 0 128 (d.onShadow fun s => { s with mgmtAddr := bytes })
  | 0x4800, 1 => ranged v 0 1 (d.onShadow fun s => { s with topology := v })
  | 0x4800, 2 => ranged v 0 0x7FFF (d.onShadow fun s => { s with fabricAddr := v })
  | 0x4800, 3 => .ok (d.onShadow fun s => { s with coord := three })
  | 0x4800, _ => .ok (d.onShadow fun s => { s with dims := three })
  | 0x5040, p => ranged v 0 2 (d.onShadow fun s => { s with ethMode := s.ethMode.set (p - 1) v })
  | 0x6010, _ => ranged v 0 1 (d.onShadow fun s => { s with debias := v })
  | 0x7000, _ => ranged v 0 1 (d.onShadow fun s => { s with detEnable := v == 1 })
  | _, _ => ranged v 0 1 (d.onShadow fun s => { s with longSum := v })

/-- The block of a COMMIT entry (R349). -/
def blockOf (index : Nat) : Block :=
  match index with
  | 0x1020 => .management
  | 0x4800 => .fabric
  | 0x5042 => .ethernet
  | 0x6010 => .well
  | _ => .determinism

/-- Whether an address is a COMMIT entry (R349). -/
def isCommit (index sub : Nat) : Bool :=
  ([(0x1020, 2), (0x4800, 5), (0x5042, 1), (0x6010, 4), (0x7000, 2)] : List (Nat × Nat)).contains (index, sub)

/-- A run of fuse bits that blows whole. -/
def wholeRun : FuseRun := ⟨64, false⟩

/-- A CMD entry written (R330, R349, R388, R424, R425, R431, R443). -/
def Dev.writeCommand (index sub v : Nat) (bytes : List Byte) (run : FuseRun) (d : Dev) : Except Nat Dev :=
  if isCommit index sub then ranged v 1 1 (d.commitBlock (blockOf index))
  else match index with
    | 0x2031 => d.powerRequest v
    | 0x7800 => d.testRequest (leAt bytes 0 1) (leAt bytes 1 1)
    | 0x8002 => d.activate v
    | 0x8006 => d.confirm v run
    | _ => d.revokeKey bytes run

/-- An RW entry written with its whole value. Under DEBUG_POLICY COUNTERS_ONLY no value of TRACE_ENABLE is accepted
(15_boot_firmware_security.md R435). -/
def Dev.writeValue (index sub v : Nat) (bytes : List Byte) (d : Dev) : Except Nat Dev :=
  match index, sub with
  | 0x2010, _ => d.powerLimit v
  | 0x3004, _ =>
    ranged v 0 1 { d.onSettings fun s => { s with ppsOutEnable := v == 1 } with pins := { d.pins with ppsOut := d.pins.ppsOut && v == 1 } }
  | 0x4002, _ => .ok (d.onSettings fun s => { s with meshAckLimit := v })
  | 0x4801, p => ranged v 0 1 (d.portEnable (p - 1) (v == 1))
  | 0x4840, _ => .ok (d.onSettings fun s => { s with collStepLimit := v })
  | 0x5012, _ => .ok (d.onSettings fun s => { s with syncWaitLimit := v })
  | 0x5030, _ => .ok (d.onSettings fun s => { s with haloTimeout := v })
  | 0x6010, _ => ranged v 0 1 (d.wellEnableWrite (v == 1))
  | 0x7802, _ => .ok (d.onSettings fun s => { s with testWaitLimit := v })
  | 0x7811, _ => ranged v 100 500 (d.onSettings fun s => { s with ageLimit := v })
  | 0x7812, _ => ranged v 1 1000 (d.onSettings fun s => { s with replayRate := v })
  | 0x8005, _ => .ok (d.onSettings fun s => { s with actWaitLimit := v })
  | 0x8010, 1 => ranged (leAt bytes 0 2) 0 1 { d with boot := { d.boot with dremosSource := bytes } }
  | 0x8010, _ => .ok { d with boot := { d.boot with dremosUrl := bytes } }
  | 0x9010, p => ranged (leAt bytes 48 2) 0 3 (d.onSettings fun s => { s with roleEntries := s.roleEntries.set (p - 1) bytes })
  | 0x9011, _ => ranged v 0 3 (d.onSettings fun s => { s with mailboxRole := v })
  | _, _ =>
    if d.fuses.debugPolicy = 1 then .error stRange else ranged v 0 1 { d with logs := { d.logs with traceOn := v == 1 } }

/-- Whether a write breaks R338: an offset that is not 0, a size that differs, or a range beyond the entry. An SPDM
request is written whole (12_determinism_and_ledger.md R369). -/
def OdRow.lengthBad (r : OdRow) (size off count : Nat) : Bool :=
  if r.type = 12 then off != 0 || decide (255 < count)
  else if r.index = 0x9030 then off != 0 || decide (1024 < count)
  else if r.type = 13 ∨ r.type = 15 then off % Nat.max 1 r.elem != 0 || count % Nat.max 1 r.elem != 0 || decide (size < off + count)
  else off != 0 || count != size

/-- A write of an entry that is in its place: the device after it, or the status that refuses it. -/
def Dev.writeEntry (door : Door) (r : OdRow) (sub off : Nat) (bytes : List Byte) (run : FuseRun) (d : Dev) : Except Nat Dev :=
  let v := leNat bytes
  match r.access with
  | 2 => if r.index = 0x9030 then .ok (d.spdmRequest door bytes) else d.imageStage (sub - 1) off bytes
  | 3 => d.writeShadow r.index sub v bytes
  | 4 => d.writeCommand r.index sub v bytes run
  | _ => d.writeValue r.index sub v bytes

/-! ## Requests (R337 to R340) -/

/-- The refusal of a request. -/
def refuseWith (d : Dev) (m : List Byte) (status version : Nat) : Answer := ⟨d, status, msgIndex m, msgSub m, version, []⟩

/-- The size of the value that a door reads. SPDM_RESPONSE is each door's own (R369). -/
def Dev.sizeFor (d : Dev) (door : Door) (r : OdRow) (n : Nat) : Nat :=
  if r.index = 0x9030 ∧ r.lo = 2 then ((d.spdm door).map fun s => s.response.length).getD 0 else r.size d n

/-- A part of the value that a door reads. -/
def Dev.partFor (d : Dev) (door : Door) (r : OdRow) (n off k : Nat) : List Byte :=
  if r.index = 0x9030 ∧ r.lo = 2 then slice (((d.spdm door).map (·.response)).getD []) off k else r.part d n off k

/-- The version that a door sees. -/
def Dev.versionFor (d : Dev) (door : Door) (r : OdRow) (sub : Nat) (shadow : Bool) : Nat :=
  if r.index = 0x9030 ∧ r.lo = 2 then ((d.spdm door).map fun s => s.changes % (2 ^ 32 - 1) + 1).getD 1 else d.version r sub shadow

/-- READ (R337). -/
def Dev.answerRead (d : Dev) (door : Door) (role : Nat) (r : OdRow) (m : List Byte) : Answer :=
  let sub := msgSub m
  let n := sub - r.lo
  let shadow := msgShadow m && r.access == 3
  let e := if shadow then d.shadowed else d
  let size := e.sizeFor door r n
  let off := msgOffset m
  let version := d.versionFor door r sub shadow
  if r.access = 2 then refuseWith d m stAccess version
  else if r.index = 0x7804 ∧ role < 2 then refuseWith d m stRole version
  else if d.unavailable r sub false then refuseWith d m stUnavailable version
  else if size < off then refuseWith d m stOffset version
  else ⟨d, stOk, msgIndex m, sub, version, e.partFor door r n off (min (msgCount m) (size - off))⟩

/-- WRITE (R338). -/
def Dev.answerWrite (d : Dev) (door : Door) (role : Nat) (run : FuseRun) (r : OdRow) (m : List Byte) : Answer :=
  let sub := msgSub m
  let version := d.versionFor door r sub true
  let expected := leAt m 0x14 4
  let conflict := expected != 0 && expected != version
  if r.access = 0 then refuseWith d m stAccess version
  else if role < r.role then refuseWith d m stRole version
  else if d.unavailable r sub true then refuseWith d m stUnavailable version
  else if r.lengthBad (r.size d (sub - r.lo)) (msgOffset m) (msgCount m) then refuseWith d m stLength version
  else match d.writeEntry door r sub (msgOffset m) (m.drop 32) run with
    | .error code => refuseWith d m (if code = stBusy ∧ conflict then stVersion else code) version
    | .ok new =>
      if conflict then refuseWith d m stVersion version
      else
        let new := d.bumped new
        ⟨new, stOk, msgIndex m, sub, new.versionFor door r sub true, []⟩

/-- The descriptor of an entry (R339). -/
def Dev.descriptor (d : Dev) (door : Door) (r : OdRow) (n : Nat) : List Byte :=
  let size := d.sizeFor door r n
  leBytes 1 r.type ++ leBytes 1 r.access ++ leBytes 1 r.role ++ leBytes 1 r.flash.toNat ++ leBytes 2 r.elem ++ leBytes 2 0
    ++ leBytes 4 size ++ leBytes 4 (if r.max = 0 then size else r.max)

/-- INFO (R339). -/
def Dev.answerInfo (d : Dev) (door : Door) (m : List Byte) : Answer :=
  let a := if msgNext m then odNext (msgIndex m) (msgSub m) else some (msgIndex m, msgSub m)
  match a with
  | none => refuseWith d m stNoEntry 0
  | some (i, s) => match odFind i s with
    | none => refuseWith d m stNoEntry 0
    | some r => ⟨d, stOk, i, s, d.versionFor door r s (msgShadow m), d.descriptor door r (s - r.lo)⟩

/-- A request executed (R340, R341). -/
def Dev.answer (d : Dev) (door : Door) (role : Nat) (run : FuseRun) (m : List Byte) : Answer :=
  if formatBad m then refuseWith d m stFormat 0
  else if msgKind m = 3 then d.answerInfo door m
  else match odFind (msgIndex m) (msgSub m) with
    | none => refuseWith d m stNoEntry 0
    | some r => if msgKind m = 1 then d.answerRead door role r m else d.answerWrite door role run r m

/-! ## Replies (R334, R342, R345) -/

/-- How long replies are kept, in ns (R342). -/
def keptNs : Nat := 10000000000

/-- The replies kept for a door (R342). -/
def Dev.kept (d : Dev) : Door → List Kept
  | .session k => ((d.hub.sessions.getD k.val none).map (·.kept)).getD []
  | .mailbox => d.hub.mailbox.kept

/-- The reply kept for a REQ_ID, while it is not older than 10 s (R342). -/
def Dev.keptReply (d : Dev) (door : Door) (id : Word32) : Option (List Byte) :=
  ((d.kept door).find? fun k => k.id == id && decide (d.elapsedNs < k.made + keptNs)).map (·.bytes)

/-- A list of kept replies with one more: the 64 most recent REQ_ID values (R342). -/
def keepReply (l : List Kept) (k : Kept) : List Kept := lastOf 64 ((l.filter fun x => x.id != k.id) ++ [k])

/-- The REPLY buffer filled and the mailbox done, with its interrupt (R345). -/
def Dev.mailboxReply (d : Dev) (bytes : List Byte) : Dev :=
  let b := d.hub.mailbox
  let d : Dev := { d with hub := { d.hub with mailbox := { b with
    busy := false, done := true, replyLen := bytes.length
    reply := bytes ++ b.reply.drop bytes.length } } }
  if b.irqEn then d.interrupt b.irqVector else d

/-- A reply delivered at its door. -/
def Dev.deliver (d : Dev) (door : Door) (bytes : List Byte) : Dev :=
  match door with
  | .session _ => d.send (.reply door bytes)
  | .mailbox => d.mailboxReply bytes

/-- A reply kept (R342). -/
def Dev.keep (d : Dev) (door : Door) (k : Kept) : Dev :=
  match door with
  | .session i =>
    { d with hub := { d.hub with sessions := modifyAt d.hub.sessions i.val (Option.map fun s => { s with kept := keepReply s.kept k }) } }
  | .mailbox => { d with hub := { d.hub with mailbox := { d.hub.mailbox with kept := keepReply d.hub.mailbox.kept k } } }

/-- The time of a session's last request (R333). -/
def Dev.touch (d : Dev) (door : Door) : Dev :=
  match door with
  | .session i =>
    { d with hub := { d.hub with sessions := modifyAt d.hub.sessions i.val (Option.map fun s => { s with used := d.elapsedNs }) } }
  | .mailbox => d

/-- The sessions whose ROLE_ENTRY a write changed or cleared, closed after the answer (R334). -/
def Dev.dropChanged (old new : Dev) : Dev :=
  (List.range 16).foldl (fun d k => match d.hub.sessions.getD k none with
    | some s => if old.settings.roleEntries.getD s.entry [] == d.settings.roleEntries.getD s.entry [] then d else d.closeSession k
    | none => d) new

/-- The request that was submitted to the mailbox (R345). -/
def Mailbox.submitted (b : Mailbox) : List Byte := b.request.take b.reqLen.toNat

/-- Whether a door takes a request now: Watch runs, the session is open, or the mailbox holds this request. -/
def Dev.takes (d : Dev) (door : Door) (m : List Byte) : Bool :=
  d.power.aux && !d.pins.resetIn && 2 ≤ d.boot.step && match door with
    | .session k => (d.hub.sessions.getD k.val none).isSome && d.hub.mgmtLink
    | .mailbox => d.power.main && d.hub.mailbox.busy && m == d.hub.mailbox.submitted

/-- A Birsiler request served at a door (R341, R342): executed, unless its REQ_ID has a kept reply. -/
def Dev.serve (door : Door) (m : List Byte) (run : FuseRun) (d : Dev) : Dev :=
  if !d.takes door m then d
  else
    let id := BitVec.ofNat 32 (leAt m 4 4)
    match d.keptReply door id, d.doorRole door with
    | some bytes, _ => (d.touch door).deliver door bytes
    | none, none => d
    | none, some role =>
      let a := d.answer door role run m
      let bytes := replyBytes m a
      let e := ((a.dev.touch door).keep door ⟨id, d.elapsedNs, bytes⟩).deliver door bytes
      d.dropChanged e

/-- A row of the table that is one kind of WRITE: it acts on a message that addresses its entries. -/
def Dev.serveAt (mine : Nat → Nat → List Byte → Bool) (door : Door) (m : List Byte) (run : FuseRun) (d : Dev) : Dev :=
  if msgKind m = 2 ∧ mine (msgIndex m) (msgSub m) (m.drop 32) then d.serve door m run else d

/-- An SPDM request of a door whose code is a row's, written to SPDM_REQUEST (12_determinism_and_ledger.md R369). -/
def Dev.serveSpdm (mine : Nat → Bool) (door : Door) (req : List Byte) (d : Dev) : Dev :=
  let open_ := d.power.aux && d.power.main && !d.pins.resetIn && 2 ≤ d.boot.step && (d.doorRole door).isSome
  if !open_ || 1024 < req.length || !mine (spdmCode req) then d else (d.spdmRequest door req).touch door

/-! ## The local mailbox (R345) -/

/-- MB_CONTROL written: DONE and IRQ_EN, then GO (R345). A length outside 32..1,056 gives a FORMAT reply. -/
def Dev.writeMbControl (v : Word32) (d : Dev) : Dev :=
  let b := d.hub.mailbox
  let c : Mailbox := { b with irqEn := v.getLsbD 3, done := b.done && !v.getLsbD 2 }
  let d : Dev := { d with hub := { d.hub with mailbox := c } }
  if !v.getLsbD 0 || b.busy then d
  else
    let d : Dev := { d with hub := { d.hub with mailbox := { c with busy := true } } }
    let n := c.reqLen.toNat
    if n < 32 ∨ 1056 < n then d.mailboxReply (replyBytes (c.request.take 32) (refuseWith d (c.request.take 32) stFormat 0)) else d

/-- MAILBOX_GO (R345). -/
def Dev.mailboxGo (v : Word32) (d : Dev) : Dev := if v.getLsbD 0 && d.power.main then d.writeMbControl v else d

/-- MAILBOX_DONE_CLEAR (R345). -/
def Dev.mailboxDoneClear (v : Word32) (d : Dev) : Dev := if v.getLsbD 2 && !v.getLsbD 0 && d.power.main then d.writeMbControl v else d

/-! ## SMBus (R346) -/

/-- The entries of the SMBus subset. -/
def smbusSubset : List (Nat × Nat) :=
  [(0x1000, 1), (0x1000, 2), (0x1000, 3), (0x1000, 5), (0x2000, 1), (0x2000, 2), (0x2010, 1), (0x2030, 1), (0x2801, 1),
   (0x6010, 1), (0xC000, 1)]

/-- The STATUS and value bytes of an SMBus read. -/
def Dev.smbusAnswer (d : Dev) (index sub off count : Nat) (pecGood : Bool) : Nat × List Byte :=
  if !pecGood || count = 0 || 32 < count then (stFormat, [])
  else match odFind index sub with
    | none => (stNoEntry, [])
    | some r =>
      let size := r.size d (sub - r.lo)
      if r.access = 2 then (stAccess, [])
      else if !smbusSubset.contains (index, sub) then (stRole, [])
      else if d.unavailable r sub false then (stUnavailable, [])
      else if size < off then (stOffset, [])
      else (stOk, r.part d (sub - r.lo) off (min count (size - off)))

/-- SMBUS_READ (R346): served from auxiliary power while Watch runs, at the address 0x58 plus the straps. No other address is
answered. -/
def Dev.smbusRead (addr : BitVec 7) (index : BitVec 16) (sub : Byte) (off : BitVec 16) (count : Byte) (pecGood : Bool) (d : Dev) : Dev :=
  if !d.power.aux || d.pins.resetIn || d.boot.step < 2 || addr.toNat != 0x58 + d.pins.straps.val then d
  else
    let a := d.smbusAnswer index.toNat sub.toNat off.toNat count.toNat pecGood
    d.send (.smbus (some (leBytes 1 a.1 ++ a.2)))

/-! ## The minute of corrected events (13_checking_replay_test.md R393, R395) -/

/-- The record of an aggregate. What DETAIL means is stated for CORRECTED alone; for every other event it is free
(log 19). -/
def Dev.writeAggregate (d : Dev) (a : Aggregate) : Dev :=
  let detail := if a.event = 0xE00A then a.detail else d.draw.1.toNat
  let d := if a.event = 0xE00A then d else d.draw.2
  { d with logs := d.logs.write a.first a.event 1 a.kind a.source (BitVec.ofNat 64 (min a.count (2 ^ 32 - 1) + detail % 2 ^ 32 * 2 ^ 32)) }

/-- EVENT_AGGREGATE_FLUSH (R395): the end of a minute of elapsed time, which passes until then when something was gathered in the
minute in progress; the records of every minute that has ended are written. Nothing is written while the device is held in reset or is
Off. -/
def Dev.eventAggregateFlush (d : Dev) : Dev :=
  if d.pins.resetIn || !d.power.aux then d
  else
    let minute := d.elapsedNs / minuteNs
    let d := if d.logs.aggregates.any fun a => a.minute == minute then
        d.pass ((minute + 1) * minuteNs * unitsPerNs - d.time.elapsed) else d
    let l := d.logs.aggregates
    l.foldl Dev.writeAggregate { d with logs := { d.logs with aggregates := [] } }

end Sys2Proof.Machine
end

