-- ==== Sys2Proof/Machine/Mmio.lean ====
section
/-!
DEFINITION. Stores to hub MMIO, and what loads of it return (10_queues_and_hub.md R303, R304, R308, R324, R326; 11_object_dictionary.md R345, R352).
-/

namespace Sys2Proof.Machine

/-- A store to an address or of a width that nothing takes: MEM_UNMAPPED (R303). -/
def Dev.unmapped (d : Dev) : Dev := d.faultEvent 0x0602 none 0

/-- A register's store: its own width, or MEM_UNMAPPED (R303). -/
def Dev.ofWidth (d : Dev) (ok : Bool) (f : Dev → Dev) : Dev := if ok then f d else d.unmapped

/-- A store to a queue control block (R304, R306). The reserved bytes take no store. -/
def Dev.writeQcb (q : Fin 16384) (off : Nat) (wide : Bool) (v : Word64) (d : Dev) : Dev :=
  let u := d.queue q
  let w := v.setWidth 32
  match off with
  | 0x00 => d.ofWidth wide fun d => if u.enable then d else d.setQueue q { u with sqBase := v }
  | 0x08 => d.ofWidth wide fun d => if u.enable then d else d.setQueue q { u with cqBase := v }
  | 0x10 => d.ofWidth (!wide) fun d => d.writeConfig q w
  | 0x24 => d.ofWidth (!wide) fun d => if u.enable then d else d.setQueue q { u with irqVector := w &&& irqVectorMask }
  | 0x04 | 0x0C => d.unmapped
  | _ => if off < 0x2C then d.ofWidth (!wide) id else d

/-- A store to a doorbell page (R308). -/
def Dev.writeDoorbell (q : Fin 16384) (off : Nat) (wide : Bool) (v : Word64) (d : Dev) : Dev :=
  match off with
  | 0x000 => d.ofWidth (!wide) fun d => d.submissionDoorbell q (v.setWidth 32)
  | 0x008 => d.ofWidth (!wide) fun d => d.completionDoorbell q (v.setWidth 32)
  | _ => d

/-- A store to a ring register set (R324). Base and size hold while the ring is enabled (log 36). -/
def Dev.writeRing (p : Nat) (tx : Bool) (r off : Nat) (wide : Bool) (v : Word64) (d : Dev) : Dev :=
  let w := v.setWidth 32
  let q := d.ring p tx r
  match off with
  | 0x00 => d.ofWidth wide fun d => if q.enable then d else d.onRing p tx r fun q => { q with base := v }
  | 0x04 => d.unmapped
  | 0x08 => d.ofWidth (!wide) fun d => if q.enable then d else d.onRing p tx r fun q => { q with sizeLog2 := w }
  | 0x0C => d.ofWidth (!wide) id
  | 0x10 => d.ofWidth (!wide) fun d => d.ethTailWrite p tx r w
  | 0x14 => d.ofWidth (!wide) fun d => d.writeRingControl p tx r w.toNat
  | 0x18 => d.ofWidth (!wide) fun d => d.onRing p tx r fun q => { q with irqVector := w &&& irqVectorMask }
  | _ => d

/-- A store to an Ethernet port's block: 64 transmit and 64 receive ring sets of 32 bytes (R324). -/
def Dev.writeEthPort (p off : Nat) (wide : Bool) (v : Word64) (d : Dev) : Dev :=
  if 0x10000 ≤ off && off < 0x10800 then d.writeRing p true ((off - 0x10000) / 32) (off % 32) wide v
  else if 0x20000 ≤ off && off < 0x20800 then d.writeRing p false ((off - 0x20000) / 32) (off % 32) wide v
  else d

/-- A store to the root port's registers (R326): the base or the limit of an inbound window. -/
def Dev.writePcie (off : Nat) (wide : Bool) (v : Word64) (d : Dev) : Dev :=
  match Config.pcieWindowAt off with
  | none => d
  | some w => d.ofWidth wide fun d =>
    let set := fun (x : Word64 × Word64) => if w.2 then (x.1, v) else (v, x.2)
    { d with hub := { d.hub with pcie := { d.hub.pcie with windows := modifyAt d.hub.pcie.windows w.1.val set } } }

/-- A store to the mailbox (R345). -/
def Dev.writeMailbox (off : Nat) (wide : Bool) (v : Word64) (d : Dev) : Dev :=
  let w := v.setWidth 32
  let b := d.hub.mailbox
  let put := fun (d : Dev) (b : Mailbox) => { d with hub := { d.hub with mailbox := b } }
  if 0x1000 ≤ off && off + (if wide then 8 else 4) ≤ 0x1000 + 1056 then
    if b.busy then d
    else put d { b with request := spliceBytes b.request (off - 0x1000) (leBytes (if wide then 8 else 4) v.toNat) }
  else match off with
    | 0x0000 => d.ofWidth (!wide) fun d => d.writeMbControl w
    | 0x0004 => d.ofWidth (!wide) fun d => if b.busy then d else put d { b with reqLen := w }
    | 0x0008 | 0x0010 => d.ofWidth (!wide) id
    | 0x000C => d.ofWidth (!wide) fun d => put d { b with irqVector := w &&& irqVectorMask }
    | _ => d

/-- The base of hub MMIO (R303). -/
def mmioBase : Nat := 0x50000000000

/-- Whether an offset of hub MMIO lies in configuration space or in the memory window, which leave through the root port (R303, R325). -/
def behindRoot (off : Nat) : Bool := (0x40000000 ≤ off && off < 0x50000000) || (0x80000000 ≤ off && off < 0x100000000)

/-- A store to a register of hub MMIO, of 8 bytes or of 4 (R303). The identity mirror takes none (R352). -/
def Dev.writeMmio (off : Nat) (wide : Bool) (v : Word64) (d : Dev) : Dev :=
  if off < 0x10000 then d
  else if 0x100000 ≤ off && off < 0x200000 then d.writeQcb (Fin.ofNat 16384 ((off - 0x100000) / 64)) (off % 64) wide v
  else if 0x1000000 ≤ off && off < 0x5000000 then d.writeDoorbell (Fin.ofNat 16384 ((off - 0x1000000) / 4096)) (off % 4096) wide v
  else if 0x10000000 ≤ off && off < 0x10100000 then d.writeEthPort ((off - 0x10000000) / 0x40000) (off % 0x40000) wide v
  else if 0x11000000 ≤ off && off < 0x11001000 then d.writePcie (off % 4096) wide v
  else if 0x20000000 ≤ off && off < 0x20020000 then
    d.ofWidth (!wide) fun d => d.writeIrq (mmioBase + off) (v.setWidth 32).toNat
  else if 0x30000000 ≤ off && off < 0x30010000 then d.writeMailbox (off % 0x10000) wide v
  else d.unmapped

/-- REGISTER_WRITE (R302, R303): a naturally aligned store of an application core, of 1, 2, 4 or 8 bytes. One to device memory writes
it, under the range rules of R253. A register takes its own width; configuration space and the memory window, which are no registers,
take any (R325). -/
def Dev.registerWrite (addr : Word64) (size : Fin 4) (v : Word64) (d : Dev) : Dev :=
  let a := addr.toNat
  let n := 2 ^ size.val
  let bytes := leBytes n v.toNat
  if !d.power.main then d
  else if a % n ≠ 0 then d.unmapped
  else if mmioBase ≤ a && a < mmioBase + 2 ^ 32 then
    if behindRoot (a - mmioBase) then
      if d.hub.pcie.rate == 0 then d else d.send (.pcieWrite a bytes)
    else if size.val < 2 then d.unmapped
    else d.writeMmio (a - mmioBase) (size == 3) v
  else match lowest (d.hubRange a n) with
    | some code => d.faultEvent code none 0
    | none => d.write a bytes

/-! ## Loads (R303)

The opcode table has no row for a load: a load of the device's own state changes nothing. What one returns is a view of the state. -/

/-- What a load returns: a value; a fault, with its code; a value the model does not hold, which is that of the root port's block
outside its windows; or what the partner of the root port answers to the request that the load sends it (R303, R325). -/
inductive Load where
  | value (v : Nat)
  | fault (code : Nat)
  | outside
  | request (m : Sent)
deriving DecidableEq, Repr

/-- The load that nothing answers (R303). -/
def Load.unmapped : Load := .fault 0x0602

/-- A register's load: its own width, or MEM_UNMAPPED (R303). -/
def loadOf (ok : Bool) (v : Nat) : Load := if ok then .value v else .unmapped

/-- A load of a queue control block (R304): its reserved bytes read zero. -/
def Queue.load (u : Queue) (off : Nat) (wide : Bool) : Load :=
  match off with
  | 0x00 => loadOf wide u.sqBase.toNat
  | 0x08 => loadOf wide u.cqBase.toNat
  | 0x10 => loadOf (!wide) u.config
  | 0x14 => loadOf (!wide) u.sqHead.toNat
  | 0x18 => loadOf (!wide) u.sqTail.toNat
  | 0x1C => loadOf (!wide) u.cqHead.toNat
  | 0x20 => loadOf (!wide) u.cqTail.toNat
  | 0x24 => loadOf (!wide) u.irqVector.toNat
  | 0x28 => loadOf (!wide) u.errorCode.toNat
  | _ => if off < 0x28 then .unmapped else .value 0

/-- A load of a ring register set (R324). -/
def Ring.load (q : Ring) (off : Nat) (wide : Bool) : Load :=
  match off with
  | 0x00 => loadOf wide q.base.toNat
  | 0x08 => loadOf (!wide) q.sizeLog2.toNat
  | 0x0C => loadOf (!wide) q.head.toNat
  | 0x10 => loadOf (!wide) q.tail.toNat
  | 0x14 => loadOf (!wide) (q.enable.toNat + 2 * q.irqEn.toNat)
  | 0x18 => loadOf (!wide) q.irqVector.toNat
  | _ => if off < 0x1C then .unmapped else .value 0

/-- A load of the mailbox (R345). -/
def Mailbox.load (b : Mailbox) (role off : Nat) (wide : Bool) : Load :=
  let n := if wide then 8 else 4
  if 0x1000 ≤ off && off + n ≤ 0x1000 + 1056 then .value (leAt b.request (off - 0x1000) n)
  else if 0x2000 ≤ off && off + n ≤ 0x2000 + 1056 then .value (leAt b.reply (off - 0x2000) n)
  else match off with
    | 0x0000 => loadOf (!wide) (2 * b.busy.toNat + 4 * b.done.toNat + 8 * b.irqEn.toNat)
    | 0x0004 => loadOf (!wide) b.reqLen.toNat
    | 0x0008 => loadOf (!wide) b.replyLen
    | 0x000C => loadOf (!wide) b.irqVector.toNat
    | 0x0010 => loadOf (!wide) role
    | _ => .value 0

/-- The bytes of the identity and capability mirror (R352). -/
def Dev.mirror (d : Dev) : List Byte :=
  leBytes 8 d.fuses.deviceId.toNat ++ leBytes 4 d.fuses.grade.toNat ++ leBytes 4 stepping ++ leBytes 4 d.boot.bundle
    ++ leBytes 4 d.caps.length ++ List.replicate 0xE8 0 ++ d.caps.flatten

/-- A load at an offset of hub MMIO (R303, R308, R352). -/
def Dev.loadMmio (d : Dev) (off : Nat) (wide : Bool) : Load :=
  if off < 0x10000 then .value (leAt d.mirror off (if wide then 8 else 4))
  else if 0x100000 ≤ off && off < 0x200000 then (d.queue (Fin.ofNat 16384 ((off - 0x100000) / 64))).load (off % 64) wide
  else if 0x1000000 ≤ off && off < 0x5000000 then .value 0
  else if 0x10000000 ≤ off && off < 0x10100000 then
    let p := (off - 0x10000000) / 0x40000
    let o := off % 0x40000
    if 0x10000 ≤ o && o < 0x10800 then (d.ring p true ((o - 0x10000) / 32)).load (o % 32) wide
    else if 0x20000 ≤ o && o < 0x20800 then (d.ring p false ((o - 0x20000) / 32)).load (o % 32) wide
    else .value 0
  else if 0x11000000 ≤ off && off < 0x11001000 then
    match Config.pcieWindowAt (off % 4096) with
    | none => .outside
    | some w =>
      let x := d.hub.pcie.windows.getD w.1.val (0, 0)
      loadOf wide (if w.2 then x.2.toNat else x.1.toNat)
  else if 0x30000000 ≤ off && off < 0x30010000 then d.hub.mailbox.load ((d.doorRole .mailbox).getD 0) (off % 0x10000) wide
  else if 0x20000000 ≤ off && off < 0x20020000 then loadOf (!wide) (d.readIrq (mmioBase + off))
  else .unmapped

/-- What a naturally aligned load of an application core returns (R253, R303, R325, R379). -/
def Dev.registerLoad (d : Dev) (addr : Word64) (size : Fin 4) : Load :=
  let a := addr.toNat
  let n := 2 ^ size.val
  if a % n ≠ 0 then .unmapped
  else if mmioBase ≤ a && a < mmioBase + 2 ^ 32 then
    if behindRoot (a - mmioBase) then .request (.pcieRead a n)
    else if size.val < 2 then .unmapped
    else d.loadMmio (a - mmioBase) (size == 3)
  else match lowest (d.readFaults a n) with
    | some code => .fault code
    | none => .value (leAt (d.read a n) 0 n)

end Sys2Proof.Machine
end

