-- ==== Sys2Proof/Machine/Effect.lean ====
section
/-!
DEFINITION. What every command does beside its own effect: the trace ring (13_checking_replay_test.md R392) and the
versions of the dictionary's values (11_object_dictionary.md R343). A meaning of the table acts on the device through
`effect`, or through `effectKept` where the versions are its own affair.
-/

namespace Sys2Proof.Machine

/-- The trace ring with one record more; the oldest is overwritten (R392). -/
def Logs.traceOne (l : Logs) (time source : Nat) (data : BitVec 112) : Logs :=
  let old := if traceCap ≤ l.trace.length then l.trace.drop 1 else l.trace
  { l with trace := old ++ [(l.traceSeq + 1, time, source, data)], traceSeq := l.traceSeq + 1 }

/-- Elapsed time of 4 mc: the writer accepts one record in it (R392). -/
def traceGap : Nat := 2 * unitsPerNs

/-- A record that reaches the writer: accepted, or dropped and counted within 4 mc of the last one accepted (R392). -/
def Logs.offer (l : Logs) (elapsed time source : Nat) (data : BitVec 112) : Logs :=
  if l.traceLast.all fun t => decide (t + traceGap ≤ elapsed)
  then { l.traceOne time source data with traceLast := some elapsed }
  else { l with overruns := satAdd 64 l.overruns 1 }

/-- What the units trace of a command while TRACE_ENABLE is 1 (R392). Which records they write, none,
one or two, the manual does not say: that and the records are free values (log 34). -/
def Dev.traced (d : Dev) : Dev :=
  if !d.logs.traceOn || !d.power.main then d
  else
    let v := d.draw.1
    let offer := fun (l : Logs) (i : Nat) =>
      if v.getLsbD i
      then l.offer d.time.elapsed d.now (bitsOf v.toNat (16 + 16 * i) 16) (Config.traceData (2 * d.freeCount + i)) else l
    { d.draw.2 with logs := offer (offer d.logs 0) 1 }

/-- A command's effect on everything but the queue of commands. -/
def effect (f : Dev → Dev) (s : State) : Host.Outcome State Fault Refusal :=
  .next { s with dev := s.dev.bumped (f s.dev).traced }

/-- The effect of a command that settles the versions itself: a request of the dictionary, which reports the version after
its execution (R336), and the start of the device, which begins all versions anew (R343). -/
def effectKept (f : Dev → Dev) (s : State) : Host.Outcome State Fault Refusal := .next { s with dev := (f s.dev).traced }

/-- What acts only while the main rails are on (16_power_clocks_thermal.md R441). -/
def powered (f : Dev → Dev) (d : Dev) : Dev := if d.power.main then f d else d

end Sys2Proof.Machine
end

