-- ==== Sys2Proof/Machine/ExecCroft.lean ====
section
/-!
DEFINITION. The meanings of the table's rows, one for each. What happens at crofts, slots and memories beside issue (01, 04, 06, 07, 08, 13).
-/

namespace Sys2Proof.Machine

/-- INSTRUCTION_START (R196): the head of queue `q` of croft `c`. -/
def execInstructionStart (c : CroftRef) (q : QueueId) (st : State) : Host.Outcome State Fault Refusal :=
  effect (Dev.instructionStart c q) st

/-- INSTRUCTION_COMPLETION (R196): the instruction running on unit `u` of croft `c`. -/
def execInstructionCompletion (c : CroftRef) (u : UnitId) (st : State) : Host.Outcome State Fault Refusal :=
  effect (Dev.completeInstruction c u) st

/-- FIELD_PHASE_END (R176). -/
def execFieldPhaseEnd (c : CroftRef) (st : State) : Host.Outcome State Fault Refusal := effect (Dev.fieldPhaseEnd c) st

/-- FIELD_SWEEP_END (R185). -/
def execFieldSweepEnd (c : CroftRef) (st : State) : Host.Outcome State Fault Refusal := effect (Dev.fieldSweepEnd c) st

/-- SNAPSHOT_COMMIT (R187). -/
def execSnapshotCommit (c : CroftRef) (st : State) : Host.Outcome State Fault Refusal :=
  effect (Dev.snapshotCommit c) st

/-- HALO_RECORD (R178). -/
def execHaloRecord (c : CroftRef) (r : HaloRec) (st : State) : Host.Outcome State Fault Refusal :=
  effect (Dev.haloRecord c r) st

/-- HALO_HANDSHAKE (R179): the record received on edge `e` (0 north, 1 east, 2 south, 3 west). -/
def execHaloHandshake (c : CroftRef) (e : Fin 4) (h : Handshake) (st : State) : Host.Outcome State Fault Refusal :=
  effect (Dev.haloHandshake c e h) st

/-- HALO_STALL (R182). -/
def execHaloStall (c : CroftRef) (st : State) : Host.Outcome State Fault Refusal := effect (Dev.haloStall c) st

/-- FIELD_ERROR_ROLLBACK (R188): `storage` when the error lay in coupling, bias or schedule storage. -/
def execFieldErrorRollback (c : CroftRef) (storage : Bool) (st : State) : Host.Outcome State Fault Refusal :=
  effect (Dev.fieldErrorRollback c storage) st

/-- CHECK_ERROR_REPLAY (R374). -/
def execCheckErrorReplay (c : CroftRef) (k : CheckKind) (st : State) : Host.Outcome State Fault Refusal :=
  effect (Dev.checkErrorReplay c k) st

/-- SYNC_TIMEOUT (R212). -/
def execSyncTimeout (c : CroftRef) (st : State) : Host.Outcome State Fault Refusal := effect (Dev.syncTimeout c) st

/-- REMOTE_SIGNAL (R210). -/
def execRemoteSignal (sig : RemoteSig) (st : State) : Host.Outcome State Fault Refusal :=
  effect (Dev.remoteSignal sig) st

/-- BARRIER_ARRIVAL (R217): `jobScope` is SCOPE. -/
def execBarrierArrival (j : Fin 64) (jobScope : Bool) (bar : Fin 16) (parties : Nat) (who : Arriver) (st : State) : Host.Outcome State Fault Refusal :=
  effect (Dev.barrierArrival j jobScope bar parties who) st

/-- BARRIER_RELEASE (R283). -/
def execBarrierRelease (j : Fin 64) (jobScope : Bool) (bar : Fin 16) (st : State) : Host.Outcome State Fault Refusal :=
  effect (Dev.barrierRelease j jobScope bar) st

/-- BARRIER_FORWARD (R283). -/
def execBarrierForward (j : Fin 64) (bar : Fin 16) (dir : TreeDir) (st : State) : Host.Outcome State Fault Refusal :=
  effect (Dev.barrierForward j bar dir) st

/-- LANE_POSITIONING_DONE (R115): sets 0..3 are the sampler rows, 4 is the Field set. -/
def execLanePositioningDone (c : CroftRef) (set : Fin 5) (st : State) : Host.Outcome State Fault Refusal :=
  effect (fun d => (d.lanePositioningDone c set).settle c) st

/-- ISLAND_PARK (R34). -/
def execIslandPark (slot : Fin 80) (st : State) : Host.Outcome State Fault Refusal := effect (Dev.islandPark slot) st

/-- ISLAND_RESUME (R34). -/
def execIslandResume (slot : Fin 80) (st : State) : Host.Outcome State Fault Refusal :=
  effect (Dev.islandResume slot) st

/-- MAP_CHANGED (R39): the bindings Bailiff installs together, each a logical croft and a slot. -/
def execMapChanged (j : Fin 64) (binds : List (Fin 256 × Fin 80)) (st : State) : Host.Outcome State Fault Refusal :=
  effect (Dev.mapChanged j binds) st

/-- CROFT_SWITCH (R41): the slot's logical croft is saved and `into` takes the slot. -/
def execCroftSwitch (slot : Fin 80) (into : CroftRef) (st : State) : Host.Outcome State Fault Refusal :=
  effect (Dev.croftSwitch slot into) st

/-- CROFT_MOVE (R381): `readable` is false when the old slot's state cannot be read (R382). -/
def execCroftMove (c : CroftRef) (readable : Bool) (st : State) : Host.Outcome State Fault Refusal :=
  effect (Dev.croftMove c readable) st

/-- GENERATOR_CHECK (R123): with a slot, step 4 on that slot with its outcome; without, steps 1 to 3. -/
def execGeneratorCheck (slot : Option (Fin 80)) (lanesGood : Bool) (st : State) : Host.Outcome State Fault Refusal :=
  effect (powered (Dev.generatorCheck slot lanesGood)) st

/-- GRANARY_FORCED_SCRUB (R19, R379): the row scrubbed holds `corrected` words with single-bit errors, and uncorrectable words at the
offsets `lost`. -/
def execGranaryForcedScrub (slot : Fin 80) (bank : Fin 64) (found : ScrubFound) (st : State) : Host.Outcome State Fault Refusal :=
  effect (Dev.granaryForcedScrub slot bank found.corrected found.lost) st

/-- GRANARY_ROW_REPAIR (R385). -/
def execGranaryRowRepair (slot : Fin 80) (bank : Fin 64) (row : Fin 32768) (st : State) : Host.Outcome State Fault Refusal :=
  effect (Dev.granaryRowRepair slot bank row) st

/-- PATROL_SCRUB (R254): units 0..11 are the stacks, 12..35 the subsystems; `passEnd` ends a pass. -/
def execPatrolScrub (unit : Fin 36) (res : ScrubResult) (passEnd : Bool) (st : State) : Host.Outcome State Fault Refusal :=
  effect (powered (Dev.patrolScrub unit res passEnd)) st

/-- MEMORY_REPAIR (R387). -/
def execMemoryRepair (unit : Fin 36) (k : RepairKind) (st : State) : Host.Outcome State Fault Refusal :=
  effect (powered (Dev.memoryRepair unit k)) st

/-- UNFIT (R295). -/
def execUnfit (st : State) : Host.Outcome State Fault Refusal := effect (powered Dev.unfit) st

/-- AGE_MEASURE (R386): the two oscillator frequencies in kHz. -/
def execAgeMeasure (slot : Fin 80) (agedKhz : Nat) (refKhz : Nat) (st : State) : Host.Outcome State Fault Refusal :=
  effect (Dev.ageMeasure slot agedKhz refKhz) st

/-- AGE_RETIRE (R386). -/
def execAgeRetire (slot : Fin 80) (st : State) : Host.Outcome State Fault Refusal :=
  effect (powered (Dev.ageRetire slot)) st

/-- AGE_NO_SPARE (R386). -/
def execAgeNoSpare (slot : Fin 80) (st : State) : Host.Outcome State Fault Refusal :=
  effect (powered (Dev.ageNoSpare slot)) st

/-- ROUTER_FAILURE (R249): the node or the hub port that failed. -/
def execRouterFailure (part : MeshPart) (node : Fin 12 × Fin 10) (st : State) : Host.Outcome State Fault Refusal :=
  effect (powered (Dev.routerFailure part node)) st

/-- MULTICAST_ACCEPTANCE (R245): for the MESH.MCAST of croft `c`, the last acceptance still missing. -/
def execMulticastAcceptance (c : CroftRef) (st : State) : Host.Outcome State Fault Refusal :=
  effect (Dev.multicastAcceptance c) st

/-- WRITE_ACKNOWLEDGEMENT (R196): for the transfer of the move unit (`false`) or the mesh unit (`true`). -/
def execWriteAcknowledgement (c : CroftRef) (mesh : Bool) (st : State) : Host.Outcome State Fault Refusal :=
  effect (Dev.writeAcknowledgement c mesh) st

/-- MESH_ACK_TIMEOUT (R257): for a unit of a croft, or for a command. -/
def execMeshAckTimeout (w : AckWaiter) (mesh : Bool) (st : State) : Host.Outcome State Fault Refusal :=
  effect (Dev.meshAckTimeout w mesh) st

end Sys2Proof.Machine
end

