-- ==== Sys2Proof/Machine/ExecDevice.lean ====
section
/-!
DEFINITION. The meanings of the table's rows, one for each. Outside ports, the Well, power, boot, clocks and the TAP (10, 14, 15,
16, 17).
-/

namespace Sys2Proof.Machine

/-- ETH_TAIL_WRITE (R324): transmit (`true`) or receive ring `ring` of `port`. -/
def execEthTailWrite (port : Fin 4) (tx : Bool) (ring : Fin 64) (v : Word32) (st : State) : Host.Outcome State Fault Refusal :=
  effect (powered (Dev.ethTailWrite port.val tx ring.val v)) st

/-- ETH_FRAME_RECEIVE (R323): the frame, the receive hash and ring its distribution chose, and its timestamp. -/
def execEthFrameReceive (port : Fin 4) (ring : Fin 64) (hash : Word32) (frame : List Byte) (fcs : Word32) (tsValid : Bool) (tsFrac : BitVec 16) (st : State) : Host.Outcome State Fault Refusal :=
  effect (powered (Dev.ethFrameReceive port.val ring.val hash frame fcs tsValid tsFrac)) st

/-- ETH_FRAME_TRANSMIT_DONE (R324). -/
def execEthFrameTransmitDone (port : Fin 4) (ring : Fin 64) (tsFrac : BitVec 16) (st : State) : Host.Outcome State Fault Refusal :=
  effect (powered (Dev.ethFrameTransmitDone port.val ring.val tsFrac)) st

/-- PCIE_INBOUND (R325, R326): a request, or an error of the link. -/
def execPcieInbound (r : PcieReq) (st : State) : Host.Outcome State Fault Refusal := effect (Dev.pcieInbound r) st

/-- SEED_CSR_READ (R413). -/
def execSeedCsrRead (hart : Fin 32) (st : State) : Host.Outcome State Fault Refusal := effect (Dev.seedCsrRead hart) st

/-- WELL_BLOCK_TESTED (R401, R402): the raw bits of a block of a cell, the first one first. -/
def execWellBlockTested (cell : Fin 4) (raw : List Bool) (st : State) : Host.Outcome State Fault Refusal :=
  effect (Dev.wellBlockTested cell raw) st

/-- WELL_GENERATE (R403). -/
def execWellGenerate (st : State) : Host.Outcome State Fault Refusal := effect Dev.wellGenerate st

/-- WELL_TRIM_UPDATE (R400): the count of ones in the last 4,096 raw bits. -/
def execWellTrimUpdate (cell : Fin 4) (ones : Nat) (st : State) : Host.Outcome State Fault Refusal :=
  effect (Dev.wellTrimUpdate cell ones) st

/-- WELL_CELL_SETTLED (R405): the trim settled, or failed to within 10 ms. -/
def execWellCellSettled (cell : Fin 4) (settled : Bool) (st : State) : Host.Outcome State Fault Refusal :=
  effect (Dev.wellCellSettled cell settled) st

/-- WELL_CALIBRATION (R409): the count of ones in the 4,096 raw bits measured. -/
def execWellCalibration (cell : Fin 4) (ones : Nat) (st : State) : Host.Outcome State Fault Refusal :=
  effect (Dev.wellCalibration cell ones) st

/-- WELL_DELIVERY (R410). -/
def execWellDelivery (st : State) : Host.Outcome State Fault Refusal := effect Dev.wellDelivery st

/-- EVENT_AGGREGATE_FLUSH (R395). -/
def execEventAggregateFlush (st : State) : Host.Outcome State Fault Refusal := effect Dev.eventAggregateFlush st

/-- RESET_IN_N_ASSERT (R467). -/
def execResetInNAssert (st : State) : Host.Outcome State Fault Refusal := effect Dev.resetAssert st

/-- RESET_IN_N_RELEASE (R420, R427): the strap pins as sampled, and what a board agent has programmed into the flash parts while the
pin was low, each piece with its part and its offset. -/
def execResetInNRelease (release : ResetRelease) (st : State) : Host.Outcome State Fault Refusal :=
  effectKept (Dev.resetRelease release.straps release.programmed) st

/-- DREMOS_LOAD (R429): the image bytes as fetched, or none when they cannot be. -/
def execDremosLoad (image : Option (List Byte)) (st : State) : Host.Outcome State Fault Refusal :=
  effect (Dev.dremosLoad image) st

/-- VAUX_OUT_OF_RANGE (R439). -/
def execVauxOutOfRange (st : State) : Host.Outcome State Fault Refusal := effect Dev.vauxOut st

/-- POWER_UP_SEQUENCE (R442). -/
def execPowerUpSequence (m : MemTraining) (st : State) : Host.Outcome State Fault Refusal :=
  effect (fun d => (d.powerUp m).wellCheck) st

/-- POWER_FAIL (R444): a power fault, or the loss of PWR_GOOD_IN. -/
def execPowerFail (lostPwrGood : Bool) (st : State) : Host.Outcome State Fault Refusal :=
  effect (Dev.powerFail lostPwrGood) st

/-- SUPPLY_OUT_OF_RANGE (R449). -/
def execSupplyOutOfRange (st : State) : Host.Outcome State Fault Refusal := effect Dev.supplyOutOfRange st

/-- POWER_EVALUATION (R446): P and P1 in mW, and whether level 10 with P above the limit has lasted 1 ms. -/
def execPowerEvaluation (p : Nat) (p1 : Nat) (overForMs : Bool) (st : State) : Host.Outcome State Fault Refusal :=
  effect (Dev.powerEvaluation p p1 overForMs) st

/-- TJ_SAMPLE (R448): the 112 junction sensors and the 12 stack sensors, in 0.1 °C. -/
def execTjSample (tj : List Int) (hbm : List Int) (st : State) : Host.Outcome State Fault Refusal :=
  effect (Dev.tjSample tj hbm) st

/-- EMERGENCY_CLEAR (R449): the power emergency (`false`) or the thermal one (`true`). -/
def execEmergencyClear (thermal : Bool) (st : State) : Host.Outcome State Fault Refusal :=
  effect (Dev.emergencyClear thermal) st

/-- THERMTRIP (R450). -/
def execThermtrip (sensor : Fin 112) (st : State) : Host.Outcome State Fault Refusal := effect (Dev.thermtrip sensor) st

/-- PMBUS_POLL (R452): the responders' words; an address missing from the list did not answer. -/
def execPmbusPoll (recs : List PmbusRec) (st : State) : Host.Outcome State Fault Refusal :=
  effect (Dev.pmbusPoll recs) st

/-- PMBUS_SCAN (R353): the addresses that answered, each with its VOUT_MODE. -/
def execPmbusScan (found : List PmbusFound) (st : State) : Host.Outcome State Fault Refusal :=
  effect (Dev.pmbusScan found) st

/-- PMB_ALERT_N (R461): the poll it causes. -/
def execPmbAlertN (recs : List PmbusRec) (st : State) : Host.Outcome State Fault Refusal :=
  effect (Dev.pmbAlertN recs) st

/-- RAIL_MEASUREMENT (R353): the two inputs in mV, and each rail in mV and mA. -/
def execRailMeasurement (vin : Nat) (vaux : Nat) (rails : List (Nat × Nat)) (st : State) : Host.Outcome State Fault Refusal :=
  effect (Dev.railMeasurement vin vaux rails) st

/-- REFCLK_LOSS (R453). -/
def execRefclkLoss (st : State) : Host.Outcome State Fault Refusal := effect Dev.refclkLoss st

/-- CLOCK_LOST (R453). -/
def execClockLost (st : State) : Host.Outcome State Fault Refusal := effect Dev.clockLost st

/-- REFCLK_RETURN (R453). -/
def execRefclkReturn (st : State) : Host.Outcome State Fault Refusal := effect Dev.refclkReturn st

/-- DROOP_STRETCH (R454): a droop begins, or 16 cc have passed since the rail recovered. -/
def execDroopStretch (slot : Fin 80) (begins : Bool) (st : State) : Host.Outcome State Fault Refusal :=
  effect (Dev.droopStretch slot begins) st

/-- PPS_IN_EDGE (R455): the time of the edge in units of 0.5 ns of device time. -/
def execPpsInEdge (at2 : Nat) (st : State) : Host.Outcome State Fault Refusal := effect (Dev.ppsInEdge at2) st

/-- PPS_OUT_SECOND (R455): PPS_OUT rises, or falls 100 µs later. -/
def execPpsOutSecond (rise : Bool) (st : State) : Host.Outcome State Fault Refusal := effect (Dev.ppsOutSecond rise) st

/-- VAUX_IN_RANGE (R441). -/
def execVauxInRange (st : State) : Host.Outcome State Fault Refusal := effect Dev.vauxIn st

/-- ETH_LINK_CHANGE (R323): the new value of ETH_LINK. -/
def execEthLinkChange (port : Fin 4) (code : Fin 5) (st : State) : Host.Outcome State Fault Refusal :=
  effect (Dev.ethLinkChange port.val code) st

/-- MGMT_LINK_CHANGE (R333). -/
def execMgmtLinkChange (up : Bool) (st : State) : Host.Outcome State Fault Refusal := effect (Dev.mgmtLinkChange up) st

/-- PCIE_LINK_CHANGE (R325): rate in GT/s, width and FLIT mode; all zero when the link goes down. -/
def execPcieLinkChange (rate : Byte) (width : Byte) (flit : Bool) (st : State) : Host.Outcome State Fault Refusal :=
  effect (Dev.pcieLinkChange rate width flit) st

/-- PPS_IN_ABSENT (R455). -/
def execPpsInAbsent (st : State) : Host.Outcome State Fault Refusal := effect Dev.ppsInAbsent st

/-- TAP_TCK_EDGE (R436): a rising or falling edge of TCK with TMS, TDI and the boundary cell sampled. -/
def execTapTckEdge (rising : Bool) (tms : TapPins) (tdi : Bool) (st : State) : Host.Outcome State Fault Refusal :=
  effect (Dev.tapTckEdge rising tms tdi) st

/-- TRST_N_ASSERT (R466). -/
def execTrstNAssert (st : State) : Host.Outcome State Fault Refusal := effect Dev.trstNAssert st

end Sys2Proof.Machine
end

