-- ==== Sys2Proof/Machine/ExecFabric.lean ====
section
/-!
DEFINITION. The meanings of the table's rows, one for each. Fohal ports, routes, time and the emergencies of other devices
(09_fohal_scale_out.md).
-/

namespace Sys2Proof.Machine

/-- FOHAL_FLIT (R262): `lost` when a codeword was uncorrectable, `fec` the symbols corrected on each lane (R261, R269). -/
def execFohalFlit (port : Fin 12) (arrival : FlitArrival) (lost : Bool) (st : State) : Host.Outcome State Fault Refusal :=
  effect (powered (Dev.fohalFlit port arrival lost)) st

/-- NAK (R263): the expected SEQ it names. -/
def execNak (port : Fin 12) (seq : BitVec 16) (st : State) : Host.Outcome State Fault Refusal :=
  effect (powered (Dev.nak port seq)) st

/-- LANE_SPARED (R269). -/
def execLaneSpared (port : Fin 12) (lane : Fin 9) (st : State) : Host.Outcome State Fault Refusal :=
  effect (powered (Dev.laneSpared port lane)) st

/-- PORT_SIGNAL_DETECT (R265). -/
def execPortSignalDetect (port : Fin 12) (st : State) : Host.Outcome State Fault Refusal :=
  effect (powered (Dev.portSignalDetect port)) st

/-- PORT_PHASE_DONE (R265). -/
def execPortPhaseDone (port : Fin 12) (r : PhaseResult) (st : State) : Host.Outcome State Fault Refusal :=
  effect (powered (Dev.portPhaseDone port r)) st

/-- PORT_STATE_TIMEOUT (R265). -/
def execPortStateTimeout (port : Fin 12) (st : State) : Host.Outcome State Fault Refusal :=
  effect (powered (Dev.portStateTimeout port)) st

/-- CAPABILITY_RECORD (R268). -/
def execCapabilityRecord (port : Fin 12) (rec_ : BitVec 512) (st : State) : Host.Outcome State Fault Refusal :=
  effect (powered (Dev.capabilityRecord port rec_)) st

/-- RTT_REMEASURE (R266). -/
def execRttRemeasure (port : Fin 12) (rtt : Nat) (st : State) : Host.Outcome State Fault Refusal :=
  effect (powered (Dev.rttRemeasure port rtt)) st

/-- LEAVE (R296). -/
def execLeave (port : Fin 12) (st : State) : Host.Outcome State Fault Refusal := effect (powered (Dev.leave port)) st

/-- LINK_STATE_RECORD (R270). -/
def execLinkStateRecord (r : LinkState) (st : State) : Host.Outcome State Fault Refusal :=
  effect (powered (Dev.linkStateRecord r)) st

/-- ROUTES_UPDATED (R270). -/
def execRoutesUpdated (st : State) : Host.Outcome State Fault Refusal := effect (powered Dev.routesUpdated) st

/-- MESSAGE_RESTART (R279). -/
def execMessageRestart (tag : Word32) (st : State) : Host.Outcome State Fault Refusal :=
  effect (powered (Dev.messageRestart tag)) st

/-- TIME_EXCHANGE (R281): the followed time less this device's time, in ns, whether the error is below 1.0 ns, and whether
an IEEE 1588 source of its own is valid. -/
def execTimeExchange (offset : Int) (found : TimeFound) (st : State) : Host.Outcome State Fault Refusal :=
  effect (powered (Dev.timeExchange offset found.good found.ptp)) st

/-- EMERGENCY_NOTICE (R449): from logical device `dev` of job `j`; `begins` or ends. -/
def execEmergencyNotice (j : Fin 64) (dev : Nat) (begins : Bool) (st : State) : Host.Outcome State Fault Refusal :=
  effect (Dev.emergencyNotice j dev begins) st

end Sys2Proof.Machine
end

