-- ==== Sys2Proof/Machine/ExecHub.lean ====
section
/-!
DEFINITION. The meanings of the table's rows, one for each. Queues and the commands in flight (10_queues_and_hub.md; 09_fohal_scale_out.md R286
to R293).
-/

namespace Sys2Proof.Machine

/-- SUBMISSION_DOORBELL (R308). -/
def execSubmissionDoorbell (q : Fin 16384) (v : Word32) (st : State) : Host.Outcome State Fault Refusal :=
  effect (powered (Dev.submissionDoorbell q v)) st

/-- COMPLETION_DOORBELL (R308). -/
def execCompletionDoorbell (q : Fin 16384) (v : Word32) (st : State) : Host.Outcome State Fault Refusal :=
  effect (powered (Dev.completionDoorbell q v)) st

/-- QUEUE_ENABLE (R306): a write of CONFIG whose ENABLE bit is 1. -/
def execQueueEnable (q : Fin 16384) (config : Word32) (st : State) : Host.Outcome State Fault Refusal :=
  effect (powered (Dev.writeConfig q config)) st

/-- QUEUE_DISABLE (R306): a write of CONFIG whose ENABLE bit is 0. -/
def execQueueDisable (q : Fin 16384) (config : Word32) (st : State) : Host.Outcome State Fault Refusal :=
  effect (powered (Dev.writeConfig q config)) st

/-- REGISTER_WRITE (R303): a store of 1, 2, 4 or 8 bytes, `size` being the logarithm. -/
def execRegisterWrite (addr : Word64) (size : Fin 4) (value : Word64) (st : State) : Host.Outcome State Fault Refusal :=
  effect (Dev.registerWrite addr size value) st

/-- QUEUE_FETCH (R309). -/
def execQueueFetch (q : Fin 16384) (st : State) : Host.Outcome State Fault Refusal :=
  effect (powered (Dev.queueFetch q)) st

/-- LAUNCH (R221): the command in flight with this number. -/
def execLaunch (id : Nat) (st : State) : Host.Outcome State Fault Refusal := effect (Dev.launch id) st

/-- COPY (R316). -/
def execCopy (id : Nat) (st : State) : Host.Outcome State Fault Refusal := effect (Dev.copy id) st

/-- MULTICAST (R316). -/
def execMulticast (id : Nat) (st : State) : Host.Outcome State Fault Refusal := effect (Dev.multicast id) st

/-- COLLECTIVE (R286). -/
def execCollective (id : Nat) (st : State) : Host.Outcome State Fault Refusal := effect (Dev.collective id) st

/-- MODEL_LOAD (R153). -/
def execModelLoad (id : Nat) (st : State) : Host.Outcome State Fault Refusal := effect (Dev.modelLoad id) st

/-- FIELD_RUN (R316). -/
def execFieldRun (id : Nat) (st : State) : Host.Outcome State Fault Refusal := effect (Dev.fieldRun id) st

/-- FENCE (R316). -/
def execFence (id : Nat) (st : State) : Host.Outcome State Fault Refusal := effect (Dev.fence_ id) st

/-- TIMESTAMP (R316). -/
def execTimestamp (id : Nat) (st : State) : Host.Outcome State Fault Refusal := effect (Dev.timestamp id) st

/-- LEDGER_CLOSE (R364): `canSign` is false when Watch cannot sign (R368). -/
def execLedgerClose (id : Nat) (canSign : Bool) (st : State) : Host.Outcome State Fault Refusal :=
  effect (Dev.ledgerClose id canSign) st

/-- COMMAND_START (R318). -/
def execCommandStart (id : Nat) (st : State) : Host.Outcome State Fault Refusal := effect (Dev.commandStart id) st

/-- COMMAND_COMPLETION (R321). -/
def execCommandCompletion (id : Nat) (st : State) : Host.Outcome State Fault Refusal :=
  effect (Dev.commandCompletion id) st

/-- CONTRIBUTION (R292): header, data and digest of R290 as received for the collective of job `j`. -/
def execContribution (j : Fin 64) (header : BitVec 256) (data : List Byte) (digest : BitVec 128) (st : State) : Host.Outcome State Fault Refusal :=
  effect (Dev.contribution j header data digest) st

/-- REFUSE (R292): the refused contribution's receiver, step, chunk, segment and attempt. -/
def execRefuse (j : Fin 64) (collId : Word32) (dst : Nat) (step : Nat) (chunk : Nat) (seg : Nat) (attempt : Fin 4) (st : State) : Host.Outcome State Fault Refusal :=
  effect (Dev.refuse j collId dst step chunk seg attempt) st

/-- COLL_TIMEOUT (R293). -/
def execCollTimeout (j : Fin 64) (st : State) : Host.Outcome State Fault Refusal := effect (Dev.collTimeout j) st

end Sys2Proof.Machine
end

