-- ==== Sys2Proof/Machine/ExecIssue.lean ====
section
/-!
DEFINITION. The meanings of the table's rows, one for each. The instructions of a croft as its sequencer takes them (07_croft_instruction_set.md R195 to R223;
01_croft_anatomy.md R20 to R32).
-/

namespace Sys2Proof.Machine

/-- CTRL_NOP (R195). -/
def execCtrlNop (c : CroftRef) (st : State) : Host.Outcome State Fault Refusal := effect (fun d => d.issueRow .nop c) st

/-- CTRL_SETA (R199). -/
def execCtrlSeta (c : CroftRef) (st : State) : Host.Outcome State Fault Refusal :=
  effect (fun d => d.issueRow .seta c) st

/-- CTRL_ADDA (R199). -/
def execCtrlAdda (c : CroftRef) (st : State) : Host.Outcome State Fault Refusal :=
  effect (fun d => d.issueRow .adda c) st

/-- CTRL_SETC (R199). -/
def execCtrlSetc (c : CroftRef) (st : State) : Host.Outcome State Fault Refusal :=
  effect (fun d => d.issueRow .setc c) st

/-- CTRL_ADDC (R199). -/
def execCtrlAddc (c : CroftRef) (st : State) : Host.Outcome State Fault Refusal :=
  effect (fun d => d.issueRow .addc c) st

/-- CTRL_LOOP (R199). -/
def execCtrlLoop (c : CroftRef) (st : State) : Host.Outcome State Fault Refusal :=
  effect (fun d => d.issueRow .loop c) st

/-- CTRL_JUMP (R199). -/
def execCtrlJump (c : CroftRef) (st : State) : Host.Outcome State Fault Refusal :=
  effect (fun d => d.issueRow .jump c) st

/-- CTRL_CINIT (R31). -/
def execCtrlCinit (c : CroftRef) (st : State) : Host.Outcome State Fault Refusal :=
  effect (fun d => d.issueRow .cinit c) st

/-- CTRL_CSAVE (R32). -/
def execCtrlCsave (c : CroftRef) (st : State) : Host.Outcome State Fault Refusal :=
  effect (fun d => d.issueRow .csave c) st

/-- CTRL_CREST (R120). -/
def execCtrlCrest (c : CroftRef) (st : State) : Host.Outcome State Fault Refusal :=
  effect (fun d => d.issueRow .crest c) st

/-- CTRL_END (R223). -/
def execCtrlEnd (c : CroftRef) (st : State) : Host.Outcome State Fault Refusal :=
  effect (fun d => d.issueRow .end_ c) st

/-- SYNC_CHK (R214). -/
def execSyncChk (c : CroftRef) (st : State) : Host.Outcome State Fault Refusal := effect (fun d => d.issueRow .chk c) st

/-- SYNC_WAIT (R209). -/
def execSyncWait (c : CroftRef) (st : State) : Host.Outcome State Fault Refusal :=
  effect (fun d => d.issueRow .wait c) st

/-- SYNC_SIG (R209). -/
def execSyncSig (c : CroftRef) (st : State) : Host.Outcome State Fault Refusal := effect (fun d => d.issueRow .sig c) st

/-- SYNC_FENCE (R211). -/
def execSyncFence (c : CroftRef) (st : State) : Host.Outcome State Fault Refusal :=
  effect (fun d => d.issueRow .fence c) st

/-- SYNC_BAR (R217). -/
def execSyncBar (c : CroftRef) (st : State) : Host.Outcome State Fault Refusal := effect (fun d => d.issueRow .bar c) st

/-- MILL_MM (R56). -/
def execMillMm (c : CroftRef) (st : State) : Host.Outcome State Fault Refusal := effect (fun d => d.issueRow .mm c) st

/-- DRAIN_RED (R80). -/
def execDrainRed (c : CroftRef) (st : State) : Host.Outcome State Fault Refusal :=
  effect (fun d => d.issueRow .red c) st

/-- DRAIN_EMIT (R87). -/
def execDrainEmit (c : CroftRef) (st : State) : Host.Outcome State Fault Refusal :=
  effect (fun d => d.issueRow .emit c) st

/-- SAMP_BERN (R138). -/
def execSampBern (c : CroftRef) (st : State) : Host.Outcome State Fault Refusal :=
  effect (fun d => d.issueRow .bern c) st

/-- SAMP_GIBBS (R147). -/
def execSampGibbs (c : CroftRef) (st : State) : Host.Outcome State Fault Refusal :=
  effect (fun d => d.issueRow .gibbs c) st

/-- SAMP_GUMB (R142). -/
def execSampGumb (c : CroftRef) (st : State) : Host.Outcome State Fault Refusal :=
  effect (fun d => d.issueRow .gumb c) st

/-- SAMP_TAKE (R144). -/
def execSampTake (c : CroftRef) (st : State) : Host.Outcome State Fault Refusal :=
  effect (fun d => d.issueRow .take c) st

/-- SAMP_MASK (R139). -/
def execSampMask (c : CroftRef) (st : State) : Host.Outcome State Fault Refusal :=
  effect (fun d => d.issueRow .mask c) st

/-- SAMP_FILL (R140). -/
def execSampFill (c : CroftRef) (st : State) : Host.Outcome State Fault Refusal :=
  effect (fun d => d.issueRow .fill c) st

/-- FIELD_LOAD (R173). -/
def execFieldLoad (c : CroftRef) (st : State) : Host.Outcome State Fault Refusal :=
  effect (fun d => d.issueRow .load c) st

/-- FIELD_SWEEP (R176). -/
def execFieldSweep (c : CroftRef) (st : State) : Host.Outcome State Fault Refusal :=
  effect (fun d => d.issueRow .sweep c) st

/-- FIELD_SNAP (R189). -/
def execFieldSnap (c : CroftRef) (st : State) : Host.Outcome State Fault Refusal :=
  effect (fun d => d.issueRow .snap c) st

/-- FIELD_READ (R190). -/
def execFieldRead (c : CroftRef) (st : State) : Host.Outcome State Fault Refusal :=
  effect (fun d => d.issueRow .read c) st

/-- MOVE_DMA (R204). -/
def execMoveDma (c : CroftRef) (st : State) : Host.Outcome State Fault Refusal := effect (fun d => d.issueRow .dma c) st

/-- MOVE_ZERO (R204). -/
def execMoveZero (c : CroftRef) (st : State) : Host.Outcome State Fault Refusal :=
  effect (fun d => d.issueRow .zero c) st

/-- MESH_PUT (R205). -/
def execMeshPut (c : CroftRef) (st : State) : Host.Outcome State Fault Refusal := effect (fun d => d.issueRow .put c) st

/-- MESH_MCAST (R205). -/
def execMeshMcast (c : CroftRef) (st : State) : Host.Outcome State Fault Refusal :=
  effect (fun d => d.issueRow .mcast c) st

end Sys2Proof.Machine
end

