-- ==== Sys2Proof/Machine/ExecOd.lean ====
section
/-!
DEFINITION. The meanings of the table's rows, one for each. The dictionary and attestation (11_object_dictionary.md;
12_determinism_and_ledger.md R369, R370).
-/

namespace Sys2Proof.Machine

/-- READ (R337). -/
def execRead (d : Door) (msg : List Byte) (st : State) : Host.Outcome State Fault Refusal :=
  effectKept (fun x => if msgKind msg = 2 ∨ msgKind msg = 3 then x else x.serve d msg wholeRun) st

/-- WRITE (R338). -/
def execWrite (d : Door) (msg : List Byte) (st : State) : Host.Outcome State Fault Refusal :=
  effectKept (fun x => if msgKind msg = 2 then x.serve d msg wholeRun else x) st

/-- INFO (R339). -/
def execInfo (d : Door) (msg : List Byte) (st : State) : Host.Outcome State Fault Refusal :=
  effectKept (fun x => if msgKind msg = 3 then x.serve d msg wholeRun else x) st

/-- DTLS_HANDSHAKE (R333, R334): the SHA-384 of the client's end-entity certificate, whether its signature verifies, and what the
client offers. -/
def execDtlsHandshake (fingerprint : BitVec 384) (offer : DtlsOffer) (st : State) : Host.Outcome State Fault Refusal :=
  effect (Dev.dtlsHandshake fingerprint offer) st

/-- SESSION_IDLE_CLOSE (R333). -/
def execSessionIdleClose (k : Fin 16) (st : State) : Host.Outcome State Fault Refusal :=
  effect (Dev.sessionIdleClose k) st

/-- MAILBOX_GO (R345): a write of MB_CONTROL with GO = 1. -/
def execMailboxGo (value : Word32) (st : State) : Host.Outcome State Fault Refusal := effect (Dev.mailboxGo value) st

/-- MAILBOX_DONE_CLEAR (R345): a write of MB_CONTROL with DONE = 1. -/
def execMailboxDoneClear (value : Word32) (st : State) : Host.Outcome State Fault Refusal :=
  effect (Dev.mailboxDoneClear value) st

/-- SMBUS_READ (R346): the target address, the six bytes of the write block, and whether its PEC is right. -/
def execSmbusRead (addr : BitVec 7) (index : BitVec 16) (sub : Byte) (span : SmbusSpan) (pecGood : Bool) (st : State) : Host.Outcome State Fault Refusal :=
  effect (Dev.smbusRead addr index sub span.offset span.count pecGood) st

/-- COMMIT (R348). -/
def execCommit (d : Door) (msg : List Byte) (st : State) : Host.Outcome State Fault Refusal :=
  effectKept (Dev.serveAt (fun i s _ => isCommit i s) d msg wholeRun) st

/-- COMMIT_APPLIED (R348). -/
def execCommitApplied (b : Block) (st : State) : Host.Outcome State Fault Refusal := effect (Dev.commitApplied b) st

/-- SHADOW_WRITE (R347). -/
def execShadowWrite (d : Door) (msg : List Byte) (st : State) : Host.Outcome State Fault Refusal :=
  effectKept (Dev.serveAt (fun i s _ => (odFind i s).any fun r => r.access == 3) d msg wholeRun) st

/-- ROLE_ENTRY_WRITE (R334). -/
def execRoleEntryWrite (d : Door) (msg : List Byte) (st : State) : Host.Outcome State Fault Refusal :=
  effectKept (Dev.serveAt (fun i _ _ => i == 0x9010) d msg wholeRun) st

/-- POWER_LIMIT_WRITE (R445). -/
def execPowerLimitWrite (d : Door) (msg : List Byte) (st : State) : Host.Outcome State Fault Refusal :=
  effectKept (Dev.serveAt (fun i s _ => i == 0x2010 && s == 2) d msg wholeRun) st

/-- TRACE_ENABLE_WRITE (R435). -/
def execTraceEnableWrite (d : Door) (msg : List Byte) (st : State) : Host.Outcome State Fault Refusal :=
  effectKept (Dev.serveAt (fun i s _ => i == 0xB000 && s == 1) d msg wholeRun) st

/-- WELL_ENABLE_WRITE (R414). -/
def execWellEnableWrite (d : Door) (msg : List Byte) (st : State) : Host.Outcome State Fault Refusal :=
  effectKept (Dev.serveAt (fun i s _ => i == 0x6010 && s == 2) d msg wholeRun) st

/-- TEST_REQUEST (R388). -/
def execTestRequest (d : Door) (msg : List Byte) (st : State) : Host.Outcome State Fault Refusal :=
  effectKept (Dev.serveAt (fun i s _ => i == 0x7800 && s == 1) d msg wholeRun) st

/-- TEST_START (R389). -/
def execTestStart (st : State) : Host.Outcome State Fault Refusal := effect Dev.testStart st

/-- TEST_DONE (R389). -/
def execTestDone (r : TestOutcome) (st : State) : Host.Outcome State Fault Refusal := effect (Dev.testDone r) st

/-- TEST_WAIT_EXPIRY (R389). -/
def execTestWaitExpiry (st : State) : Host.Outcome State Fault Refusal := effect Dev.testWaitExpiry st

/-- IMAGE_STAGE (R430). -/
def execImageStage (d : Door) (msg : List Byte) (st : State) : Host.Outcome State Fault Refusal :=
  effectKept (Dev.serveAt (fun i _ _ => i == 0x8001) d msg wholeRun) st

/-- ACTIVATE (R431). -/
def execActivate (d : Door) (msg : List Byte) (st : State) : Host.Outcome State Fault Refusal :=
  effectKept (Dev.serveAt (fun i _ _ => i == 0x8002) d msg wholeRun) st

/-- ACTIVATION_SWITCH (R432): one core of the class switches; `noiseFloor` says the warm boundary's measured
conditions (junctions 5 °C below throttle, power 10 % below the limit) hold. -/
def execActivationSwitch (noiseFloor : Bool) (st : State) : Host.Outcome State Fault Refusal :=
  effect (powered (Dev.activationSwitch noiseFloor)) st

/-- ACTIVATION_TIMEOUT (R433). -/
def execActivationTimeout (st : State) : Host.Outcome State Fault Refusal := effect Dev.activationTimeout st

/-- CONFIRM (R424): `run` is how many fuse bits blow, and whether the next one fails. -/
def execConfirm (d : Door) (msg : List Byte) (run : FuseRun) (st : State) : Host.Outcome State Fault Refusal :=
  effectKept (Dev.serveAt (fun i _ _ => i == 0x8006) d msg run) st

/-- REVOKE_KEY (R425): `run` as for CONFIRM. -/
def execRevokeKey (d : Door) (msg : List Byte) (run : FuseRun) (st : State) : Host.Outcome State Fault Refusal :=
  effectKept (Dev.serveAt (fun i _ _ => i == 0x9004) d msg run) st

/-- POWER_REQUEST_STANDBY (R443). -/
def execPowerRequestStandby (d : Door) (msg : List Byte) (st : State) : Host.Outcome State Fault Refusal :=
  effectKept (Dev.serveAt (fun i _ v => i == 0x2031 && leNat v == 1) d msg wholeRun) st

/-- POWER_REQUEST_READY (R443). -/
def execPowerRequestReady (d : Door) (msg : List Byte) (st : State) : Host.Outcome State Fault Refusal :=
  effectKept (Dev.serveAt (fun i _ v => i == 0x2031 && leNat v != 1) d msg wholeRun) st

/-- POWER_DOWN (R443). -/
def execPowerDown (st : State) : Host.Outcome State Fault Refusal := effect Dev.powerDown st

/-- GET_VERSION (R369): the SPDM request message written to SPDM_REQUEST. -/
def execGetVersion (d : Door) (req : List Byte) (st : State) : Host.Outcome State Fault Refusal :=
  effect (Dev.serveSpdm (fun c => c == 0x84) d req) st

/-- GET_CAPABILITIES (R369). -/
def execGetCapabilities (d : Door) (req : List Byte) (st : State) : Host.Outcome State Fault Refusal :=
  effect (Dev.serveSpdm (fun c => c == 0xE1) d req) st

/-- NEGOTIATE_ALGORITHMS (R369). -/
def execNegotiateAlgorithms (d : Door) (req : List Byte) (st : State) : Host.Outcome State Fault Refusal :=
  effect (Dev.serveSpdm (fun c => c == 0xE3) d req) st

/-- GET_DIGESTS (R369). -/
def execGetDigests (d : Door) (req : List Byte) (st : State) : Host.Outcome State Fault Refusal :=
  effect (Dev.serveSpdm (fun c => c == 0x81) d req) st

/-- GET_CERTIFICATE (R369). -/
def execGetCertificate (d : Door) (req : List Byte) (st : State) : Host.Outcome State Fault Refusal :=
  effect (Dev.serveSpdm (fun c => c == 0x82) d req) st

/-- CHALLENGE (R369). -/
def execChallenge (d : Door) (req : List Byte) (st : State) : Host.Outcome State Fault Refusal :=
  effect (Dev.serveSpdm (fun c => c == 0x83) d req) st

/-- GET_MEASUREMENTS (R370). -/
def execGetMeasurements (d : Door) (req : List Byte) (st : State) : Host.Outcome State Fault Refusal :=
  effect (Dev.serveSpdm (fun c => c == 0xE0) d req) st

/-- UNSUPPORTED_REQUEST (R369). -/
def execUnsupportedRequest (d : Door) (req : List Byte) (st : State) : Host.Outcome State Fault Refusal :=
  effect (Dev.serveSpdm (fun c => !spdmCodes.contains c) d req) st

end Sys2Proof.Machine
end

