-- ==== Sys2Proof/Machine/Dispatch.lean ====
section
/-! DEFINITION. The command's meaning, one arm for each row of spec/opcode_table.json. -/

namespace Sys2Proof.Machine

def exec (i : Instr) (s : State) : Host.Outcome State Fault Refusal :=
  match i with
  | .ctrlNop c => Sys2Proof.Machine.execCtrlNop c s
  | .ctrlSeta c => Sys2Proof.Machine.execCtrlSeta c s
  | .ctrlAdda c => Sys2Proof.Machine.execCtrlAdda c s
  | .ctrlSetc c => Sys2Proof.Machine.execCtrlSetc c s
  | .ctrlAddc c => Sys2Proof.Machine.execCtrlAddc c s
  | .ctrlLoop c => Sys2Proof.Machine.execCtrlLoop c s
  | .ctrlJump c => Sys2Proof.Machine.execCtrlJump c s
  | .ctrlCinit c => Sys2Proof.Machine.execCtrlCinit c s
  | .ctrlCsave c => Sys2Proof.Machine.execCtrlCsave c s
  | .ctrlCrest c => Sys2Proof.Machine.execCtrlCrest c s
  | .ctrlEnd c => Sys2Proof.Machine.execCtrlEnd c s
  | .syncChk c => Sys2Proof.Machine.execSyncChk c s
  | .syncWait c => Sys2Proof.Machine.execSyncWait c s
  | .syncSig c => Sys2Proof.Machine.execSyncSig c s
  | .syncFence c => Sys2Proof.Machine.execSyncFence c s
  | .syncBar c => Sys2Proof.Machine.execSyncBar c s
  | .millMm c => Sys2Proof.Machine.execMillMm c s
  | .drainRed c => Sys2Proof.Machine.execDrainRed c s
  | .drainEmit c => Sys2Proof.Machine.execDrainEmit c s
  | .sampBern c => Sys2Proof.Machine.execSampBern c s
  | .sampGibbs c => Sys2Proof.Machine.execSampGibbs c s
  | .sampGumb c => Sys2Proof.Machine.execSampGumb c s
  | .sampTake c => Sys2Proof.Machine.execSampTake c s
  | .sampMask c => Sys2Proof.Machine.execSampMask c s
  | .sampFill c => Sys2Proof.Machine.execSampFill c s
  | .fieldLoad c => Sys2Proof.Machine.execFieldLoad c s
  | .fieldSweep c => Sys2Proof.Machine.execFieldSweep c s
  | .fieldSnap c => Sys2Proof.Machine.execFieldSnap c s
  | .fieldRead c => Sys2Proof.Machine.execFieldRead c s
  | .moveDma c => Sys2Proof.Machine.execMoveDma c s
  | .moveZero c => Sys2Proof.Machine.execMoveZero c s
  | .meshPut c => Sys2Proof.Machine.execMeshPut c s
  | .meshMcast c => Sys2Proof.Machine.execMeshMcast c s
  | .instructionStart c q => Sys2Proof.Machine.execInstructionStart c q s
  | .instructionCompletion c u => Sys2Proof.Machine.execInstructionCompletion c u s
  | .fieldPhaseEnd c => Sys2Proof.Machine.execFieldPhaseEnd c s
  | .fieldSweepEnd c => Sys2Proof.Machine.execFieldSweepEnd c s
  | .snapshotCommit c => Sys2Proof.Machine.execSnapshotCommit c s
  | .haloRecord c r => Sys2Proof.Machine.execHaloRecord c r s
  | .haloHandshake c e h => Sys2Proof.Machine.execHaloHandshake c e h s
  | .haloStall c => Sys2Proof.Machine.execHaloStall c s
  | .fieldErrorRollback c storage => Sys2Proof.Machine.execFieldErrorRollback c storage s
  | .checkErrorReplay c k => Sys2Proof.Machine.execCheckErrorReplay c k s
  | .syncTimeout c => Sys2Proof.Machine.execSyncTimeout c s
  | .remoteSignal sig => Sys2Proof.Machine.execRemoteSignal sig s
  | .barrierArrival j jobScope bar parties who => Sys2Proof.Machine.execBarrierArrival j jobScope bar parties who s
  | .barrierRelease j jobScope bar => Sys2Proof.Machine.execBarrierRelease j jobScope bar s
  | .barrierForward j bar dir => Sys2Proof.Machine.execBarrierForward j bar dir s
  | .lanePositioningDone c set => Sys2Proof.Machine.execLanePositioningDone c set s
  | .islandPark slot => Sys2Proof.Machine.execIslandPark slot s
  | .islandResume slot => Sys2Proof.Machine.execIslandResume slot s
  | .mapChanged j binds => Sys2Proof.Machine.execMapChanged j binds s
  | .croftSwitch slot into => Sys2Proof.Machine.execCroftSwitch slot into s
  | .croftMove c readable => Sys2Proof.Machine.execCroftMove c readable s
  | .generatorCheck slot lanesGood => Sys2Proof.Machine.execGeneratorCheck slot lanesGood s
  | .granaryForcedScrub slot bank found => Sys2Proof.Machine.execGranaryForcedScrub slot bank found s
  | .granaryRowRepair slot bank row => Sys2Proof.Machine.execGranaryRowRepair slot bank row s
  | .patrolScrub unit res passEnd => Sys2Proof.Machine.execPatrolScrub unit res passEnd s
  | .memoryRepair unit k => Sys2Proof.Machine.execMemoryRepair unit k s
  | .unfit => Sys2Proof.Machine.execUnfit s
  | .ageMeasure slot agedKhz refKhz => Sys2Proof.Machine.execAgeMeasure slot agedKhz refKhz s
  | .ageRetire slot => Sys2Proof.Machine.execAgeRetire slot s
  | .ageNoSpare slot => Sys2Proof.Machine.execAgeNoSpare slot s
  | .routerFailure part node => Sys2Proof.Machine.execRouterFailure part node s
  | .multicastAcceptance c => Sys2Proof.Machine.execMulticastAcceptance c s
  | .writeAcknowledgement c mesh => Sys2Proof.Machine.execWriteAcknowledgement c mesh s
  | .meshAckTimeout w mesh => Sys2Proof.Machine.execMeshAckTimeout w mesh s
  | .submissionDoorbell q v => Sys2Proof.Machine.execSubmissionDoorbell q v s
  | .completionDoorbell q v => Sys2Proof.Machine.execCompletionDoorbell q v s
  | .queueEnable q config => Sys2Proof.Machine.execQueueEnable q config s
  | .queueDisable q config => Sys2Proof.Machine.execQueueDisable q config s
  | .registerWrite addr size value => Sys2Proof.Machine.execRegisterWrite addr size value s
  | .queueFetch q => Sys2Proof.Machine.execQueueFetch q s
  | .launch id => Sys2Proof.Machine.execLaunch id s
  | .copy id => Sys2Proof.Machine.execCopy id s
  | .multicast id => Sys2Proof.Machine.execMulticast id s
  | .collective id => Sys2Proof.Machine.execCollective id s
  | .modelLoad id => Sys2Proof.Machine.execModelLoad id s
  | .fieldRun id => Sys2Proof.Machine.execFieldRun id s
  | .fence id => Sys2Proof.Machine.execFence id s
  | .timestamp id => Sys2Proof.Machine.execTimestamp id s
  | .ledgerClose id canSign => Sys2Proof.Machine.execLedgerClose id canSign s
  | .commandStart id => Sys2Proof.Machine.execCommandStart id s
  | .commandCompletion id => Sys2Proof.Machine.execCommandCompletion id s
  | .contribution j header data digest => Sys2Proof.Machine.execContribution j header data digest s
  | .refuse j collId dst step chunk seg attempt => Sys2Proof.Machine.execRefuse j collId dst step chunk seg attempt s
  | .collTimeout j => Sys2Proof.Machine.execCollTimeout j s
  | .fohalFlit port arrival lost => Sys2Proof.Machine.execFohalFlit port arrival lost s
  | .nak port seq => Sys2Proof.Machine.execNak port seq s
  | .laneSpared port lane => Sys2Proof.Machine.execLaneSpared port lane s
  | .portSignalDetect port => Sys2Proof.Machine.execPortSignalDetect port s
  | .portPhaseDone port r => Sys2Proof.Machine.execPortPhaseDone port r s
  | .portStateTimeout port => Sys2Proof.Machine.execPortStateTimeout port s
  | .capabilityRecord port rec_ => Sys2Proof.Machine.execCapabilityRecord port rec_ s
  | .rttRemeasure port rtt => Sys2Proof.Machine.execRttRemeasure port rtt s
  | .leave port => Sys2Proof.Machine.execLeave port s
  | .linkStateRecord r => Sys2Proof.Machine.execLinkStateRecord r s
  | .routesUpdated => Sys2Proof.Machine.execRoutesUpdated s
  | .messageRestart tag => Sys2Proof.Machine.execMessageRestart tag s
  | .timeExchange offset found => Sys2Proof.Machine.execTimeExchange offset found s
  | .emergencyNotice j dev begins => Sys2Proof.Machine.execEmergencyNotice j dev begins s
  | .read d msg => Sys2Proof.Machine.execRead d msg s
  | .write d msg => Sys2Proof.Machine.execWrite d msg s
  | .info d msg => Sys2Proof.Machine.execInfo d msg s
  | .dtlsHandshake fingerprint offer => Sys2Proof.Machine.execDtlsHandshake fingerprint offer s
  | .sessionIdleClose k => Sys2Proof.Machine.execSessionIdleClose k s
  | .mailboxGo value => Sys2Proof.Machine.execMailboxGo value s
  | .mailboxDoneClear value => Sys2Proof.Machine.execMailboxDoneClear value s
  | .smbusRead addr index sub span pecGood => Sys2Proof.Machine.execSmbusRead addr index sub span pecGood s
  | .commit d msg => Sys2Proof.Machine.execCommit d msg s
  | .commitApplied b => Sys2Proof.Machine.execCommitApplied b s
  | .shadowWrite d msg => Sys2Proof.Machine.execShadowWrite d msg s
  | .roleEntryWrite d msg => Sys2Proof.Machine.execRoleEntryWrite d msg s
  | .powerLimitWrite d msg => Sys2Proof.Machine.execPowerLimitWrite d msg s
  | .traceEnableWrite d msg => Sys2Proof.Machine.execTraceEnableWrite d msg s
  | .wellEnableWrite d msg => Sys2Proof.Machine.execWellEnableWrite d msg s
  | .testRequest d msg => Sys2Proof.Machine.execTestRequest d msg s
  | .testStart => Sys2Proof.Machine.execTestStart s
  | .testDone r => Sys2Proof.Machine.execTestDone r s
  | .testWaitExpiry => Sys2Proof.Machine.execTestWaitExpiry s
  | .imageStage d msg => Sys2Proof.Machine.execImageStage d msg s
  | .activate d msg => Sys2Proof.Machine.execActivate d msg s
  | .activationSwitch noiseFloor => Sys2Proof.Machine.execActivationSwitch noiseFloor s
  | .activationTimeout => Sys2Proof.Machine.execActivationTimeout s
  | .confirm d msg blows => Sys2Proof.Machine.execConfirm d msg blows s
  | .revokeKey d msg blows => Sys2Proof.Machine.execRevokeKey d msg blows s
  | .powerRequestStandby d msg => Sys2Proof.Machine.execPowerRequestStandby d msg s
  | .powerRequestReady d msg => Sys2Proof.Machine.execPowerRequestReady d msg s
  | .powerDown => Sys2Proof.Machine.execPowerDown s
  | .getVersion d req => Sys2Proof.Machine.execGetVersion d req s
  | .getCapabilities d req => Sys2Proof.Machine.execGetCapabilities d req s
  | .negotiateAlgorithms d req => Sys2Proof.Machine.execNegotiateAlgorithms d req s
  | .getDigests d req => Sys2Proof.Machine.execGetDigests d req s
  | .getCertificate d req => Sys2Proof.Machine.execGetCertificate d req s
  | .challenge d req => Sys2Proof.Machine.execChallenge d req s
  | .getMeasurements d req => Sys2Proof.Machine.execGetMeasurements d req s
  | .unsupportedRequest d req => Sys2Proof.Machine.execUnsupportedRequest d req s
  | .ethTailWrite port tx ring v => Sys2Proof.Machine.execEthTailWrite port tx ring v s
  | .ethFrameReceive port ring hash frame fcsErr tsValid tsFrac => Sys2Proof.Machine.execEthFrameReceive port ring hash frame fcsErr tsValid tsFrac s
  | .ethFrameTransmitDone port ring tsFrac => Sys2Proof.Machine.execEthFrameTransmitDone port ring tsFrac s
  | .pcieInbound r => Sys2Proof.Machine.execPcieInbound r s
  | .seedCsrRead hart => Sys2Proof.Machine.execSeedCsrRead hart s
  | .wellBlockTested cell raw => Sys2Proof.Machine.execWellBlockTested cell raw s
  | .wellGenerate => Sys2Proof.Machine.execWellGenerate s
  | .wellTrimUpdate cell ones => Sys2Proof.Machine.execWellTrimUpdate cell ones s
  | .wellCellSettled cell settled => Sys2Proof.Machine.execWellCellSettled cell settled s
  | .wellCalibration cell ones => Sys2Proof.Machine.execWellCalibration cell ones s
  | .wellDelivery => Sys2Proof.Machine.execWellDelivery s
  | .eventAggregateFlush => Sys2Proof.Machine.execEventAggregateFlush s
  | .resetInNAssert => Sys2Proof.Machine.execResetInNAssert s
  | .resetInNRelease release => Sys2Proof.Machine.execResetInNRelease release s
  | .dremosLoad image => Sys2Proof.Machine.execDremosLoad image s
  | .vauxOutOfRange => Sys2Proof.Machine.execVauxOutOfRange s
  | .powerUpSequence m => Sys2Proof.Machine.execPowerUpSequence m s
  | .powerFail lostPwrGood => Sys2Proof.Machine.execPowerFail lostPwrGood s
  | .supplyOutOfRange => Sys2Proof.Machine.execSupplyOutOfRange s
  | .powerEvaluation p p1 overForMs => Sys2Proof.Machine.execPowerEvaluation p p1 overForMs s
  | .tjSample tj hbm => Sys2Proof.Machine.execTjSample tj hbm s
  | .emergencyClear thermal => Sys2Proof.Machine.execEmergencyClear thermal s
  | .thermtrip sensor => Sys2Proof.Machine.execThermtrip sensor s
  | .pmbusPoll recs => Sys2Proof.Machine.execPmbusPoll recs s
  | .pmbusScan found => Sys2Proof.Machine.execPmbusScan found s
  | .pmbAlertN recs => Sys2Proof.Machine.execPmbAlertN recs s
  | .railMeasurement vin vaux rails => Sys2Proof.Machine.execRailMeasurement vin vaux rails s
  | .refclkLoss => Sys2Proof.Machine.execRefclkLoss s
  | .clockLost => Sys2Proof.Machine.execClockLost s
  | .refclkReturn => Sys2Proof.Machine.execRefclkReturn s
  | .droopStretch slot begins => Sys2Proof.Machine.execDroopStretch slot begins s
  | .ppsInEdge at2 => Sys2Proof.Machine.execPpsInEdge at2 s
  | .ppsOutSecond rise => Sys2Proof.Machine.execPpsOutSecond rise s
  | .vauxInRange => Sys2Proof.Machine.execVauxInRange s
  | .ethLinkChange port code => Sys2Proof.Machine.execEthLinkChange port code s
  | .mgmtLinkChange up => Sys2Proof.Machine.execMgmtLinkChange up s
  | .pcieLinkChange rate width flit => Sys2Proof.Machine.execPcieLinkChange rate width flit s
  | .ppsInAbsent => Sys2Proof.Machine.execPpsInAbsent s
  | .tapTckEdge rising tms tdi => Sys2Proof.Machine.execTapTckEdge rising tms tdi s
  | .trstNAssert => Sys2Proof.Machine.execTrstNAssert s

end Sys2Proof.Machine
end

