-- ==== Sys2Proof/Machine/Idle.lean ====
section
/-!
DEFINITION. What the block does when no command waits: one croft cycle passes (01_croft_anatomy.md R35; log 39), in which the Fohal
ports send (09_fohal_scale_out.md R262, R277).
-/

namespace Sys2Proof.Machine

/-- The flit times of the Fohal ports that end within a span of elapsed time: what the device has sent is laid out as flits, and the
ports grant them (09_fohal_scale_out.md R260, R262, R277). -/
def Dev.fohalTime (units : Nat) (d : Dev) : Dev := if d.power.main then d.ship.pump units else d

/-- The device after one croft cycle at the present throttle level. -/
def Dev.tick (d : Dev) : Dev := (d.fohalTime (cycleUnits d.power.level.val)).pass (cycleUnits d.power.level.val)

/-- One croft cycle in which nothing else happens. -/
def execIdle (s : State) : Host.Outcome State Fault Refusal := effect Dev.tick s

end Sys2Proof.Machine
end

