-- ==== Sys2Proof/WellFormed.lean ====
section
/-!
DEFINITION. Which commands can happen: an operand that the device's own construction rules out makes a command
ill-formed. `exec` answers every command all the same; what holds of well-formed commands only says so as a premise.
-/

namespace Sys2Proof

/-- No element twice. -/
def distinct {α : Type} [DecidableEq α] : List α → Bool
  | [] => true
  | a :: t => !t.contains a && distinct t

/-- The PMBus addresses that are scanned, 0x40 to 0x4F, each at most once (11_object_dictionary.md R353). -/
def pmbusAddresses (l : List Nat) : Bool := distinct l && l.all fun a => 0x40 ≤ a && a ≤ 0x4F

/-- Whether a command's operands are such as the device can meet with. -/
def WellFormed : Instr → Bool
  -- Bailiff binds each croft to one slot and each slot to one croft (01_croft_anatomy.md R38, R39).
  | .mapChanged _ binds => distinct (binds.map (·.1)) && distinct (binds.map (·.2))
  -- 112 junction sensors and 12 stacks (16_power_clocks_thermal.md R448).
  | .tjSample tj hbm => tj.length == 112 && hbm.length == 12
  -- 123 rails (16_power_clocks_thermal.md R440).
  | .railMeasurement _ _ rails => rails.length == 123
  | .pmbusPoll recs => pmbusAddresses (recs.map (·.address))
  | .pmbAlertN recs => pmbusAddresses (recs.map (·.address))
  | .pmbusScan found => pmbusAddresses (found.map (·.address))
  -- The hub connects to two nodes, through one port on each (08_mesh_and_memory.md R230).
  | .routerFailure .hubPort node => node == (5, 0) || node == (6, 0)
  -- 24 LPDDR5X subsystems (08_mesh_and_memory.md R252).
  | .powerUpSequence m => m.lpddr.length == 24
  -- Nine lanes each way (09_fohal_scale_out.md R258).
  | .portPhaseDone _ (.measured loss _) => loss.length == 9
  -- The row is a write of CONFIG with ENABLE 1, or with ENABLE 0 (10_queues_and_hub.md R306).
  | .queueEnable _ config => config.getLsbD 31
  | .queueDisable _ config => !config.getLsbD 31
  -- A store to MB_CONTROL with GO, or one with DONE and without GO (11_object_dictionary.md R345).
  | .mailboxGo value => value.getLsbD 0
  | .mailboxDoneClear value => value.getLsbD 2 && !value.getLsbD 0
  | _ => true

end Sys2Proof
end

