-- ==== Sys2Proof/Safety.lean ====
section
/-!
DEFINITION. What the statements mean by a sound state, and by a device apart from what every command may touch.
-/

namespace Sys2Proof.Machine

/-- Every byte memory is in its canonical form: device memory, the Granary of each croft, what a slot without a croft still
shows of its own, the flashes' further regions, the SRAM of each firmware core, and the messages being received. -/
def Dev.memoriesWf (d : Dev) : Prop :=
  Cells.wf d.mem = true ∧ (∀ x ∈ d.crofts, Cells.wf x.granary = true) ∧ (∀ t ∈ d.slots, Cells.wf t.view = true)
    ∧ (∀ m ∈ d.boot.regions, Cells.wf m = true) ∧ (∀ k ∈ d.boot.cores, Cells.wf k.sram = true) ∧ (∀ p ∈ d.fabric.partials, Cells.wf p.bytes = true)

/-- Every command that waits is well-formed. -/
def State.wellQueued (s : State) : Prop := ∀ c ∈ s.pending, WellFormed c = true

/-- The logs apart from the trace ring and the time of its last record. -/
def Logs.bare (l : Logs) : Logs := { l with trace := [], traceSeq := 0, overruns := 0, traceLast := none }

/-- The device apart from what every command may touch: the versions of the dictionary's values
(11_object_dictionary.md R343), the trace ring (13_checking_replay_test.md R392), and the model's draw counter. -/
def Dev.bare (d : Dev) : Dev :=
  { d with hub := { d.hub with versions := [] }, logs := d.logs.bare, freeCount := 0 }

/-- The sizes of a croft's register files, stores and unit lists (01_croft_anatomy.md R12, R20, R21, R28; 04_lane_generators.md
R101; 07_croft_instruction_set.md R197, R206), in the croft and in its step record. -/
structure Croft.Shaped (x : Croft) : Prop where
  ctxs    : x.ctxs.length = 64
  areg    : x.seq.areg.length = 16
  cnt     : x.seq.cnt.length = 8
  sems    : x.seq.sems.length = 32
  queues  : x.units.queues.length = 9
  mill    : x.units.mill.length = 4
  drain   : x.units.drain.length = 4
  row     : x.units.row.length = 4
  banks   : x.banks.length = 4
  hand    : x.hand.length = 4
  lanes   : x.lanes.length = 5
  recAreg  : x.record.areg.length = 16
  recCnt   : x.record.cnt.length = 8
  recLanes : x.record.lanes.length = 5
  recCtxs  : x.record.ctxs.length = 64
  recBanks : x.record.banks.length = 4
  recHand  : x.record.hand.length = 4

/-- The device's lists have the sizes the hardware has: 80 slots, 64 job positions, 12 ports, 36 memory units, 16 sessions, 4
Ethernet ports, 32 role entries of 50 bytes, 6 classes of images, 23 firmware cores, 4 Well cells, 112 junction and 12 stack sensors; and every
croft is shaped. -/
structure Dev.Shaped (d : Dev) : Prop where
  crofts   : ∀ x ∈ d.crofts, x.Shaped
  slots    : d.slots.length = 80
  jobs     : d.jobs.length = 64
  ports    : d.fabric.ports.length = 12
  units    : d.units.errors.length = 36
  sessions : d.hub.sessions.length = 16
  eth      : d.hub.eth.length = 4
  commits  : d.hub.commits.length = 5
  running  : d.boot.running.length = 6
  cores    : d.boot.cores.length = 23
  roles    : d.settings.roleEntries.length = 32
  roleSize : ∀ e ∈ d.settings.roleEntries, e.length = 50
  cells    : d.well.cells.length = 4
  tj       : d.power.tj.length = 112
  hbm      : d.power.hbmTemp.length = 12

/-- The fuses of `t` are those of `d` with nothing unblown and nothing rewritten (15_boot_firmware_security.md R423). -/
structure Fuses.Grown (f g : Fuses) : Prop where
  deviceId       : g.deviceId = f.deviceId
  identitySeed   : g.identitySeed = f.identitySeed
  grade          : g.grade = f.grade
  rootKeyHash    : g.rootKeyHash = f.rootKeyHash
  productionLock : g.productionLock = f.productionLock
  debugPolicy    : g.debugPolicy = f.debugPolicy
  slotDisable    : g.slotDisable = f.slotDisable
  factoryRepair  : g.factoryRepair = f.factoryRepair
  ageRef         : g.ageRef = f.ageRef
  rootRevoked    : ∀ k, f.rootRevoked.getLsbD k = true → g.rootRevoked.getLsbD k = true
  wellRetired    : ∀ k, f.wellRetired.getLsbD k = true → g.wellRetired.getLsbD k = true
  rollback       : g.rollback.length = f.rollback.length ∧ ∀ c, f.rollback.getD c 0 ≤ g.rollback.getD c 0

/-- Every byte of device memory outside `n` bytes from `a` reads as before. -/
def Dev.memSame (d t : Dev) (a n : Nat) : Prop := ∀ k, k < a ∨ a + n ≤ k → readByte t.mem k = readByte d.mem k

/-- Every byte of a Granary outside `n` bytes from `a` reads as before. -/
def Croft.granarySame (x y : Croft) (a n : Nat) : Prop := ∀ k, k < a ∨ a + n ≤ k → readByte y.granary k = readByte x.granary k

/-- The number a decoded float stands for (02_mill_arithmetic.md R45); 0 for NaN and the infinities, which stand for none. -/
def Fval.rat : Fval → ℚ
  | .fin s m e => (if s then -1 else 1) * m * (2 : ℚ) ^ e
  | _ => 0

/-- The command answers a next state that keeps the queue of commands and whose device meets `P`. -/
def Answers (i : Instr) (s : State) (P : Dev → Prop) : Prop := ∃ t, exec i s = .next t ∧ t.pending = s.pending ∧ P t.dev

/-- The command answers a next state whose device is `e`, apart from what every command may touch: it changes what `e`
differs in from the device before, and nothing else. -/
def Becomes (i : Instr) (s : State) (e : Dev) : Prop := Answers i s fun t => t.bare = e.bare

/-! ## Requests of the dictionary (11_object_dictionary.md R333 to R345) -/

/-- The device apart from what a request's delivery touches: the sessions, the mailbox, what is sent and the pending
interrupts, and what every command may touch. -/
def Dev.doorless (d : Dev) : Dev :=
  { d.bare with hub := { d.bare.hub with sessions := [], mailbox := Mailbox.reset }, sent := [], irqs := [] }

/-- A door executes the request `m` with a role: it takes the message now, no kept reply answers it, and it is well formed. -/
structure Dev.Executes (d : Dev) (door : Door) (m : List Byte) (role : Nat) : Prop where
  taken  : d.takes door m = true
  fresh  : d.keptReply door (BitVec.ofNat 32 (leAt m 4 4)) = none
  inRole : d.doorRole door = some role
  formed : formatBad m = false

/-- `m` writes `bytes` to an entry, from offset 0, with no version asked for. -/
structure Writes (m : List Byte) (index sub : Nat) (bytes : List Byte) : Prop where
  isWrite : msgKind m = 2
  entry   : msgIndex m = index ∧ msgSub m = sub
  start   : msgOffset m = 0
  anyVer  : leAt m 0x14 4 = 0
  data    : m.drop 32 = bytes

/-- The reply of a door to `m` in `t`, where the request itself left `e`: the header of R336 with its status, then its data. -/
def Dev.Replied (e t : Dev) (door : Door) (m : List Byte) (status : Nat) (data : List Byte) : Prop :=
  ∃ bytes : List Byte, leAt bytes 0 1 = 1 ∧ leAt bytes 1 1 = msgKind m + 0x80 ∧ leAt bytes 2 1 = status
    ∧ (bytes.drop 4).take 4 = (m.drop 4).take 4 ∧ bytes.drop 32 = data ∧ match door with
      | .session _ => t.sent = e.sent ++ [.reply door bytes] ∧ t.hub.mailbox = e.hub.mailbox
      | .mailbox => t.sent = e.sent ∧ t.hub.mailbox.busy = false ∧ t.hub.mailbox.done = true
        ∧ t.hub.mailbox.replyLen = bytes.length ∧ t.hub.mailbox.reply.take bytes.length = bytes

/-- A request answered: the device is `e` but for the delivery, and the reply stands at the door. -/
def Dev.Answered (e : Dev) (door : Door) (m : List Byte) (status : Nat) (data : List Byte) (t : Dev) : Prop :=
  t.doorless = e.doorless ∧ e.Replied t door m status data

/-- An SPDM request is written whole at a door that may write it, to a responder in state `x` that waits for no nonce
(12_determinism_and_ledger.md R369). -/
structure Dev.Asks (d : Dev) (door : Door) (req : List Byte) (x : Spdm) : Prop where
  awake  : d.power.aux = true ∧ d.power.main = true ∧ d.pins.resetIn = false ∧ 2 ≤ d.boot.step
  inRole : (d.doorRole door).isSome = true
  here   : d.spdm door = some x
  idle   : d.spdmWaits door = false
  sized  : 4 ≤ req.length ∧ req.length ≤ 1024

/-- The device with the responder of a door in state `y`, and the door used now. -/
def Dev.withSpdm (d : Dev) (door : Door) (y : Spdm) : Dev := (d.onSpdm door fun _ => y).touch door

/-- A responder's state with one more answer. -/
def Spdm.answers (x : Spdm) (resp : List Byte) : Spdm := { x with response := resp, changes := x.changes + 1 }

/-! ## Issue (07_croft_instruction_set.md R193 to R207) -/

/-- The sequencer of croft `c` issues `w` now: the croft runs on its slot, `w` is the word at its position, the header
wait of an instruction that the sequencer executes is met, and `w` is not poisoned and raises no fault at issue. A fenced slot starts
no further step (13_checking_replay_test.md R377). -/
structure Dev.Issues (d : Dev) (c : CroftRef) (x : Croft) (job : Job) (w : InstrWord) : Prop where
  isCroft  : d.croft c = some x
  isJob    : d.job c.job = some job
  running  : x.seq.state = .running
  resident : d.resident x = true
  unfenced : d.stepHeld x = false
  inside   : x.seq.pc < x.seq.count
  sound    : x.wordLost = false
  word     : x.wordAt x.seq.pc = w
  clean    : x.issueFaults w job = []
  ready    : InstrWord.waitEn w = false ∨ (InstrWord.queue w).isSome = true ∨ x.seq.claimed = true
    ∨ x.sem (InstrWord.waitSem w) ≠ 0

/-- The rows of the table that issue an instruction, each with its operation (R195). -/
def issueRows : List (Op × (CroftRef → Instr)) :=
  [(.nop, .ctrlNop), (.seta, .ctrlSeta), (.adda, .ctrlAdda), (.setc, .ctrlSetc), (.addc, .ctrlAddc), (.loop, .ctrlLoop),
   (.jump, .ctrlJump), (.cinit, .ctrlCinit), (.csave, .ctrlCsave), (.crest, .ctrlCrest), (.end_, .ctrlEnd),
   (.chk, .syncChk), (.wait, .syncWait), (.sig, .syncSig), (.fence, .syncFence), (.bar, .syncBar)]
  ++ [(.mm, .millMm), (.red, .drainRed), (.emit, .drainEmit), (.bern, .sampBern), (.gibbs, .sampGibbs), (.gumb, .sampGumb),
   (.take, .sampTake), (.mask, .sampMask), (.fill, .sampFill), (.load, .fieldLoad), (.sweep, .fieldSweep), (.snap, .fieldSnap),
   (.read, .fieldRead), (.dma, .moveDma), (.zero, .moveZero), (.put, .meshPut), (.mcast, .meshMcast)]

/-- A croft with the head of a queue taken and the head's wait subtracted (R207). -/
def Croft.taken (x : Croft) (q : QueueId) (w : InstrWord) : Croft :=
  if InstrWord.waitEn w then (x.dequeue (QueueId.index q)).subSem (InstrWord.waitSem w) 1 (InstrWord.ownSem w)
  else x.dequeue (QueueId.index q)

/-- The instruction `i` at the head of queue `q` of croft `c` may start: the croft runs on its slot, the unit is free, its
header wait is met, no start that comes first takes the semaphore's last count (R209), no interlock or missing croft holds it, and it raises no fault at its start (R196, R207, R471). -/
structure Dev.Starts (d : Dev) (c : CroftRef) (x : Croft) (j : Job) (q : QueueId) (i : Issued) (rest : List Issued) (op : Op)
    (r : Running) : Prop where
  isCroft  : d.croft c = some x
  isJob    : d.job c.job = some j
  resident : d.resident x = true
  head     : x.units.queues.getD (QueueId.index q) [] = i :: rest
  isOp     : InstrWord.operation i.word = some op
  read     : r = ⟨i, if op = .mm then [] else x.peek i, false⟩
  free     : x.running (InstrWord.unitOf i.word) = none
  waited   : InstrWord.waitEn i.word = false ∨ x.sem (InstrWord.waitSem i.word) ≠ 0
  first    : x.outranked (QueueId.index q) i.word = false
  clear    : x.interlocked r = false
  whole    : descReadable i.word op = true
  there    : d.transferHolds c op r.desc j = false
  clean    : d.startFaults c (x.taken q i.word) j r ++ (x.taken q i.word).storeFaults r = []
  sane     : (x.taken q i.word).descPoisoned i.word op = false

/-- A croft once the header wait of an instruction that the sequencer executes itself is taken (R207). -/
def Croft.claim (x : Croft) (w : InstrWord) : Croft :=
  let waits := InstrWord.waitEn w && (InstrWord.queue w).isNone && !x.seq.claimed
  let y := if waits then x.subSem (InstrWord.waitSem w) 1 true else x
  { y with seq := { y.seq with claimed := y.seq.claimed || waits } }

/-- A semaphore's value once the header wait of an instruction that the sequencer executes itself is taken (R207). -/
def Croft.semClaimed (x : Croft) (w : InstrWord) (k : Nat) : Nat :=
  x.sem k - (if InstrWord.waitEn w && !x.seq.claimed && InstrWord.waitSem w == k then 1 else 0)

/-- What the completion signal of an instruction adds to a semaphore (R207). -/
def signalTo (w : InstrWord) (k : Nat) : Nat := if InstrWord.sigEn w && InstrWord.sigSem w == k then 1 else 0

/-- A semaphore's value after the header wait and the completion signal (R207). -/
def Croft.semAfter (x : Croft) (w : InstrWord) (k : Nat) : Nat := x.semClaimed w k + signalTo w k

/-- The completion signal does not take its semaphore past 65,535, where `sem` gives the values after the instruction. -/
def signalFits (w : InstrWord) (sem : Nat → Nat) : Prop := InstrWord.sigEn w = true → sem (InstrWord.sigSem w) ≤ 65535

/-- The device after the sequencer of croft `c` executed `w` itself: position, address registers, counters and semaphores as
given, one more issue in the step; nothing else in the croft or the device, but for the journal of the step's own additions
(R215). -/
def Dev.Executed (d : Dev) (c : CroftRef) (x : Croft) (next : Nat) (areg : List AddrReg) (cnt : List Word32) (sem : Nat → Nat)
    (t : Dev) : Prop :=
  ∃ y : Croft, t.croft c = some y ∧ t.bare = (d.setCroft y).bare
    ∧ y = { x with seq := { x.seq with
        pc := next, held := false, claimed := false, inStep := x.seq.inStep + 1, nextSeq := x.seq.nextSeq + 1
        areg := areg, cnt := cnt, sems := y.seq.sems, semOwn := y.seq.semOwn } }
    ∧ y.seq.sems.length = x.seq.sems.length ∧ ∀ k < x.seq.sems.length, y.sem k = sem k

/-- The device with croft `c` held at its instruction, whose header wait is taken. -/
def Dev.Held (d : Dev) (c : CroftRef) (x : Croft) (w : InstrWord) (t : Dev) : Prop :=
  ∃ y : Croft, t.croft c = some y ∧ t.bare = (d.setCroft y).bare
    ∧ y = { x with seq := { x.seq with
        held := true, claimed := y.seq.claimed, sems := y.seq.sems, semOwn := y.seq.semOwn } }
    ∧ y.seq.sems.length = x.seq.sems.length ∧ ∀ k < x.seq.sems.length, y.sem k = x.semClaimed w k

end Sys2Proof.Machine
end

