-- ==== Sys2Proof/Certificates/Slice0/Obligations.lean ====
section
/-!
DEFINITION. The statements for the provers, from the rules of spec/ chapter by chapter.
-/

open Sys2Proof Sys2Proof.Machine

/-! ## The block as a machine -/

/-- A step takes the command at the front of the queue, whatever it is: it is what `exec` answers for it with the queue's
rest. -/
def Obligations.StepRunsTheFront : Prop := ∀ (c : Instr) (rest : List Instr) (d : Dev),
  step ⟨c :: rest, d⟩ = exec c ⟨rest, d⟩

/-- With no command waiting one croft cycle passes (the model's choice, log 39): elapsed time moves by its length, every
island in Run counts one cycle unless it is stretched or an emergency stands, and every other island none; memory, jobs, and
the crofts of seeded jobs stay. The Fohal ports may send. -/
def Obligations.IdleTick : Prop := ∀ d : Dev, ∃ t, step ⟨[], d⟩ = .next t ∧ t.pending = []
  ∧ t.dev.time.elapsed = d.time.elapsed + cycleUnits d.power.level.val ∧ t.dev.time.offset = d.time.offset
  ∧ (∀ (n : Fin 80) (u : Slot), d.slot n = some u → ∃ v, t.dev.slot n = some v
      ∧ (u.island ≠ .run ∨ d.emergency = true → v = u)
      ∧ (u.island = .run → d.emergency = false → u.stretched = false → v = { u with cycles := u.cycles + 1 }))
  ∧ (∀ (c : CroftRef) (x : Croft) (job : Job), d.croft c = some x → d.job c.job = some job → job.params.laneFree = false →
      t.dev.croft c = some x)
  ∧ t.dev.mem = d.mem ∧ t.dev.jobs = d.jobs ∧ t.dev.cmds = d.cmds ∧ t.dev.logs.bare = d.logs.bare

/-- What reset leaves where the rules give the value: every queue control block with CLASS throughput and nothing else set,
every Fohal port DOWN, FABRIC_ADDR unassigned, TABLE topology, the settings' defaults, TIME_STATE FREE, the Well DISABLED,
the model check empty, no interrupt pending, the instruction register of the TAP at IDCODE. The invariants of the next three
statements hold at reset. -/
def Obligations.ResetState : Prop :=
  (let d := State.reset.dev
   State.reset.pending = []
   ∧ (∀ q : Fin 16384, (d.queue q).config = 1 * 2 ^ 28 ∧ (d.queue q).sqBase = 0 ∧ (d.queue q).irqVector = 0)
   ∧ (∀ q ∈ d.fabric.ports, q.state = .down ∧ q.sendSeq = 0 ∧ q.replay = [])
   ∧ d.live.fabricAddr = 0x7FFF ∧ d.live.topology = 1 ∧ d.live.detEnable = true ∧ d.live.longSum = 0 ∧ d.shadow = d.live
   ∧ d.settings.syncWaitLimit = 1000000 ∧ d.settings.haloTimeout = 10000 ∧ d.settings.meshAckLimit = 100000
   ∧ d.settings.collStepLimit = 100000 ∧ d.settings.ageLimit = 250 ∧ d.settings.replayRate = 16
   ∧ d.fabric.timeState = .free ∧ d.well.phase = .disabled ∧ d.well.queue = []
   ∧ d.hub.model = ⟨0, 0, 0xFFFFFFFF, 0xFFFFFFFF⟩ ∧ d.irqs = [] ∧ d.noJob = true ∧ d.tap.ir = 1
   ∧ d.power.emPower = false ∧ d.power.emThermal = false ∧ d.power.main = false)
  ∧ (State.reset.dev.memoriesWf ∧ State.reset.dev.Shaped)

/-- Every step keeps every byte memory in its canonical form. -/
def Obligations.MemoriesKept : Prop := ∀ s t : State, s.dev.memoriesWf → step s = .next t → t.dev.memoriesWf

/-- Every step keeps the sizes of the register files, stores and tables of the device and of its crofts, while the commands
that wait are well-formed; and those that still wait stay so. -/
def Obligations.ShapesKept : Prop := ∀ s t : State, s.dev.Shaped → s.wellQueued → step s = .next t →
  t.dev.Shaped ∧ t.wellQueued

/-- No step changes a fuse of manufacture or restores a blown bit: the device, its keys and grade stay, a revoked key and a
retired cell stay so, and no anti-rollback counter falls. -/
def Obligations.FusesKept : Prop := ∀ s t : State, step s = .next t → s.dev.fuses.Grown t.dev.fuses

/-! ## Issue of the instructions that the sequencer executes itself (07_croft_instruction_set.md R199, R206 to R211) -/

/-- CTRL.SETA writes BASE and STRIDE into A[AREG]; CTRL.ADDA adds IMM, or IMM x CNT[CREG] when CMUL is set, to A[AREG].BASE
modulo 2^26 and leaves its STRIDE. Both move on to the next instruction, wait and signal by R207, and leave everything else
of the croft and the device as it was. -/
def Obligations.AddressRegisterInstructions : Prop := ∀ (s : State) (c : CroftRef) (x : Croft) (job : Job) (w : InstrWord), s.dev.Issues c x job w → signalFits w (x.semAfter w) →
    let r := bitsOf w.toNat 100 4
    let a := x.seq.areg.getD r ⟨0, 0⟩
    let k : Int := if w.getLsbD 96 then ((x.seq.cnt.getD (bitsOf w.toNat 97 3) 0).toNat : Int) else 1
    (InstrWord.operation w = some .seta →
      Answers (.ctrlSeta c) s (s.dev.Executed c x (x.seq.pc + 1)
        (x.seq.areg.set r ⟨BitVec.ofNat 26 (bitsOf w.toNat 70 26), BitVec.ofNat 26 (bitsOf w.toNat 44 26)⟩) x.seq.cnt
        (x.semAfter w)))
    ∧ (InstrWord.operation w = some .adda →
      Answers (.ctrlAdda c) s (s.dev.Executed c x (x.seq.pc + 1)
        (x.seq.areg.set r ⟨a.base + BitVec.ofInt 26 (signedOf 27 (bitsOf w.toNat 69 27) * k), a.stride⟩) x.seq.cnt
        (x.semAfter w)))

/-- CTRL.SETC writes VALUE into CNT[CREG], CTRL.ADDC adds it modulo 2^32, and CTRL.LOOP takes 1 from it modulo 2^32 and goes
to this instruction plus OFFSET when the result is not zero, else to the next. CTRL.NOP does nothing but move on; CTRL.JUMP
goes to this instruction plus OFFSET. -/
def Obligations.CountRegistersAndBranches : Prop :=
  (∀ (s : State) (c : CroftRef) (x : Croft) (job : Job) (w : InstrWord), s.dev.Issues c x job w → signalFits w (x.semAfter w) →
     let r := bitsOf w.toNat 97 3
     let n := x.seq.cnt.getD r 0
     let v := BitVec.ofNat 32 (bitsOf w.toNat 64 32)
     (InstrWord.operation w = some .setc →
       Answers (.ctrlSetc c) s (s.dev.Executed c x (x.seq.pc + 1) x.seq.areg (x.seq.cnt.set r v) (x.semAfter w)))
     ∧ (InstrWord.operation w = some .addc →
       Answers (.ctrlAddc c) s (s.dev.Executed c x (x.seq.pc + 1) x.seq.areg (x.seq.cnt.set r (n + v)) (x.semAfter w)))
     ∧ (InstrWord.operation w = some .loop → r < x.seq.cnt.length →
       Answers (.ctrlLoop c) s (s.dev.Executed c x
         (if n = 1 then x.seq.pc + 1 else (x.seq.pc + signedOf 16 (bitsOf w.toNat 80 16)).toNat)
         x.seq.areg (x.seq.cnt.set r (n - 1)) (x.semAfter w))))
  ∧ (∀ (s : State) (c : CroftRef) (x : Croft) (job : Job) (w : InstrWord), s.dev.Issues c x job w → signalFits w (x.semAfter w) →
       (InstrWord.operation w = some .nop →
         Answers (.ctrlNop c) s (s.dev.Executed c x (x.seq.pc + 1) x.seq.areg x.seq.cnt (x.semAfter w)))
       ∧ (InstrWord.operation w = some .jump →
         Answers (.ctrlJump c) s (s.dev.Executed c x (x.seq.pc + signedOf 20 (bitsOf w.toNat 76 20)).toNat
           x.seq.areg x.seq.cnt (x.semAfter w))))

/-- SYNC.WAIT, once SEM is at least COUNT, subtracts COUNT and goes on; below COUNT it is held with the semaphore as it was.
SYNC.SIG with REMOTE = 0 adds COUNT to SEM; with REMOTE = 1 the signal waits for the end of the step. SYNC.FENCE goes on once
nothing issued to a queue of QMASK is incomplete, and is held until then. -/
def Obligations.SemaphoreInstructions : Prop := ∀ (s : State) (c : CroftRef) (x : Croft) (job : Job) (w : InstrWord), s.dev.Issues c x job w →
    let k := bitsOf w.toNat 99 5
    let n := bitsOf w.toNat 68 16
    let less := fun i => x.semClaimed w i - (if k = i then n else 0) + signalTo w i
    let more := fun i => x.semClaimed w i + (if k = i then n else 0) + signalTo w i
    let moved : (Nat → Nat) → Dev → Prop := s.dev.Executed c x (x.seq.pc + 1) x.seq.areg x.seq.cnt
    (InstrWord.operation w = some .wait → n ≤ x.semClaimed w k → signalFits w less → Answers (.syncWait c) s (moved less))
    ∧ (InstrWord.operation w = some .wait → k < x.seq.sems.length → x.semClaimed w k < n → Answers (.syncWait c) s (s.dev.Held c x w))
    ∧ (InstrWord.operation w = some .sig → w.getLsbD 98 = false → x.semClaimed w k + n ≤ 65535 → signalFits w more →
      Answers (.syncSig c) s (moved more))
    ∧ (InstrWord.operation w = some .sig → w.getLsbD 98 = true → signalFits w (x.semAfter w) →
      Answers (.syncSig c) s (s.dev.Executed c { x with seq := { x.seq with signals := x.seq.signals ++
          [⟨bitsOf w.toNat 45 15, Fin.ofNat 256 (bitsOf w.toNat 60 8), Fin.ofNat 32 k, BitVec.ofNat 16 n⟩] } }
        (x.seq.pc + 1) x.seq.areg x.seq.cnt (x.semAfter w)))
    ∧ (InstrWord.operation w = some .fence → x.fenceBusy (bitsOf w.toNat 84 9) = false → signalFits w (x.semAfter w) →
      Answers (.syncFence c) s (moved (x.semAfter w)))
    ∧ (InstrWord.operation w = some .fence → x.fenceBusy (bitsOf w.toNat 84 9) = true → Answers (.syncFence c) s (s.dev.Held c x w))

/-- CTRL.CINIT gives contexts C0 to C0 + COUNT - 1 the initial state of R31, context C0 + i with CHAIN + i modulo 2^16, and
leaves every other context, and everything else of the croft and the device, as it was; the count of the run in progress
follows when its run context is among them (R367). -/
def Obligations.ContextInitialise : Prop := ∀ (s : State) (c : CroftRef) (x : Croft) (job : Job) (w : InstrWord), s.dev.Issues c x job w → signalFits w (x.semAfter w) →
    InstrWord.operation w = some .cinit →
    let lo := bitsOf w.toNat 98 6
    let n := bitsOf w.toNat 91 7
    1 ≤ n → lo + n ≤ 64 → x.ctxBusy lo n = false →
      Answers (.ctrlCinit c) s fun t => ∃ (ctxs : List Ctx) (lost : List WordLoc) (runs : List FieldRunRec),
        s.dev.Executed c { x with ctxs := ctxs, lost := lost, runs := runs } (x.seq.pc + 1) x.seq.areg x.seq.cnt (x.semAfter w) t
        ∧ (¬ (lo ≤ x.field.ctx ∧ x.field.ctx < lo + n) → runs = x.runs)
        ∧ (lo ≤ x.field.ctx → x.field.ctx < lo + n → x.ctxs.length = 64 →
          runs = modifyAt x.runs (x.runs.length - 1) fun q => { q with sweeps := 0 })
        ∧ (∀ l ∈ lost, l ∈ x.lost) ∧ ctxs.length = x.ctxs.length
        ∧ ∀ k < x.ctxs.length, ctxs[k]? =
          if lo ≤ k ∧ k < lo + n then some
            { valid := w.getLsbD 90, comp := false, kind := BitVec.ofNat 2 (bitsOf w.toNat 88 2), tiles := 0
              chain := BitVec.ofNat 16 (bitsOf w.toNat 72 16 + (k - lo)), rowMax := 0xFF800000, expHi := 0, expLo := 0
              redMax := 0xFF800000, redMaxIdx := 0, redMin := 0x7F800000, redMinIdx := 0, drawBest := 0xFF800000
              drawBestIdx := 0, lastClass := BitVec.ofNat 8 (bitsOf w.toNat 64 8), cls := 0, drawCount := 0, sweeps := 0
              gen := ⟨false, false, 0, 0, 0, 0, 0⟩ }
          else x.ctxs[k]?

/-- CTRL.CSAVE writes the 2,048-byte images of contexts C0 to C0 + COUNT - 1 at DADDR x 2,048 and up, and no other byte of
device memory; the croft only moves on. CTRL.CREST restores contexts C0 to C0 + COUNT - 1 from the images at DADDR x 2,048
and up. In a free-mode job the position of a context is dropped, and nothing else of the croft changes but its position in
the program; the count of the run in progress is SWEEPS of its run context once that is restored (R189, R367). -/
def Obligations.ContextSaveAndRestore : Prop :=
  (∀ (s : State) (c : CroftRef) (x : Croft) (job : Job) (w : InstrWord), s.dev.Issues c x job w → signalFits w (x.semAfter w) →
     InstrWord.operation w = some .csave → s.dev.memoriesWf →
     let lo := bitsOf w.toNat 98 6
     let n := bitsOf w.toNat 91 7
     let a := bitsOf w.toNat 32 32 * 2048
     let images := ((x.ctxs.drop lo).take n).flatMap Ctx.image
     1 ≤ n → lo + n ≤ 64 → x.ctxBusy lo n = false → (boundSets ((x.ctxs.drop lo).take n)).any x.setBusy = false →
     outsideTiers a (2048 * n) = false → s.dev.units.unbackedIn a (2048 * n) = false → s.dev.mesh.broken = false →
     x.ctxLost lo n = false →
       Answers (.ctrlCsave c) s fun t =>
         (s.dev.write a images).Executed c x (x.seq.pc + 1) x.seq.areg x.seq.cnt (x.semAfter w) t
         ∧ s.dev.memSame t a images.length ∧ ∀ i < images.length, some (readByte t.mem (a + i)) = images[i]?)
  ∧ (∀ (s : State) (c : CroftRef) (x : Croft) (job : Job) (w : InstrWord), s.dev.Issues c x job w → signalFits w (x.semAfter w) →
       InstrWord.operation w = some .crest →
       let lo := bitsOf w.toNat 98 6
       let n := bitsOf w.toNat 91 7
       let a := bitsOf w.toNat 32 32 * 2048
       let image := fun (i : Nat) => readBytes s.dev.mem (a + 2048 * i) 2048
       1 ≤ n → lo + n ≤ 64 → x.ctxBusy lo n = false → outsideTiers a (2048 * n) = false →
       s.dev.units.unbackedIn a (2048 * n) = false → s.dev.mesh.broken = false → meetsPoison s.dev.memPoison a (2048 * n) = false →
       (∀ i < n, genBlockBad (image i) = false) →
       (job.params.laneFree = false → ∀ i < n, ∀ k, (ctxOfImage (image i)).gen.bound = true →
         (ctxOfImage (image i)).gen.setNo = k → x.setBusy k = false) →
         Answers (.ctrlCrest c) s fun t => ∃ (ctxs : List Ctx) (lanes : List LaneSet) (field : FieldSt) (lost : List WordLoc)
             (runs : List FieldRunRec),
           s.dev.Executed c { x with ctxs := ctxs, lanes := lanes, field := field, lost := lost, runs := runs } (x.seq.pc + 1)
             x.seq.areg x.seq.cnt (x.semAfter w) t
           ∧ (¬ (lo ≤ x.field.ctx ∧ x.field.ctx < lo + n) → runs = x.runs)
           ∧ (lo ≤ x.field.ctx → x.field.ctx < lo + n → x.ctxs.length = 64 →
             runs = modifyAt x.runs (x.runs.length - 1) fun q => { q with sweeps := (ctxOfImage (image (x.field.ctx - lo))).sweeps })
           ∧ (∀ l ∈ lost, l ∈ x.lost) ∧ ctxs.length = x.ctxs.length ∧ lanes.length = x.lanes.length
           ∧ (∀ k < x.ctxs.length, (ctxs[k]?).map (fun v => { v with gen := GenBlock.initial }) =
               if lo ≤ k ∧ k < lo + n then some { ctxOfImage (image (k - lo)) with gen := GenBlock.initial }
               else (x.ctxs[k]?).map fun v => { v with gen := GenBlock.initial })
           ∧ (job.params.laneFree = true → lanes = x.lanes ∧ ∀ k < x.ctxs.length, lo ≤ k → k < lo + n →
               (ctxs[k]?).map (·.gen) = some GenBlock.initial)
           ∧ (job.params.laneFree = false → n = 1 → (ctxOfImage (image 0)).gen.bound = true → lo < x.ctxs.length →
               let g := (ctxOfImage (image 0)).gen
               lanes = x.lanes.set g.setNo ⟨g.seed, g.family, g.firstLane, g.count.toNat, [], false⟩)
           ∧ field = { x.field with synced := field.synced, store := field.store })

/-- A context's image restored is the context. -/
def Obligations.ContextImageRoundTrip : Prop := ∀ v : Ctx, (Ctx.image v).length = 2048 ∧ ctxOfImage (Ctx.image v) = v

/-- At a step boundary that nothing holds, SYNC.CHK, SYNC.BAR and CTRL.END open a new step and write the step record; the
step's pending signals leave in program order, those for this device into its own list and the others to the outside. After
SYNC.CHK the croft goes on, at SYNC.BAR it waits for its barrier, and CTRL.END stops it. Memory and the other crofts stay as
they were. -/
def Obligations.StepBoundaries : Prop := ∀ (s : State) (c : CroftRef) (x : Croft) (job : Job) (w : InstrWord), s.dev.Issues c x job w → signalFits w (x.semAfter w) →
    let here := (x.seq.signals.map fun p => p.toRemote c job.params.ldev).filter fun g => g.tgtDev == job.params.ldev
    let there := (x.seq.signals.map fun p => p.toRemote c job.params.ldev).filter fun g => g.tgtDev != job.params.ldev
    let opened : SeqState → Dev → Prop := fun st t =>
      (∃ y : Croft, t.croft c = some y ∧ y.seq.state = st ∧ y.seq.pc = x.seq.pc + 1 ∧ y.seq.step = x.seq.step + 1
        ∧ y.seq.inStep = 0 ∧ y.seq.held = false ∧ y.seq.signals = [] ∧ y.seq.areg = x.seq.areg ∧ y.seq.cnt = x.seq.cnt
        ∧ y.record = ⟨x.seq.pc + 1, x.seq.areg, x.seq.cnt, y.seq.sems, x.lanes, x.ctxs, x.banks, x.hand, x.tally⟩
        ∧ y.granary = x.granary ∧ y.ctxs = x.ctxs ∧ y.lanes = x.lanes ∧ y.banks = x.banks ∧ y.field = x.field
        ∧ y.units = x.units ∧ y.failures = 0)
      ∧ t.signals = s.dev.signals ++ here ∧ t.sent = s.dev.sent ++ there.map Sent.signal
      ∧ (∀ c' : CroftRef, c' ≠ c → t.croft c' = s.dev.croft c') ∧ t.mem = s.dev.mem ∧ t.jobs = s.dev.jobs
      ∧ t.queues = s.dev.queues ∧ t.power = s.dev.power
    (InstrWord.operation w = some .chk → x.drained false = true → Answers (.syncChk c) s (opened .running))
    ∧ (InstrWord.operation w = some .bar → x.drained false = true →
      Answers (.syncBar c) s (opened (.barrier (w.getLsbD 93) (bitsOf w.toNat 94 4) (bitsOf w.toNat 21 24) false)))
    ∧ (InstrWord.operation w = some .end_ → x.drained true = true → Answers (.ctrlEnd c) s (opened .stopped))
    ∧ (∀ p ∈ issueRows, p.1 = .chk ∨ p.1 = .bar ∨ p.1 = .end_ → InstrWord.operation w = some p.1 →
      x.drained (p.1 == .end_) = false → Answers (p.2 c) s (s.dev.Held c x w))

/-- An instruction of a unit (MILL.MM, DRAIN.RED, DRAIN.EMIT, SAMP.BERN, SAMP.GIBBS, SAMP.GUMB, SAMP.TAKE, SAMP.MASK,
SAMP.FILL, FIELD.LOAD, FIELD.SWEEP, FIELD.SNAP, FIELD.READ, MOVE.DMA, MOVE.ZERO, MESH.PUT, MESH.MCAST) is put at the tail of
its unit's queue, with its place in the order of issue, its index and, for MILL.MM, the address registers it names as they
stand; the sequencer moves on. With the queue full it is held, and nothing behind it issues. Nothing else changes but the
hand-over state of the drain it names. -/
def Obligations.QueuedIssue : Prop := ∀ (s : State) (c : CroftRef) (x : Croft) (job : Job) (w : InstrWord) (q : Nat), s.dev.Issues c x job w →
    InstrWord.queue w = some q → x.seq.fieldSkip = 0 → x.units.queues.length = 9 →
    ∀ p ∈ issueRows, InstrWord.operation w = some p.1 →
      ((x.units.queues.getD q []).length < queueDepth q →
        Answers (p.2 c) s fun t => ∃ (y : Croft) (i : Issued), t.croft c = some y ∧ t.bare = (s.dev.setCroft y).bare
          ∧ i.seq = x.seq.nextSeq ∧ i.index = x.seq.pc ∧ i.word = w
          ∧ (InstrWord.cls w = 2 → i.regs = [100, 96, 92, 88].map fun b => x.seq.areg.getD (bitsOf w.toNat b 4) ⟨0, 0⟩)
          ∧ (∀ k < 9, y.units.queues[k]? = if k = q then some (x.units.queues.getD q [] ++ [i]) else x.units.queues[k]?)
          ∧ y = { x with
              hand := y.hand
              units := { x.units with queues := y.units.queues }
              seq := { x.seq with
                pc := x.seq.pc + 1, held := false, claimed := false, inStep := x.seq.inStep + 1
                nextSeq := x.seq.nextSeq + 1, fieldDone := y.seq.fieldDone } })
      ∧ ((x.units.queues.getD q []).length ≥ queueDepth q →
        Becomes (p.2 c) s (s.dev.setCroft { x with seq := { x.seq with held := true } }))

/-- An instruction that raises faults at issue, whichever row it belongs to, halts the job with the lowest code: the record
names the code, the step and the place of the instruction; every croft of the job stops issuing and its queues empty; the
launch that runs the croft ends with the code, and every other command of the job that is not yet over ends ABORTED. -/
def Obligations.IssueFaultHaltsJob : Prop := ∀ (s : State) (c : CroftRef) (x : Croft) (job : Job) (w : InstrWord) (code : Nat),
    s.dev.croft c = some x → s.dev.job c.job = some job → x.seq.state = .running → s.dev.resident x = true →
    s.dev.stepHeld x = false → x.seq.pc < x.seq.count → x.wordLost = false → x.wordAt x.seq.pc = w →
    lowest (x.issueFaults w job) = some code → job.fault = none →
    ∀ p ∈ issueRows, InstrWord.operation w = some p.1 ∨ (InstrWord.operation w = none ∧ p.1 = .nop) →
      Answers (p.2 c) s fun t =>
        (∃ q, t.job c.job = some q
          ∧ q.fault = some ⟨code, x.seq.step, faultDetail c.n.val job.params.ldev x.seq.pc⟩ ∧ q.params = job.params)
        ∧ (∀ y ∈ t.crofts, y.job = c.job → y.seq.state ≠ .running ∧ y.seq.held = false ∧ y.units.queues.flatten = [])
        ∧ (∀ y ∈ t.crofts, y.job ≠ c.job → y ∈ s.dev.crofts)
        ∧ (∀ q ∈ t.cmds, q.job = some c.job → q.opcode ≠ 0x09 → q.state = .finished)
        ∧ (∀ k, s.dev.commandOf c = some k → ∃ q ∈ t.cmds, q.id = k.id ∧ q.status = code ∧ q.result = BitVec.ofNat 64 x.seq.step)
        ∧ t.mem = s.dev.mem ∧ t.slots = s.dev.slots ∧ t.queues = s.dev.queues

/-! ## Units (07_croft_instruction_set.md R196, R207; 02_mill_arithmetic.md R58) -/

/-- The head of a queue that may start leaves its queue, subtracts its wait and runs on its unit; the sequencer's position,
the Granary, device memory and the other crofts stay as they were. A FIELD.LOAD takes its model, schedule and states as it
starts: no best energy, nothing committed, the run unsynchronised. A FIELD instruction of a run that is not synchronised
first sends its handshake on every HALO edge (R179), to the slot that the mesh unit's copy of the map gives a neighbour on
this device (R38). -/
def Obligations.InstructionStart : Prop := ∀ (s : State) (c : CroftRef) (x : Croft) (job : Job) (q : QueueId) (i : Issued) (rest : List Issued) (op : Op) (r : Running),
    s.dev.Starts c x job q i rest op r → x.Shaped → x.seq.held = false →
    let field := op = .sweep ∨ op = .snap ∨ op = .read
    ((field → x.field.synced = true ∨ haloEdges x.field.image = []) →
      Answers (.instructionStart c q) s fun t => ∃ (y : Croft) (u : Running), t.croft c = some y
        ∧ y.running (InstrWord.unitOf i.word) = some u ∧ u.ins = i ∧ u.landed = false
        ∧ (∀ k < 9, y.units.queues[k]? = if k = QueueId.index q then some rest else x.units.queues[k]?)
        ∧ (∀ k < 32, y.sem k =
            x.sem k - (if InstrWord.waitEn i.word ∧ InstrWord.waitSem i.word = k then 1 else 0))
        ∧ y.seq.pc = x.seq.pc ∧ y.seq.state = x.seq.state ∧ y.seq.areg = x.seq.areg ∧ y.seq.cnt = x.seq.cnt
        ∧ (op = .load →
          let ld := loadDesc r.desc
          y.field.ctx = ld.ctx ∧ y.field.synced = false ∧ y.field.phase = 0 ∧ y.field.committed = none ∧ y.field.pending = []
          ∧ y.field.snapAddr = ld.snap ∧ y.field.bestE = 2 ^ 63 - 1
          ∧ (y.field.image = if ld.hasModel then (readBytes x.granary ld.model 148032).toArray else x.field.image)
          ∧ (ld.hasStates = true → y.field.states = statesOf (readBytes x.granary ld.state 4096).toArray)
          ∧ (ld.hasStates = false → ld.hasModel = true → ∀ k, y.field.states.getD k false = false)
          ∧ y.field.eInt = energyInt y.field.image y.field.states)
        ∧ y.granary = x.granary ∧ t.mem = s.dev.mem ∧ (∀ c' : CroftRef, c' ≠ c → t.croft c' = s.dev.croft c')
        ∧ t.jobs = s.dev.jobs ∧ t.cmds = s.dev.cmds ∧ t.slots = s.dev.slots ∧ t.queues = s.dev.queues)
    ∧ (field → x.field.synced = false → x.field.handshakesIn = false →
      Answers (.instructionStart c q) s fun t => (∃ y : Croft, t.croft c = some y ∧ y.field.synced = false
          ∧ (y.units.field.map (·.ins)) = some i ∧ y.granary = x.granary)
        ∧ t.sent = s.dev.sent ++ (haloEdges x.field.image).filterMap (fun e => match edgeMode x.field.image e with
            | .halo dev n => some (.handshake c.job dev n
                (if dev = job.params.ldev then (s.dev.unitMap x true).slotOf ⟨x.job, Fin.ofNat 256 n⟩ else none)
                (opposite e) (x.handshake job.params.ldev job.params.staleness e))
            | _ => none)
        ∧ t.mem = s.dev.mem ∧ t.jobs = s.dev.jobs ∧ t.slots = s.dev.slots)

/-- A completed instruction frees its unit and adds its signal. A transfer whose data have landed changes nothing more; a
MILL.MM leaves its tile as the instruction computes it from the Granary and the weights of its passes. A MOVE.ZERO on the
croft's own Granary leaves zeros in every destination row, and a MOVE.DMA into it each source byte as it was before, the last
row deciding where rows overlap (log 8); every byte outside the rows stays. A DRAIN.RED leaves what its rows, taken in order,
make of the Granary, the contexts and the generators; it reports the tile's flags, and with RELEASE closes the tile. A
DRAIN.EMIT writes each context's record, a sampler instruction what its rows make, with its outputs counted and its hand-over
rows taken. A FIELD.LOAD has nothing left to do, a FIELD.SWEEP gives its contexts the set's position, a FIELD.SNAP writes the
states and their history padded with zeros, a FIELD.READ its record and, with BEST, the best states, and a MESH.MCAST the
mask that was delivered. -/
def Obligations.InstructionCompletion : Prop := ∀ (s : State) (c : CroftRef) (x : Croft) (job : Job) (u : UnitId) (r : Running),
    s.dev.croft c = some x → s.dev.job c.job = some job → x.running u = some r → x.Shaped → x.seq.held = false →
    x.seq.state ≠ .reeve → Cells.wf x.granary = true →
    (InstrWord.sigEn r.ins.word = true → x.sem (InstrWord.sigSem r.ins.word) + 1 ≤ 65535) →
    let w := r.ins.word
    let n := InstrWord.rows w
    let unit := InstrWord.unit w
    let free := job.params.laneFree
    let done : (Croft → Prop) → Dev → Prop := fun P t =>
      (∃ y : Croft, t.croft c = some y ∧ y.running u = none ∧ (∀ v, v ≠ u → y.running v = x.running v)
        ∧ (∀ k < 32, y.sem k = x.sem k + signalTo w k) ∧ y.seq.pc = x.seq.pc ∧ y.seq.areg = x.seq.areg
        ∧ y.units.queues = x.units.queues ∧ P y)
      ∧ t.mem = s.dev.mem ∧ (∀ c' : CroftRef, c' ≠ c → t.croft c' = s.dev.croft c') ∧ t.jobs = s.dev.jobs
      ∧ (free = false ∨ (InstrWord.cls w ≠ 3 ∧ InstrWord.cls w ≠ 4) → t.slots = s.dev.slots)
    let outside : List (Nat × Nat) → Croft → Prop := fun l y =>
      ∀ a, (∀ p ∈ l, a < p.1 ∨ p.1 + p.2 ≤ a) → readByte y.granary a = readByte x.granary a
    (InstrWord.operation w = some .dma ∨ InstrWord.operation w = some .zero ∨ InstrWord.operation w = some .put →
      r.landed = true →
      Answers (.instructionCompletion c u) s (done fun y => y.granary = x.granary ∧ y.banks = x.banks ∧ y.ctxs = x.ctxs))
    ∧ (∀ tile, InstrWord.operation w = some .mm →
      findTile (x.banks.getD (millOp r.ins).unit []) (millOp r.ins).m (millOp r.ins).tile = some tile →
      Answers (.instructionCompletion c u) s (done fun y => y.granary = x.granary ∧ y.ctxs = x.ctxs
        ∧ findTile (y.banks.getD (millOp r.ins).unit []) (millOp r.ins).m (millOp r.ins).tile
          = some ((millOp r.ins).apply (x.millPasses r).1 x.granary tile)))
    ∧ (InstrWord.operation w = some .zero → r.landed = false → (moveDesc r.desc).dst.isOwn = true →
      let m := moveDesc r.desc
      Answers (.instructionCompletion c u) s (done fun y => y.banks = x.banks ∧ y.ctxs = x.ctxs
        ∧ ∀ a, readByte y.granary a =
          if ∃ k < m.rows, m.dst.offset + k * m.dstStride ≤ a ∧ a < m.dst.offset + k * m.dstStride + m.rowBytes then 0
          else readByte x.granary a))
    ∧ (InstrWord.operation w = some .dma → r.landed = false → (moveDesc r.desc).dst.isOwn = true →
      let m := moveDesc r.desc
      let source : Nat → Nat → Option Byte := fun k i =>
        (s.dev.getAt (s.dev.unitMap x false) c m.src (m.src.offset + k * m.srcStride) m.rowBytes)[i]?
      (∀ k i, i < m.rowBytes → (∀ a, m.src = .device a → source k i = some (readByte s.dev.mem (a + k * m.srcStride + i)))
        ∧ (∀ o, m.src = .own o → source k i = some (readByte x.granary (o + k * m.srcStride + i))))
      ∧ Answers (.instructionCompletion c u) s (done fun y => y.banks = x.banks ∧ y.ctxs = x.ctxs
        ∧ outside ((List.range m.rows).map fun k => (m.dst.offset + k * m.dstStride, m.rowBytes)) y
        ∧ ∀ k < m.rows, ∀ i < m.rowBytes,
          (∀ l, k < l → l < m.rows → ¬ (m.dst.offset + l * m.dstStride ≤ m.dst.offset + k * m.dstStride + i
            ∧ m.dst.offset + k * m.dstStride + i < m.dst.offset + l * m.dstStride + m.rowBytes)) →
          some (readByte y.granary (m.dst.offset + k * m.dstStride + i)) = source k i))
    ∧ (∀ tile l, InstrWord.operation w = some .red → findTile (x.banks.getD unit []) n (InstrWord.drainTile w) = some tile →
      x.lanes[unit]? = some l → x.handRoom r = true →
      let d := drainDesc r.desc
      let acc := (List.range n).foldl (drainRow d tile l.family) ⟨x.granary, x.poison, x.ctxs, ⟨false, false⟩, l.gens, []⟩
      let flags := tile.reported acc.flags
      Answers (.instructionCompletion c u) s (done fun y => y.granary = acc.granary
        ∧ outside (d.writes n (entryWidth tile.isInt tile.comp)) y
        ∧ (d.consumes = false → y.ctxs = acc.ctxs ∧ y.lanes = x.lanes)
        ∧ (d.consumes = true → y.ctxs = copyPosition acc.ctxs y.lanes unit ∧ (y.lanes[unit]?).map (·.gens) = some acc.gens
          ∧ (free = false → y.lanes = x.lanes.set unit { l with gens := acc.gens, count := l.count + n }))
        ∧ y.report = x.report ||| flags.cflags
        ∧ findTile (y.banks.getD unit []) n (InstrWord.drainTile w)
          = (if InstrWord.release w then none else some { tile with flags := flags })
        ∧ y.tally = (if InstrWord.release w then x.tally.release flags else x.tally)
        ∧ y.hand = (if d.toSampler then x.hand.set unit { x.handOf unit with
            buffer := (x.handOf unit).buffer ++ [⟨r.ins.seq, d.idxBase, acc.handed⟩] } else x.hand)))
    ∧ (InstrWord.operation w = some .red → x.handRoom r = false → Becomes (.instructionCompletion c u) s s.dev)
    ∧ (InstrWord.operation w = some .emit →
      let d := drainDesc r.desc
      32 ≤ d.dstStride → d.ctx0 + n ≤ 64 →
      Answers (.instructionCompletion c u) s (done fun y => y.ctxs = x.ctxs ∧ y.banks = x.banks ∧ outside (d.emitWrites n) y
        ∧ ∀ k < n, ∀ v, x.ctxs[d.ctx0 + k]? = some v → readBytes y.granary (d.dst + k * d.dstStride) 32 = v.emitRecord))
    ∧ (∀ op src l, op ∈ [Op.bern, .gibbs, .gumb, .take, .mask, .fill] → InstrWord.operation w = some op →
      x.sampRows r (sampDesc r.desc) = some src → x.lanes[unit]? = some l →
      sampFormatBad op (InstrWord.src w) (sampDesc r.desc) = false →
      let d := sampDesc r.desc
      let acc := (List.range n).foldl (sampRow op d l.family src.1 src.2) ⟨x.granary, x.poison, x.ctxs, l.gens, false, false⟩
      let outs := sampOutputs op d n
      let ctxs := if d.phaseAdv then (acc.ctxs.zipIdx).map fun p =>
        if d.ctx0 ≤ p.2 ∧ p.2 < d.ctx0 + n then phaseAdvance p.1 else p.1 else acc.ctxs
      Answers (.instructionCompletion c u) s (done fun y => y.granary = acc.granary ∧ outside (sampWrites op d n) y
        ∧ y.banks = x.banks ∧ y.ctxs = (if outs = 0 then ctxs else copyPosition ctxs y.lanes unit)
        ∧ (outs = 0 → y.lanes = x.lanes)
        ∧ (free = false → y.lanes = x.lanes.set unit { l with gens := acc.gens, count := l.count + outs })
        ∧ y.report = x.report ||| sampCflags acc.invalid acc.empty ∧ y.tally = x.tally.sampler acc.invalid acc.empty
        ∧ (y.handOf unit).buffer = (x.handOf unit).buffer.filter fun b => some b.seq != r.ins.matched))
    ∧ (InstrWord.operation w = some .load →
      Answers (.instructionCompletion c u) s (done fun y => y.granary = x.granary ∧ y.ctxs = x.ctxs ∧ y.field = x.field))
    ∧ (InstrWord.operation w = some .sweep → x.field.phase = 0 → x.field.target ≤ x.runSweeps → x.field.pending = [] →
      Answers (.instructionCompletion c u) s (done fun y => y.granary = x.granary ∧ y.field = x.field
        ∧ y.ctxs = copyPosition x.ctxs x.lanes 4))
    ∧ (∀ hist, InstrWord.operation w = some .snap → x.field.synced = true →
      x.field.snapHistory job.params.staleness x.runSweeps = some hist →
      let a := leAt r.desc 8 4
      let z := snapBytes x.field.image job.params.staleness
      let data := stateImage x.field.states ++ hist
      data.length ≤ z →
      Answers (.instructionCompletion c u) s (done fun y => y.ctxs = x.ctxs ∧ y.field = x.field ∧ x.granarySame y a z
        ∧ ∀ k < z, readByte y.granary (a + k) = data.getD k 0))
    ∧ (InstrWord.operation w = some .read → x.field.synced = true → x.field.edgePresent x.runSweeps = true →
      let a := leAt r.desc 8 4
      let best := bitOf (leAt r.desc 0 4) 0
      Answers (.instructionCompletion c u) s (done fun y => y.ctxs = x.ctxs ∧ y.field = x.field
        ∧ x.granarySame y a (if best then 4160 else 64) ∧ readBytes y.granary a 64 = x.readRecord
        ∧ (best = true → readBytes y.granary (a + 64) 4096 = stateImage x.field.best)))
    ∧ (InstrWord.operation w = some .mcast → r.landed = true →
      let m := meshDesc r.desc
      let got := s.dev.deliverable c.job ((m.targets c.n).filter fun t => bitOf (leAt r.desc 64 32) t.val)
      Answers (.instructionCompletion c u) s (done fun y => y.ctxs = x.ctxs ∧ y.banks = x.banks ∧ x.granarySame y m.result 32
        ∧ readBytes y.granary m.result 32 = leBytes 32 (maskOf got)
        ∧ y.report = (if maskOf got = maskOf (m.targets c.n) then x.report else x.report ||| 0x20)))

/-- One pass of a Mill on one entry. Integer pair: an opening pass leaves the exact sum of its products; an accumulating pass
adds it to the entry, saturates the result to 48 bits, and sets OVF exactly when it saturates. Float pair: the sum of a group
of finite products is exact; a plain tile rounds each group to FP32 and adds the groups in order, each sum rounded, and an
accumulating pass adds that to the entry; a compensated tile carries the high and low parts of R68, whose low part is +0 once
the high part is not finite (R63). Infinity times zero, or infinities of both signs in a group, give NaN and INVALID. An
element of BF16 has the value of the FP32 number that begins with its bits, one of E5M2 that of the FP16 number, and an
instruction takes its pairs in passes of K_pass, in groups of g cells. -/
def Obligations.MillPasses : Prop :=
  (∀ (e : Entry) (ps : List (Int × Int)),
    let v := (ps.map fun p => p.1 * p.2).sum
    ((intPass true e ps).1.raw = BitVec.ofInt 64 v ∧ (intPass true e ps).2 = ⟨false, false⟩)
    ∧ ((intPass false e ps).1.raw.toInt = max (-(2 ^ 47)) (min (2 ^ 47 - 1) (e.raw.toInt + v))
      ∧ ((intPass false e ps).2.ovf = true ↔ e.raw.toInt + v < -(2 ^ 47) ∨ 2 ^ 47 - 1 < e.raw.toInt + v)))
  ∧ (∀ ps : List (Fval × Fval),
    ((∀ p ∈ ps, p.1.isFinite = true ∧ p.2.isFinite = true) → (groupSum ps).1.isFinite = true ∧ (groupSum ps).2 = false
      ∧ (groupSum ps).1.rat = (ps.map fun p => p.1.rat * p.2.rat).sum)
    ∧ ((∃ p ∈ ps, p.1.mulInvalid p.2 = true)
        ∨ ((∃ p ∈ ps, p.1.mul p.2 = .inf true) ∧ ∃ p ∈ ps, p.1.mul p.2 = .inf false) →
      groupSum ps = (.nan, true)))
  ∧ (∀ (e : Entry) (groups : List (List (Fval × Fval))),
    let rounded := groups.map fun g => rn32 (groupSum g).1
    let run := match rounded with
      | [] => 0
      | v :: vs => vs.foldl fadd v
    (floatPass false true e groups).1.raw = run.setWidth 64
    ∧ (floatPass false false e groups).1.raw = (fadd (e.raw.setWidth 32) run).setWidth 64)
  ∧ (∀ (e : Entry) (groups : List (List (Fval × Fval))),
    let low : Word32 → Word32 → Word32 := fun h l => if (fpVal h).isFinite then l else 0
    let part : List (Fval × Fval) → Word32 × Word32 := fun g =>
      let v := (groupSum g).1
      (rn32 v, low (rn32 v) (rn32 (v.add (fpVal (rn32 v)).neg)))
    let add : Word32 × Word32 → Word32 × Word32 → Word32 × Word32 := fun a b =>
      let t := twoSum a.1 b.1
      (t.1, low t.1 (fadd a.2 (fadd b.2 t.2)))
    let run := match groups.map part with
      | [] => (0, 0)
      | v :: vs => vs.foldl add v
    let sum := add (e.raw.setWidth 32, (e.raw >>> 32).setWidth 32) run
    (floatPass true true e groups).1.raw = run.2 ++ run.1 ∧ (floatPass true false e groups).1.raw = sum.2 ++ sum.1)
  ∧ (∀ k < 2 ^ 16, (OpFmt.decode .bf16 k).isFinite = (fpVal (BitVec.ofNat 32 (65536 * k))).isFinite
      ∧ (OpFmt.decode .bf16 k).rat = (fpVal (BitVec.ofNat 32 (65536 * k))).rat)
  ∧ (∀ k < 2 ^ 8, (OpFmt.decode .e5m2 k).isFinite = (OpFmt.decode .fp16 (256 * k)).isFinite
      ∧ (OpFmt.decode .e5m2 k).rat = (OpFmt.decode .fp16 (256 * k)).rat)
  ∧ (∀ (o : MillOp) (comp : Bool) (e : Entry) (ps qs : List (Fval × Fval)), 0 < o.kPass → ps.length = o.kPass → qs.length % o.kPass = 0 →
    let one := floatPass comp (!o.acc) e (chunks (o.g * (o.kPass / 64)) (64 / o.g) ps)
    (elementPasses o false comp e ps).1 = one.1 ∧ (elementPasses o false comp e ps).2 = (⟨false, false⟩ : ElemFlags).or one.2
    ∧ (elementPasses o false comp e (ps ++ qs)).1 = (elementPasses { o with acc := true } false comp one.1 qs).1)

/-! ## The Field (06_lattice_field.md R176 to R190, R384) -/

/-- A phase of a sweep: the states and E_INT take the phase's result, four outputs of every sub-lane are consumed,
PHASE.CLASS changes, a halo record with the new boundary goes out on every HALO edge (R38), and memory stays as it was. In a
seeded job the set's count rises by four and every other set stays as it is. The end of a sweep raises SWEEPS, returns to
phase 0, keeps the best energy seen when the sweep records it, and latches a snapshot at every multiple of 256. -/
def Obligations.FieldSweepEvents : Prop := ∀ (s : State) (c : CroftRef) (x : Croft) (job : Job), s.dev.croft c = some x → s.dev.job c.job = some job →
    x.Shaped → x.field.ctx < 64 → s.dev.sweeping x = true →
    x.seq.state ≠ .halted →
    let f := x.field
    let w := x.runSweeps
    let recs := f.phaseRecords job.params.staleness w f.phase
    (∀ l, x.lanes[4]? = some l → f.phase < 2 → w < f.target → haloPresent f.image recs = true →
      let res := runPhase f.image f.states recs (schedEntry f.sched w) (phaseOutputs l.family l.gens) f.phase
      Answers (.fieldPhaseEnd c) s fun t => (∃ y : Croft, t.croft c = some y
          ∧ y.field.states = res.1 ∧ y.field.eInt = f.eInt + res.2 ∧ y.field.phase = f.phase + 1
          ∧ (y.lanes[4]?).map (·.gens) = some (l.gens.map (genSteps l.family 4))
          ∧ (job.params.laneFree = false → (y.lanes[4]?).map (·.count) = some (l.count + 4) ∧ ∀ k < 4, y.lanes[k]? = x.lanes[k]?)
          ∧ (y.ctxs[f.ctx]?).map (·.cls) = some (if f.phase = 0 then 1 else 0)
          ∧ y.granary = x.granary ∧ y.seq = x.seq)
        ∧ t.sent = s.dev.sent ++ (haloEdges f.image).filterMap (fun e => match edgeMode f.image e with
            | .halo dev n => some (.halo c.job dev n
                (if dev = job.params.ldev then (s.dev.unitMap x true).slotOf ⟨x.job, Fin.ofNat 256 n⟩ else none) ⟨BitVec.ofNat 64 (f.phase * 2 ^ 63 + w),
                haloSource job.params.ldev x.n.val e, boundaryOf res.1 e f.phase⟩)
            | _ => none)
        ∧ t.mem = s.dev.mem ∧ t.jobs = s.dev.jobs ∧ (job.params.laneFree = false → t.slots = s.dev.slots))
    ∧ (∀ r, x.units.field = some r → f.phase = 2 →
      Answers (.fieldSweepEnd c) s fun t => (∃ y : Croft, t.croft c = some y
          ∧ (y.ctxs[f.ctx]?).map (·.sweeps) = (x.ctxs[f.ctx]?).map (·.sweeps + 1)
          ∧ y.field.phase = 0 ∧ y.field.states = f.states ∧ y.field.eInt = f.eInt
          ∧ y.field.bestE = (if bitOf (leAt r.desc 0 4) 0 then min f.eInt f.bestE else f.bestE)
          ∧ y.field.pending.length = f.pending.length + (if (w + 1) % 256 = 0 then 1 else 0)
          ∧ y.granary = x.granary ∧ y.lanes = x.lanes ∧ y.seq = x.seq)
        ∧ t.mem = s.dev.mem ∧ t.jobs = s.dev.jobs ∧ t.slots = s.dev.slots ∧ t.sent = s.dev.sent)

/-- The audit of R184 recomputes the energy of the oldest latched snapshot. Where it is its E_INT and the snapshot's records
are present, the snapshot is written, as its states and history padded with zeros, to the slot that does not hold the
committed one, becomes the committed one and leaves the list; no other byte of the Granary changes. Where it is not, that is
a Field error (R188) and the snapshot does not commit. -/
def Obligations.SnapshotCommit : Prop := ∀ (s : State) (c : CroftRef) (x : Croft) (job : Job) (p : Snap) (rest : List Snap) (hist : List Byte),
    s.dev.croft c = some x → s.dev.job c.job = some job → x.field.pending = p :: rest → x.field.synced = true →
    x.field.snapHistory job.params.staleness p.sweep = some hist → Cells.wf x.granary = true →
    let z := snapBytes x.field.image job.params.staleness
    let slot := match x.field.committed with
      | some r => if r.slot = 0 then 1 else 0
      | none => 0
    let data := stateImage p.states ++ hist
    (energyInt x.field.image p.states ≠ p.eInt → exec (.snapshotCommit c) s = exec (.fieldErrorRollback c false) s)
    ∧ (energyInt x.field.image p.states = p.eInt → data.length ≤ z →
      Answers (.snapshotCommit c) s fun t => (∃ y : Croft, t.croft c = some y
          ∧ y.field.pending = rest ∧ y.field.committed = some ⟨slot, p.sweep, p.laneCount, p.eInt, p.best, p.bestE, p.bestSweep⟩
          ∧ y.field.errors = 0 ∧ x.granarySame y (x.field.snapAddr + slot * z) z
          ∧ (∀ k < z, readByte y.granary (x.field.snapAddr + slot * z + k) = data.getD k 0)
          ∧ y.seq = x.seq ∧ y.ctxs = x.ctxs)
        ∧ t.mem = s.dev.mem ∧ t.jobs = s.dev.jobs ∧ t.sent = s.dev.sent)

/-- A halo record from the neighbour of a HALO edge is kept once, by edge, class and sweep, unless it lies below the sweep of
the committed snapshot; any other record changes nothing. A handshake is kept for its edge; while a FIELD instruction waits,
the last one synchronises the run if all are right. -/
def Obligations.HaloArrivals : Prop := ∀ (s : State) (c : CroftRef) (x : Croft) (job : Job), s.dev.croft c = some x → s.dev.job c.job = some job →
    (∀ (r : HaloRec) (e : Fin 4), haloEdgeOf x.field.image r.source = some e.val →
      let w := bitsOf r.version.toNat 0 63
      let cls := r.version.getLsbD 63
      let known := (∃ h ∈ x.field.store, h.edge = e ∧ h.cls = cls ∧ h.sweep = (w : Int))
        ∨ w < (x.field.committed.map (·.sweep)).getD 0
      (¬ known → Becomes (.haloRecord c r) s
        (s.dev.setCroft { x with field := { x.field with store := x.field.store ++ [⟨e, cls, w, r.states⟩] } }))
      ∧ (known → Becomes (.haloRecord c r) s s.dev))
    ∧ (∀ r : HaloRec, haloEdgeOf x.field.image r.source = none → Becomes (.haloRecord c r) s s.dev)
    ∧ (∀ (e : Fin 4) (h : Handshake),
      let y : Croft := { x with field := { x.field with incoming := x.field.incoming.set e.val (some h) } }
      (x.units.field = none → Answers (.haloHandshake c e h) s fun t => t.croft c = some y ∧ t.mem = s.dev.mem ∧ t.jobs = s.dev.jobs)
      ∧ (∀ r, x.units.field = some r → InstrWord.operation r.ins.word ≠ some .load → x.field.synced = false →
        y.field.handshakesIn = true →
        (∀ k ∈ haloEdges x.field.image, ∃ g, y.field.incoming.getD k none = some g
          ∧ y.handshakeOk job.params.staleness k g = true) →
        Answers (.haloHandshake c e h) s fun t => ∃ z : Croft, t.croft c = some z ∧ z.field.synced = true
          ∧ z.field.wh = x.runSweeps ∧ z.field.handshakes = y.field.incoming ∧ z.granary = x.granary
          ∧ t.mem = s.dev.mem ∧ t.jobs = s.dev.jobs))

/-- A wait past its limit halts the job with its own code and the place where the croft waits (R226, R227; that SYNC_TIMEOUT
names the oldest instruction that waits, and at SYNC.BAR the step before its boundary, is the model's reading, log 52 and log
51): HALO_STALL for a FIELD instruction that waits for a record, SYNC_TIMEOUT for a wait of class L3, MESH_ACK_TIMEOUT for a
transfer without its acknowledgement. The counts of the first two pause while what the croft waits for is switched out (R182,
R212). While an emergency holds the job's limits nothing happens. -/
def Obligations.WaitsPastTheirLimit : Prop := ∀ (s : State) (c : CroftRef) (x : Croft) (job : Job), s.dev.croft c = some x → s.dev.job c.job = some job → job.fault = none →
    let halted : Nat → Nat → Dev → Prop := fun code i t => ∃ q, t.job c.job = some q ∧ q.params = job.params
      ∧ q.fault = some ⟨code, x.stepOf i, faultDetail c.n.val job.params.ldev i⟩ ∧ t.mem = s.dev.mem
    (s.dev.limitsHeld c.job = false →
      (∀ r, x.units.field = some r → s.dev.resident x = true → x.fieldWaits job.params.staleness = true →
        s.dev.awaitsAway x job = false →
        Answers (.haloStall c) s (halted 0x0508 r.ins.index))
      ∧ (∀ i, x.waitingAt = some i → s.dev.resident x = true → s.dev.waitPauses x job = false →
        Answers (.syncTimeout c) s (halted 0x0207 i))
      ∧ (∀ mesh r, x.transfer mesh = some r → r.landed = false → 
        Answers (.meshAckTimeout (.croft c) mesh) s (halted 0x0604 r.ins.index)))
    ∧ (s.dev.limitsHeld c.job = true → Becomes (.haloStall c) s s.dev ∧ Becomes (.syncTimeout c) s s.dev
        ∧ ∀ mesh, Becomes (.meshAckTimeout (.croft c) mesh) s s.dev)

/-! ## Checking and recovery (13_checking_replay_test.md R374 to R384) -/

/-- A check error puts the step back to its boundary: position, registers, lane sets of a seeded job, banks, hand-over, flag
counts and contexts as the step record holds them, the Field's run context apart; every semaphore without the step's own
additions and subtractions, as far as that lies within its range (log 103); queues empty but for the Field's, REPLAYED
reported, and the error counted on the slot. Memory is left as it stands. The third failure of a step on one slot fences that
slot too, and the third on a second slot halts the job with RECOVERY_EXHAUSTED. -/
def Obligations.CheckErrorReplay : Prop := ∀ (s : State) (c : CroftRef) (x : Croft) (job : Job) (n : Fin 80) (slot : Slot), s.dev.croft c = some x →
    s.dev.job c.job = some job → x.slot = some n → s.dev.slot n = some slot → x.seq.state = .running → job.fault = none →
    (∀ o, .journal o ∉ x.lost) → x.Shaped →
    let back : (Croft → Slot → Prop) → Dev → Prop := fun P t => ∃ y u, t.croft c = some y ∧ t.slot n = some u
      ∧ y.seq.pc = x.record.pc ∧ y.seq.areg = x.record.areg ∧ y.seq.cnt = x.record.cnt
      ∧ y.seq.step = x.seq.step ∧ y.seq.inStep = 0 ∧ y.seq.held = false ∧ y.seq.signals = [] ∧ y.banks = x.record.banks
      ∧ y.hand = x.record.hand ∧ y.tally = x.record.tally ∧ (job.params.laneFree = false → ∀ k < 4, y.lanes[k]? = x.record.lanes[k]?)
      ∧ (∀ k < 64, y.ctxs[k]? = if x.field.loaded = true ∧ k = x.field.ctx then x.ctxs[k]? else x.record.ctxs[k]?)
      ∧ (∀ k < 32, 0 ≤ (x.sem k : Int) - x.seq.semOwn.getD k 0 → (x.sem k : Int) - x.seq.semOwn.getD k 0 ≤ 65535 →
        (y.sem k : Int) = x.sem k - x.seq.semOwn.getD k 0)
      ∧ (∀ k < 9, k ≠ 6 → y.units.queues[k]? = some []) ∧ y.failures = x.failures + 1 ∧ y.report.getLsbD 7 = true
      ∧ y.granary = x.granary ∧ y.field = x.field ∧ t.mem = s.dev.mem ∧ P y u
    let counted : (SlotErrors → SlotErrors) → Croft → Slot → Prop := fun f _ u => u.errors = f slot.errors
    (x.failures + 1 < 3 →
      Answers (.checkErrorReplay c .residue) s (fun t => t.jobs = s.dev.jobs ∧ back (counted fun e =>
        { e with residue := satAdd 64 e.residue 1, replays := satAdd 64 e.replays 1 }) t)
      ∧ Answers (.checkErrorReplay c .duplicate) s (fun t => t.jobs = s.dev.jobs ∧ back (counted fun e =>
        { e with duplicate := satAdd 64 e.duplicate 1, replays := satAdd 64 e.replays 1 }) t)
      ∧ Answers (.checkErrorReplay c .parity) s (fun t => t.jobs = s.dev.jobs ∧ back (counted fun e =>
        { e with replays := satAdd 64 e.replays 1 }) t)
      ∧ ∀ v, Answers (.checkErrorReplay c (.uncorrectable v false)) s (fun t => t.jobs = s.dev.jobs ∧ back (counted fun e =>
        { e with replays := satAdd 64 e.replays 1 }) t))
    ∧ (∀ k : CheckKind, (∀ v, k ≠ .uncorrectable v true) → 3 ≤ x.failures + 1 →
      (x.fencedBy = [] → slot.spare = .active → Answers (.checkErrorReplay c k) s fun t => t.jobs = s.dev.jobs
        ∧ back (fun y u => y.fencedBy = [n] ∧ y.slot = some n ∧ u.spare = .fenced) t)
      ∧ (x.fencedBy ≠ [] → n ∉ x.fencedBy → Answers (.checkErrorReplay c k) s fun t => t.mem = s.dev.mem
        ∧ ∃ q, t.job c.job = some q ∧ q.params = job.params
          ∧ q.fault = some ⟨0x0A03, x.seq.step, faultDetail c.n.val job.params.ldev x.record.pc⟩))

/-- A Field error, before the third since a commit, rolls the Field back to its committed snapshot: states, E_INT, best
energy and SWEEPS as it holds them, phase 0, the lane set to be positioned again, and the error counted. -/
def Obligations.FieldErrorRollback : Prop := ∀ (s : State) (c : CroftRef) (x : Croft) (job : Job) (n : Fin 80) (slot : Slot) (r : SnapRegs) (storage : Bool),
    s.dev.croft c = some x → s.dev.job c.job = some job → x.slot = some n → s.dev.slot n = some slot → job.fault = none →
    x.field.loaded = true → x.field.errors + 1 < 3 → x.field.committed = some r → x.Shaped →
    x.field.ctx < 64 →
    let z := snapBytes x.field.image job.params.staleness
    Answers (.fieldErrorRollback c storage) s fun t => (∃ y : Croft, t.croft c = some y
        ∧ y.field.states = statesOf ((readBytes x.granary (x.field.snapAddr + r.slot * z) z).take 4096).toArray
        ∧ y.field.eInt = r.eInt ∧ y.field.bestE = r.bestE ∧ y.field.bestSweep = r.bestSweep ∧ y.field.phase = 0
        ∧ y.field.rollbacks = x.field.rollbacks + 1 ∧ y.field.errors = x.field.errors + 1
        ∧ (y.ctxs[x.field.ctx]?).map (·.sweeps) = some (BitVec.ofNat 64 r.sweep)
        ∧ (job.params.laneFree = false → ∀ l, x.lanes[4]? = some l → y.lanes[4]? = some { l with count := r.laneCount, ready := false })
        ∧ (job.params.laneFree = true → y.lanes = x.lanes) ∧ y.granary = x.granary ∧ y.seq = x.seq)
      ∧ (∃ u, t.slot n = some u ∧ u.errors = { slot.errors with field := satAdd 64 slot.errors.field 1 }
          ∧ u.rollbacks = satAdd 64 slot.rollbacks 1)
      ∧ t.mem = s.dev.mem ∧ t.jobs = s.dev.jobs

/-! ## Signals and barriers (07_croft_instruction_set.md R210, R217; 09_fohal_scale_out.md R283) -/

/-- A remote signal from another device adds its count to its target's semaphore when the sum stays within 65,535; one from a
croft of this device does so when it is the oldest in flight between its source and target, and then leaves the list. While
an emergency holds every croft state, neither changes a semaphore: one from another device waits here, one of this device
stays in flight (R449). -/
def Obligations.RemoteSignalArrival : Prop := ∀ (s : State) (g : RemoteSig) (x : Croft) (job : Job), s.dev.job g.job = some job → s.dev.croft ⟨g.job, g.tgtCroft⟩ = some x →
    g.tgtDev = job.params.ldev →
    let added : List RemoteSig → Dev → Prop := fun left t =>
      (∃ y : Croft, t.croft ⟨g.job, g.tgtCroft⟩ = some y
        ∧ (∀ k < 32, y.sem k = if k = g.sem.val then x.sem k + g.count.toNat else x.sem k)
        ∧ y.seq.pc = x.seq.pc ∧ y.granary = x.granary)
      ∧ t.signals = left ∧ t.mem = s.dev.mem ∧ t.jobs = s.dev.jobs ∧ t.slots = s.dev.slots
    (s.dev.emergency = false → x.seq.held = false → x.Shaped → x.sem g.sem.val + g.count.toNat ≤ 65535 →
      (g.srcDev ≠ job.params.ldev → Answers (.remoteSignal g) s (added s.dev.signals))
      ∧ (∀ before after, g.srcDev = job.params.ldev → s.dev.signals = before ++ g :: after →
        (∀ h ∈ before, ¬ (h.job = g.job ∧ h.srcDev = g.srcDev ∧ h.srcCroft = g.srcCroft ∧ h.tgtCroft = g.tgtCroft ∧ h.tgtDev = g.tgtDev)) →
        Answers (.remoteSignal g) s (added (before ++ after))))
    ∧ (s.dev.emergency = true →
      (g.srcDev ≠ job.params.ldev → Becomes (.remoteSignal g) s { s.dev with signals := s.dev.signals ++ [g] })
      ∧ (g.srcDev = job.params.ldev → Becomes (.remoteSignal g) s s.dev))

/-- A croft that waits to make its arrival at a barrier of a one-device job is counted. The arrival that brings the count to
PARTIES completes the generation: T_rel is 200 ns after it in device scope and 1 us in job scope. An earlier one only counts.
An arrival with other PARTIES raises BAR_MISMATCH in every waiting croft, the one that arrives among them: each is logged,
and the record names the lowest (R227). At the release of a complete generation device time has reached T_rel, the generation
is gone, and every croft that waited in it issues again, with the signal of its SYNC.BAR; no other croft changes. On a device
that is not the root, the arrivals counted so far go to the parent and their crofts wait; a T_rel from the parent completes
the generation and goes on to the children. -/
def Obligations.Barriers : Prop :=
  (∀ (s : State) (j : Fin 64) (job : Job) (jobScope : Bool) (num : Fin 16), s.dev.job j = some job → job.params.devices = 1 →
     job.params.ldev = 0 →
     (∀ (parties : Nat) (n : Fin 256) (x : Croft), s.dev.croft ⟨j, n⟩ = some x →
       x.seq.state = .barrier jobScope num.val parties false →
       let b := s.dev.openBar false j jobScope num parties
       (b.parties = parties →
         Answers (.barrierArrival j jobScope num parties (.croft n)) s fun t =>
           t.croft ⟨j, n⟩ = some { x with seq := { x.seq with state := .barrier jobScope num.val parties true } }
           ∧ (b.count + 1 < parties → ∃ q ∈ t.bars, q.counts false j jobScope num = true ∧ q.count = b.count + 1
               ∧ q.waiting = b.waiting ++ [n] ∧ q.release = none)
           ∧ (b.count + 1 = parties → ∃ q ∈ t.bars, q.job = j ∧ q.jobScope = jobScope ∧ q.num = num ∧ q.count = parties
               ∧ q.waiting = b.waiting ++ [n] ∧ q.release = some (s.dev.now + if jobScope then 1000 else 200))
           ∧ t.mem = s.dev.mem ∧ t.jobs = s.dev.jobs)
       ∧ (∀ (m : Fin 256) (y : Croft) (k : Nat), b.parties ≠ parties → job.fault = none →
         let all := n :: b.fresh ++ b.waiting
         (∀ i ∈ all, (s.dev.croft ⟨j, i⟩).isSome = true) → m ∈ all → (∀ i ∈ all, m ≤ i) → s.dev.croft ⟨j, m⟩ = some y →
         (∃ sc a p ar, y.seq.state = .barrier sc a p ar) → y.seq.pc = k + 1 →
         Answers (.barrierArrival j jobScope num parties (.croft n)) s fun t => t.mem = s.dev.mem
           ∧ (∃ q, t.job j = some q ∧ q.params = job.params
             ∧ q.fault = some ⟨0x0208, y.seq.step - 1, faultDetail m.val job.params.ldev k⟩)
           ∧ min (2 ^ 64 - 1) (s.dev.logs.count + ((List.finRange 256).filter fun i => all.contains i).length) ≤ t.logs.count))
     ∧ (∀ (b : Bar) (tRel : Nat),
       s.dev.bars.find? (fun q => q.job == j && q.jobScope == jobScope && q.num == num && q.release.isSome) = some b →
       b.release = some tRel →
       (∀ n ∈ b.waiting, ∃ x w, s.dev.croft ⟨j, n⟩ = some x ∧ x.Shaped ∧ x.seq.held = false
         ∧ x.seq.state = .barrier jobScope num.val w true
         ∧ (b.implicit = false → signalFits (x.wordAt (x.seq.pc - 1)) fun k => x.sem k + signalTo (x.wordAt (x.seq.pc - 1)) k)) →
       Answers (.barrierRelease j jobScope num) s fun t =>
         (∀ n ∈ b.waiting, ∀ x, s.dev.croft ⟨j, n⟩ = some x → ∃ y : Croft, t.croft ⟨j, n⟩ = some y ∧ y.seq.state = .running
           ∧ y.seq.pc = x.seq.pc ∧ y.granary = x.granary
           ∧ ∀ k < 32, y.sem k = x.sem k + (if b.implicit then 0 else signalTo (x.wordAt (x.seq.pc - 1)) k))
         ∧ (∀ (c : CroftRef) (x : Croft), s.dev.croft c = some x → c.job ≠ j ∨ c.n ∉ b.waiting →
           ∃ y, t.croft c = some y ∧ y.seq = x.seq ∧ y.granary = x.granary)
         ∧ tRel ≤ t.now ∧ t.bars = s.dev.bars.erase b ∧ t.mem = s.dev.mem ∧ t.jobs = s.dev.jobs))
  ∧ (∀ (s : State) (j : Fin 64) (job : Job) (num : Fin 16) (b : Bar), s.dev.job j = some job → job.params.ldev ≠ 0 →
       (s.dev.bars.filter fun q => q.counts b.implicit j true num) = [b] → 0 < b.count →
       (Answers (.barrierForward j num (.up b.implicit)) s fun t => t.sent = s.dev.sent ++ [.barrier j b.implicit num true b.parties b.count]
           ∧ (∃ q ∈ t.bars, q.counts b.implicit j true num = true ∧ q.count = 0 ∧ q.fresh = [] ∧ q.waiting = b.waiting ++ b.fresh)
           ∧ t.crofts = s.dev.crofts ∧ t.mem = s.dev.mem ∧ t.jobs = s.dev.jobs)
       ∧ (∀ tRel, Answers (.barrierForward j num (.down tRel b.implicit)) s fun t => t.sent = s.dev.sent ++ [.barrier j b.implicit num false b.parties tRel]
           ∧ (∃ q ∈ t.bars, q.job = j ∧ q.jobScope = true ∧ q.num = num ∧ q.release = some tRel ∧ q.waiting = b.waiting)
           ∧ t.crofts = s.dev.crofts ∧ t.mem = s.dev.mem ∧ t.jobs = s.dev.jobs))

/-! ## Lanes, islands and bindings (01_croft_anatomy.md R34 to R41; 04_lane_generators.md R115) -/

/-- A lane set whose positioning ends stands at its seed, family, first lane and count. An island parks when nothing runs on
its slot, and a parked island whose croft has a program to run returns to Run. -/
def Obligations.LanesAndIslands : Prop := (∀ (s : State) (c : CroftRef) (x : Croft) (job : Job) (k : Fin 5) (l : LaneSet), s.dev.croft c = some x →
    s.dev.job c.job = some job → x.lanes[k.val]? = some l → l.ready = false → job.params.laneFree = false → x.seq.held = false →
    Becomes (.lanePositioningDone c k) s (s.dev.setCroft { x with
      lanes := x.lanes.set k.val { l with gens := positionGens l.seed l.family l.first.toNat l.count (setSize k.val), ready := true } }))
  ∧ (∀ (s : State) (n : Fin 80) (t : Slot), s.dev.slot n = some t → t.island = .run → s.dev.carried n = none →
    Becomes (.islandPark n) s (s.dev.onSlot n fun u => { u with island := .idle }))
  ∧ (∀ (s : State) (n : Fin 80) (t : Slot) (x : Croft), s.dev.slot n = some t → t.island = .run → s.dev.carried n = some x →
    x.seq.state = .running → s.dev.activationHolds = false → Becomes (.islandPark n) s s.dev)
  ∧ (∀ (s : State) (n : Fin 80) (t : Slot) (x : Croft), s.dev.slot n = some t → t.island = .idle → s.dev.carried n = some x →
    s.dev.croft ⟨x.job, x.n⟩ = some x → x.seq.state = .running → s.dev.activationHolds = false → x.seq.held = false →
    Becomes (.islandResume n) s (s.dev.onSlot n fun u => { u with island := .run }))

/-- Bindings that may be installed together are in force together and make one change of the map: each croft is on its slot,
each slot ACTIVE, MAP_GENERATION higher by one, and memory as it was. -/
def Obligations.MapChange : Prop := ∀ (s : State) (j : Fin 64) (job : Job) (binds : List (Fin 256 × Fin 80)), s.dev.job j = some job → binds ≠ [] →
    s.dev.bindable j job.params.ldev binds = true → (binds.map (·.1)).Nodup → (binds.map (·.2)).Nodup →
    s.dev.slots.length = 80 →
    Answers (.mapChanged j binds) s fun t => t.mapGen = s.dev.mapGen + 1 ∧ t.mem = s.dev.mem
      ∧ (∀ b ∈ binds, ∃ x y, s.dev.croft ⟨j, b.1⟩ = some x ∧ t.croft ⟨j, b.1⟩ = some y ∧ y.slot = some b.2
          ∧ y.granary = x.granary ∧ y.seq.pc = x.seq.pc ∧ ∃ u, t.slot b.2 = some u ∧ u.spare = .active)
      ∧ (∀ (c : CroftRef) (x : Croft), s.dev.croft c = some x → (c.job ≠ j ∨ c.n ∉ binds.map (·.1)) →
          ∃ y, t.croft c = some y ∧ y.slot = x.slot ∧ y.granary = x.granary)

/-- A croft that is switched out, no transfer to it being under way, takes an ACTIVE, checked slot that carries no croft, or
whose croft is of its job, shares the slot with it and stands at its step boundary, and leaves it (R41, R380; what it may
take in turn is the model's reading, log 102). A croft on a slot that is no longer ACTIVE, standing where it may be moved,
goes to the nearest SPARE slot as it stands: its step begins again where a replay put it back. When there is none it goes off
the slot and is time-multiplexed on the ACTIVE slot of its job that carries the fewest crofts (R380, log 102). -/
def Obligations.SwitchAndMove : Prop := (∀ (s : State) (n : Fin 80) (into : CroftRef) (y : Croft) (job : Job), s.dev.croft into = some y →
    s.dev.job into.job = some job → y.slot = none → y.paused = false → s.dev.slotIs n.val .active = true → s.dev.slots.length = 80 →
    s.dev.bindReady n.val = true → s.dev.targeted into job.params.ldev = false →
    (s.dev.carried n = none →
      Answers (.croftSwitch n into) s fun t => (∃ z, t.croft into = some z ∧ z.slot = some n ∧ z.granary = y.granary
        ∧ z.seq.pc = y.seq.pc) ∧ t.mapGen = s.dev.mapGen + 1 ∧ t.mem = s.dev.mem)
    ∧ (∀ x, s.dev.carried n = some x → s.dev.croft ⟨x.job, x.n⟩ = some x → s.dev.shares n x y job = true →
      s.dev.movable x job.params.ldev = true →
      Answers (.croftSwitch n into) s fun t => (∃ z, t.croft into = some z ∧ z.slot = some n ∧ z.granary = y.granary)
        ∧ (∃ z, t.croft ⟨x.job, x.n⟩ = some z ∧ z.slot = none ∧ z.granary = x.granary)
        ∧ t.mapGen = s.dev.mapGen + 1 ∧ t.mem = s.dev.mem))
  ∧ (∀ (s : State) (c : CroftRef) (x : Croft) (job : Job) (n : Fin 80), s.dev.croft c = some x → s.dev.job c.job = some job →
    x.slot = some n → (∀ o, .journal o ∉ x.lost) → s.dev.slotIs n.val .active = false →
    s.dev.leavable x job.params.ldev = true → s.dev.replaceable n = true → s.dev.slots.length = 80 → job.params.laneFree = false →
    Answers (.croftMove c true) s fun t => (∃ y, t.croft c = some y
        ∧ y.slot = (s.dev.nearestSpare n.val).map (Fin.ofNat 80) ∧ y.granary = x.granary ∧ y.seq.pc = x.seq.pc
        ∧ y.seq.areg = x.seq.areg ∧ y.seq.cnt = x.seq.cnt ∧ y.banks = x.banks
        ∧ ((s.dev.nearestSpare n.val).isSome = true → y.failures = 0)
        ∧ (s.dev.nearestSpare n.val = none → y.home = s.dev.sharedSlot c.job (some n)
          ∧ y.vacated = if (s.dev.sharedSlot c.job (some n)).isSome then none else some n))
      ∧ (∃ u, t.slot n = some u ∧ u.island = .off) ∧ t.mapGen = s.dev.mapGen + 1 ∧ t.mem = s.dev.mem)

/-! ## Checks, scrubs and repairs (04_lane_generators.md R123; 08_mesh_and_memory.md R249, R254; 13_checking_replay_test.md
R385 to R387) -/

/-- Steps 1 to 3 of the generator check count a run and give GEN_KAT by the characteristic polynomials (that they count it,
before step 4 has checked the slots, is the model's choice, log 91). Step 4 on a slot without a croft, ACTIVE and idle or
SPARE, leaves it checked and idle when its lanes are right, and FENCED and off with GEN_KAT 3 when they are not. An age
measurement publishes both frequencies and the drift, and marks the slot when the drift reaches AGE_LIMIT. A marked ACTIVE
slot is RETIRED, its island off, when a SPARE slot is left, or at AGE_LIMIT + 100; the croft it carries goes to the nearest
SPARE slot as it stands, or with none left is time-multiplexed on another slot of its job (R380, log 102). When none is left
that is logged, every 24 h, and the slot stays. -/
def Obligations.SlotChecksAndAgeing : Prop :=
  ((∀ (s : State) (good : Bool), s.dev.power.main = true → s.dev.boot.act = .idle →
     Becomes (.generatorCheck none good) s { s.dev with boot := { s.dev.boot with
       genKat := if polyGood false && polyGood true then 1 else 2, genRuns := satAdd 64 s.dev.boot.genRuns 1 } })
   ∧ (∀ (s : State) (n : Fin 80) (t : Slot), s.dev.power.main = true → s.dev.slot n = some t → s.dev.carried n = none →
     s.dev.boot.genKat ≠ 0 → (t.spare = .active ∧ t.island = .idle ∨ t.spare = .spare) →
     (∀ x ∈ s.dev.crofts, ¬ (x.paused = true ∧ x.vacated = some n)) →
     (Becomes (.generatorCheck (some n) true) s (s.dev.onSlot n fun u => { u with checked := true, island := .idle }))
     ∧ (Answers (.generatorCheck (some n) false) s fun e => e.boot = { s.dev.boot with genKat := 3 }
         ∧ e.slots = (s.dev.onSlot n fun u => { u with
             spare := .fenced, island := .off, checked := false, view := [], viewPoison := [] }).slots
         ∧ e.crofts = s.dev.crofts ∧ e.mem = s.dev.mem ∧ e.logs.count = satAdd 64 s.dev.logs.count 1)))
  ∧ (∀ (s : State) (n : Fin 80) (t : Slot), s.dev.power.main = true → s.dev.slot n = some t →
       (∀ aged ref, t.island ≠ .off →
         let drift := driftOf aged ref (Config.ageRatio (s.dev.fuses.ageRef.getD n.val 0))
         Answers (.ageMeasure n aged ref) s fun e => e.slots = (s.dev.onSlot n fun u => { u with
             aged := aged, refKhz := ref, drift := drift
             marked := u.marked || (!t.marked && decide (s.dev.settings.ageLimit ≤ drift)) }).slots
           ∧ e.crofts = s.dev.crofts ∧ e.mem = s.dev.mem ∧ e.mapGen = s.dev.mapGen)
       ∧ (t.marked = true → t.spare = .active → s.dev.carried n = none →
         ((s.dev.nearestSpare n.val).isSome = true ∨ s.dev.settings.ageLimit + 100 ≤ t.drift) →
         Answers (.ageRetire n) s fun e => e.slots = (s.dev.onSlot n fun u => { u with
               spare := .retired, island := .off, checked := false, view := [], viewPoison := [] }).slots
           ∧ e.crofts = s.dev.crofts ∧ e.mem = s.dev.mem ∧ e.logs.count = satAdd 64 s.dev.logs.count 1)
       ∧ (∀ (x : Croft) (job : Job) (k : Nat), t.marked = true → t.spare = .active → s.dev.carried n = some x →
         s.dev.croft ⟨x.job, x.n⟩ = some x → s.dev.job x.job = some job → job.params.laneFree = false →
         s.dev.nearestSpare n.val = some k → s.dev.replaceable n = true → s.dev.movable x job.params.ldev = true →
         (∀ o, .journal o ∉ x.lost) → s.dev.slots.length = 80 →
         Answers (.ageRetire n) s fun e => (∃ u, e.slot n = some u ∧ u.spare = .retired ∧ u.island = .off)
           ∧ (∃ y, e.croft ⟨x.job, x.n⟩ = some y ∧ y.slot = some (Fin.ofNat 80 k) ∧ y.granary = x.granary
             ∧ y.seq.pc = x.seq.pc ∧ y.ctxs = x.ctxs ∧ y.banks = x.banks)
           ∧ (∃ u, e.slot (Fin.ofNat 80 k) = some u ∧ u.spare = .active) ∧ e.mapGen = s.dev.mapGen + 1 ∧ e.mem = s.dev.mem)
       ∧ (∀ (x : Croft) (job : Job), t.marked = true → t.spare = .active → s.dev.carried n = some x →
         s.dev.croft ⟨x.job, x.n⟩ = some x → s.dev.job x.job = some job → s.dev.nearestSpare n.val = none →
         s.dev.settings.ageLimit + 100 ≤ t.drift → s.dev.movable x job.params.ldev = true → (∀ o, .journal o ∉ x.lost) →
         s.dev.slots.length = 80 →
         let home := s.dev.sharedSlot x.job (some n)
         Answers (.ageRetire n) s fun e => (∃ u, e.slot n = some u ∧ u.spare = .retired ∧ u.island = .off)
           ∧ (∃ y, e.croft ⟨x.job, x.n⟩ = some y ∧ y.slot = none ∧ y.home = home
             ∧ y.vacated = (if home.isSome then none else some n) ∧ y.granary = x.granary
             ∧ y.seq.pc = x.seq.pc ∧ y.ctxs = x.ctxs ∧ y.banks = x.banks)
           ∧ e.mapGen = s.dev.mapGen + 1 ∧ e.mem = s.dev.mem)
       ∧ (t.marked = true → t.spare = .active → s.dev.nearestSpare n.val = none →
         (∀ at_, t.noSpareAt = some at_ → at_ + 86400000000000 ≤ s.dev.elapsedNs) →
         Answers (.ageNoSpare n) s fun e => e.slots = (s.dev.onSlot n fun u => { u with noSpareAt := some s.dev.elapsedNs }).slots
           ∧ e.crofts = s.dev.crofts ∧ e.mem = s.dev.mem ∧ e.logs.count = satAdd 64 s.dev.logs.count 1))

/-- A forced scrub counts the words it corrected on its slot, and poisons and logs an uncorrectable word; the Granary's bytes
stay. A row repair takes a spare row of its bank while one of the 32 is left. A patrol read corrects and counts single
errors, poisons an uncorrectable word of its unit, and at the end of a pass publishes the time. A memory row that needs
repair is repaired and counted while its unit has resources left; a stack with none left makes the device due to retire. A
spared lane changes nothing that software sees. No byte of memory changes. -/
def Obligations.MemoryCare : Prop :=
  (∀ (s : State) (n : Fin 80) (t : Slot) (bank : Fin 64), s.dev.slot n = some t → t.island ≠ .off →
     (∀ k, 0 < k → Answers (.granaryForcedScrub n bank ⟨k, []⟩) s fun e =>
       e.slots = (s.dev.onSlot n fun u => { u with errors := { u.errors with corrected := satAdd 64 u.errors.corrected k } }).slots
       ∧ e.crofts = s.dev.crofts ∧ e.mem = s.dev.mem ∧ e.jobs = s.dev.jobs ∧ e.power = s.dev.power)
     ∧ (∀ o, o < 2 ^ 26 → s.dev.carried n = none → Answers (.granaryForcedScrub n bank ⟨0, [o]⟩) s fun e =>
       e.slots = (s.dev.onSlot n fun u => { u with
           viewPoison := addPoison u.viewPoison (o / 8 * 8)
           errors := { u.errors with poisoned := satAdd 64 u.errors.poisoned 1 } }).slots
       ∧ e.crofts = s.dev.crofts ∧ e.mem = s.dev.mem ∧ e.jobs = s.dev.jobs ∧ e.logs.count = satAdd 64 s.dev.logs.count 1)
     ∧ (∀ (o : Nat) (x : Croft), o < 2 ^ 26 → s.dev.carried n = some x → s.dev.croft ⟨x.job, x.n⟩ = some x →
       Answers (.granaryForcedScrub n bank ⟨0, [o]⟩) s fun e =>
         e.croft ⟨x.job, x.n⟩ = some { x with poison := addPoison x.poison (o / 8 * 8) }
         ∧ e.slots = (s.dev.onSlot n fun u => { u with errors := { u.errors with poisoned := satAdd 64 u.errors.poisoned 1 } }).slots
         ∧ e.mem = s.dev.mem ∧ e.jobs = s.dev.jobs ∧ e.logs.count = satAdd 64 s.dev.logs.count 1)
     ∧ (∀ row, (t.rows.filter fun r => r.1 == bank).length < 32 →
       Answers (.granaryRowRepair n bank row) s fun e =>
         e.slots = (s.dev.onSlot n fun u => { u with rows := u.rows ++ [(bank, row)] }).slots
         ∧ e.crofts = s.dev.crofts ∧ e.mem = s.dev.mem ∧ e.logs.count = satAdd 64 s.dev.logs.count 1))
  ∧ (∀ (s : State) (u : Fin 36) (e : MemErrors), s.dev.power.main = true → s.dev.units.errors[u.val]? = some e →
       (∀ n, Answers (.patrolScrub u (.corrected n) false) s fun t =>
         t.units = { s.dev.units with errors := s.dev.units.errors.set u.val { e with corrected := satAdd 64 e.corrected n } }
         ∧ t.mem = s.dev.mem ∧ t.memPoison = s.dev.memPoison)
       ∧ (Answers (.patrolScrub u .clean true) s fun t =>
         t.units = { s.dev.units with scrubLast := s.dev.units.scrubLast.set u.val s.dev.now } ∧ t.mem = s.dev.mem
         ∧ t.memPoison = s.dev.memPoison ∧ t.logs.bare = s.dev.logs.bare)
       ∧ (∀ a, memUnit a = u.val → s.dev.units.backed a = true → a / 8 * 8 ∉ s.dev.memPoison → memUnit (a / 8 * 8) = u.val →
         Answers (.patrolScrub u (.uncorrectable a) false) s fun t => t.memPoison = s.dev.memPoison ++ [a / 8 * 8]
           ∧ t.units = { s.dev.units with errors := s.dev.units.errors.set u.val { e with poisoned := satAdd 64 e.poisoned 1 } }
           ∧ t.mem = s.dev.mem ∧ t.logs.count = satAdd 64 s.dev.logs.count 1)
       ∧ (∀ k : RepairKind, k ≠ .lane →
         (e.left ≠ 0 → Answers (.memoryRepair u k) s fun t => t.units = { s.dev.units with
               errors := s.dev.units.errors.set u.val { e with repaired := satAdd 32 e.repaired 1, left := e.left - 1 } }
             ∧ t.mem = s.dev.mem ∧ t.memPoison = s.dev.memPoison ∧ t.logs.count = satAdd 64 s.dev.logs.count 1)
         ∧ (e.left = 0 → u.val < 12 →
           Becomes (.memoryRepair u k) s { s.dev with units := { s.dev.units with unfitDue := true } })
         ∧ (e.left = 0 → 12 ≤ u.val → Answers (.memoryRepair u k) s fun t => t.units = s.dev.units
             ∧ t.mem = s.dev.mem ∧ t.memPoison = s.dev.memPoison ∧ t.logs.count = satAdd 64 s.dev.logs.count 1))
       ∧ Becomes (.memoryRepair u .lane) s s.dev)

/-- A router that carries a slot and has no failed neighbour becomes a fault region of its own: its slot, unless DISABLED,
RETIRED or FENCED, is FENCED, and the device keeps routing when the region lies off the outer rows and columns. A failed hub
port, on node (5, 0) or (6, 0), makes the device due to retire. A device that is due to retire does so as UNFIT, once: it
halts every open job with DEVICE_LOST, sends LEAVE on its UP ports, and its ports stay DOWN. -/
def Obligations.RouterFailureAndUnfit : Prop := (∀ (s : State) (x : Fin 12) (y : Fin 10) (n : Fin 80) (t : Slot), s.dev.power.main = true → s.dev.mesh.failed = [] →
    s.dev.mesh.regions = [] → s.dev.mesh.broken = false →
    slotXY n.val = (x.val, y.val) → s.dev.slot n = some t → s.dev.slots.length = 80 →
    Answers (.routerFailure .router (x, y)) s fun e =>
      e.mesh = { s.dev.mesh with
          failed := [(x.val, y.val)], regions := [(x.val, y.val, x.val, y.val)]
          broken := !(2 ≤ x.val && x.val ≤ 9 && 2 ≤ y.val && y.val ≤ 7) }
      ∧ (∃ u, e.slot n = some u ∧ u.spare =
          if t.spare = .disabled ∨ t.spare = .retired ∨ t.spare = .fenced then t.spare else .fenced)
      ∧ (∀ k : Fin 80, k ≠ n → e.slot k = s.dev.slot k) ∧ e.crofts = s.dev.crofts ∧ e.mem = s.dev.mem)
  ∧ (∀ (s : State) (node : Fin 12 × Fin 10), s.dev.power.main = true →
    (node = (5, 0) ∨ node = (6, 0) →
      Becomes (.routerFailure .hubPort node) s { s.dev with mesh := { s.dev.mesh with broken := true } })
    ∧ (node ≠ (5, 0) → node ≠ (6, 0) → Becomes (.routerFailure .hubPort node) s s.dev))
  ∧ (∀ s : State, s.dev.power.main = true → s.dev.unfitNow = true → s.dev.units.unfit = false → s.dev.jobs.length = 64 →
    s.dev.fabric.ports.length = 12 →
    Answers .unfit s fun e => e.units = { s.dev.units with unfit := true, unfitDue := false }
      ∧ (∀ q ∈ e.fabric.ports, q.state = .down) ∧ (∀ p < 12, s.dev.portUp p = true → .leave p ∈ e.sent)
      ∧ (∀ (j : Fin 64) (job : Job), s.dev.job j = some job → ∃ q, e.job j = some q ∧ q.params = job.params
          ∧ q.fault = (if job.fault = none then some ⟨0x0703, 0, 0⟩ else job.fault))
      ∧ (s.dev.noJob = true → e.crofts = s.dev.crofts ∧ e.jobs = s.dev.jobs ∧ e.cmds = s.dev.cmds)
      ∧ e.slots = s.dev.slots ∧ e.mem = s.dev.mem)

/-! ## Acknowledgements (08_mesh_and_memory.md R245; 07_croft_instruction_set.md R196, R205) -/

/-- The acknowledgement of a MESH.PUT to a croft of this device: the LENGTH bytes from SRC of the issuing Granary stand at
DST of the target's, no other byte of it changes, and the transfer has landed. The last acceptance of a MESH.MCAST does the
same at every target that could and still can be reached. The target is the croft that the mesh unit's copy of the map gives
(R38). -/
def Obligations.MeshDelivery : Prop := ∀ (s : State) (c : CroftRef) (x : Croft) (job : Job) (r : Running), s.dev.croft c = some x → s.dev.job c.job = some job →
    x.units.mesh = some r → r.landed = false → s.dev.memoriesWf →
    let m := meshDesc r.desc
    let data := readBytes x.granary m.src m.length
    let via : Fin 256 → CroftRef := fun k => s.dev.reached (s.dev.unitMap x true) ⟨c.job, k⟩
    let gets : CroftRef → Dev → Prop := fun k t => ∀ y, s.dev.croft k = some y → ∃ z, t.croft k = some z
      ∧ z.granary = writeBytes y.granary m.dst data ∧ z.seq = y.seq ∧ y.granarySame z m.dst m.length
      ∧ ∀ i < m.length, some (readByte z.granary (m.dst + i)) = data[i]?
    (InstrWord.operation r.ins.word = some .put → m.dev = job.params.ldev → via (Fin.ofNat 256 m.croft) ≠ c →
      Answers (.writeAcknowledgement c true) s fun t => gets (via (Fin.ofNat 256 m.croft)) t
        ∧ t.croft c = some (x.setLanded true) ∧ t.mem = s.dev.mem ∧ t.jobs = s.dev.jobs
        ∧ ∀ k : CroftRef, k ≠ c → k ≠ via (Fin.ofNat 256 m.croft) → t.croft k = s.dev.croft k)
    ∧ (InstrWord.operation r.ins.word = some .mcast →
      let reached := s.dev.deliverable c.job ((m.targets c.n).filter fun k => bitOf (leAt r.desc 64 32) k.val)
      (∀ k ∈ reached, via k = ⟨c.job, k⟩) →
      Answers (.multicastAcceptance c) s fun t => (∀ k ∈ reached, gets ⟨c.job, k⟩ t)
        ∧ t.croft c = some (x.setLanded true) ∧ t.mem = s.dev.mem ∧ t.jobs = s.dev.jobs
        ∧ ∀ k : CroftRef, k ≠ c → (k.job ≠ c.job ∨ k.n ∉ reached) → t.croft k = s.dev.croft k)

/-! ## Queues and the commands in flight (10_queues_and_hub.md R303 to R322) -/

/-- A doorbell of an enabled queue without ERROR that fills at most the ring: SQ_TAIL moves to any value from SQ_TAIL to
SQ_HEAD + 2^SQ_LOG2, CQ_HEAD to any from CQ_HEAD to CQ_TAIL, and every other value is not accepted and sets ERROR with
DOORBELL_RANGE. With ENABLE 0 both are ignored, and with ERROR 1 the submission doorbell is. -/
def Obligations.Doorbells : Prop := ∀ (s : State) (q : Fin 16384) (v : Word32), s.dev.power.main = true →
    let u := s.dev.queue q
    let n := 2 ^ u.sqLog2.toNat
    let refused : Dev → Prop := fun t => t.queue q = { u with error := true, errorCode := 0x10F }
      ∧ (∀ p, p ≠ q → t.queue p = s.dev.queue p) ∧ t.mem = s.dev.mem ∧ t.cmds = s.dev.cmds ∧ t.crofts = s.dev.crofts
      ∧ t.logs.count = satAdd 64 s.dev.logs.count 1
    (u.enable = true → u.error = false → u.sqLog2.toNat ≤ 16 → (u.sqTail - u.sqHead).toNat ≤ n →
      (∀ k : Nat, 0 < k → (u.sqTail - u.sqHead).toNat + k ≤ n → v = u.sqTail + BitVec.ofNat 32 k →
        Becomes (.submissionDoorbell q v) s (s.dev.setQueue q (Queue.waits { u with sqTail := v } s.dev.time.elapsed)))
      ∧ (v = u.sqTail → Becomes (.submissionDoorbell q v) s s.dev)
      ∧ ((∀ k : Nat, (u.sqTail - u.sqHead).toNat + k ≤ n → v ≠ u.sqTail + BitVec.ofNat 32 k) →
        Answers (.submissionDoorbell q v) s refused))
    ∧ (u.enable = false ∨ u.error = true → Becomes (.submissionDoorbell q v) s s.dev)
    ∧ (u.enable = true →
      (∀ k : Nat, k ≤ (u.cqTail - u.cqHead).toNat → v = u.cqHead + BitVec.ofNat 32 k →
        Becomes (.completionDoorbell q v) s (s.dev.setQueue q { u with cqHead := v, irqSent := false }))
      ∧ ((∀ k : Nat, k ≤ (u.cqTail - u.cqHead).toNat → v ≠ u.cqHead + BitVec.ofNat 32 k) →
        (u.error = false → Answers (.completionDoorbell q v) s refused)
        ∧ (u.error = true → Becomes (.completionDoorbell q v) s s.dev)))
    ∧ (u.enable = false → Becomes (.completionDoorbell q v) s s.dev)

/-- A write of CONFIG that sets ENABLE from 0 zeroes the four indices, clears ERROR and ERROR_CODE, takes the fields, and
sets ERROR with QUEUE_CONFIG when the block breaks a rule; it is ignored while DRAINING is 1, and with ENABLE 1. One that
clears ENABLE leaves DRAINING at 1 exactly while commands of the queue are in flight. That an enable leaves open whether an
interrupt was sent since the last completion doorbell (R321) as it was is the model's reading (log 44). -/
def Obligations.QueueEnableAndDisable : Prop := ∀ (s : State) (q : Fin 16384) (w : Word32), s.dev.power.main = true →
    let u := s.dev.queue q
    let fresh : Queue := { u with
      enable := true, error := false, cls := w.extractLsb' 28 2, prio := w.extractLsb' 25 3, irqEn := w.getLsbD 24
      sqLog2 := w.extractLsb' 19 5, cqLog2 := w.extractLsb' 14 5, sqHead := 0, sqTail := 0, cqHead := 0, cqTail := 0, errorCode := 0, waitSince := none }
    let ring := fun (base : Word64) (bytes : Nat) =>
      base.toNat % 4096 = 0 ∧ base.toNat + bytes ≤ 12 * 2 ^ 36 ∧ s.dev.units.unbackedIn base.toNat bytes = false
    let good := fresh.cls ≠ 3 ∧ fresh.sqLog2.toNat ≤ 16 ∧ fresh.cqLog2.toNat ≤ 16
      ∧ ring u.sqBase (128 * 2 ^ fresh.sqLog2.toNat) ∧ ring u.cqBase (32 * 2 ^ fresh.cqLog2.toNat)
      ∧ (fresh.irqEn = true → u.irqVector.toNat % 2 ^ 11 ≠ 0)
    (w.getLsbD 31 = true →
      (u.enable = false → u.draining = false → good → Becomes (.queueEnable q w) s (s.dev.setQueue q fresh))
      ∧ (u.enable = false → u.draining = false → ¬ good →
        Answers (.queueEnable q w) s fun t => t.queue q = { fresh with error := true, errorCode := 0x10E }
          ∧ (∀ p, p ≠ q → t.queue p = s.dev.queue p) ∧ t.mem = s.dev.mem ∧ t.cmds = s.dev.cmds
          ∧ t.logs.count = satAdd 64 s.dev.logs.count 1)
      ∧ (u.enable = true ∨ u.draining = true → Becomes (.queueEnable q w) s s.dev))
    ∧ (w.getLsbD 31 = false → u.enable = true →
      Becomes (.queueDisable q w) s
        (s.dev.setQueue q { u with enable := false, draining := decide (∃ c ∈ s.dev.cmds, c.queue = q), waitSince := none }))

/-- A naturally aligned store of an application core to backed device memory writes its 1, 2, 4 or 8 bytes, lowest first, and
no other byte; a store to a misaligned address, or one of 1 or 2 bytes to a register of hub MMIO, is MEM_UNMAPPED and only
logged; one of 4 bytes to CONFIG of a queue control block or to a doorbell is the write of that register. -/
def Obligations.RegisterWrites : Prop := ∀ (s : State) (a : Word64) (size : Fin 4) (v : Word64), s.dev.power.main = true →
    let n := 2 ^ size.val
    (a.toNat % n = 0 → inTiers a.toNat = true → inTiers (a.toNat + n - 1) = true → s.dev.units.unbackedIn a.toNat n = false →
      s.dev.memoriesWf → (s.dev.mesh.broken = false ∨ a.toNat + n ≤ 3 * 2 ^ 36) →
      Answers (.registerWrite a size v) s fun t => t.mem = writeBytes s.dev.mem a.toNat (leBytes n v.toNat)
        ∧ s.dev.memSame t a.toNat n ∧ (∀ i < n, readByte t.mem (a.toNat + i) = v.extractLsb' (8 * i) 8)
        ∧ t.crofts = s.dev.crofts ∧ t.queues = s.dev.queues ∧ t.cmds = s.dev.cmds ∧ t.logs.bare = s.dev.logs.bare)
    ∧ (a.toNat % n ≠ 0 → Becomes (.registerWrite a size v) s (s.dev.faultEvent 0x0602 none 0))
    ∧ (size.val < 2 → 0x50000000000 ≤ a.toNat → a.toNat < 0x50040000000 →
      Becomes (.registerWrite a size v) s (s.dev.faultEvent 0x0602 none 0))
    ∧ (∀ q : Fin 16384, size = 2 → a.toNat = 0x50000100010 + 64 * q.val →
      exec (.registerWrite a size v) s = exec (if v.getLsbD 31 then .queueEnable q (v.setWidth 32) else .queueDisable q (v.setWidth 32)) s)
    ∧ (∀ q : Fin 16384, size = 2 → a.toNat = 0x50001000000 + 4096 * q.val →
      exec (.registerWrite a size v) s = exec (.submissionDoorbell q (v.setWidth 32)) s)
    ∧ (∀ q : Fin 16384, size = 2 → a.toNat = 0x50001000008 + 4096 * q.val →
      exec (.registerWrite a size v) s = exec (.completionDoorbell q (v.setWidth 32)) s)

/-- The life of a command. QUEUE_FETCH of an entry that breaks no rule puts it in flight, waiting, under its open job or
under a job opened at the lowest free position, and moves SQ_HEAD by one; an entry that breaks a rule is in flight as
finished with the lowest code. COMMAND_START starts a waiting command that nothing holds at this time. COMMAND_COMPLETION
writes the 32 bytes of a finished command's entry at CQ_BASE + 32 x slot and no other byte, moves CQ_TAIL by one and takes
the command out of flight; while an instruction still runs on a croft of a finished launch it is not written yet (R226,
R321). -/
def Obligations.CommandLife : Prop := (∀ (s : State) (q : Fin 16384), s.dev.power.main = true → s.dev.fetches q = true → s.dev.yields q = false →
    s.dev.boot.genKat = 1 →
    let u := s.dev.queue q
    let entry := readBytes s.dev.mem (u.sqBase.toNat + 128 * (u.sqHead.toNat % 2 ^ u.sqLog2.toNat)) 128
    let c : Cmd := { id := s.dev.nextCmd, queue := q, entry := entry, job := none, state := .waiting, begun := false
                     fetched := s.dev.time.elapsed, opener := false, startTime := 0, status := 0, cflags := 0, result := 0, detail := 0 }
    let taken : Cmd → Dev → Prop := fun c t => t.cmds = s.dev.cmds ++ [c]
      ∧ t.queue q = Queue.waits { u with sqHead := u.sqHead + 1, waitSince := none } s.dev.time.elapsed
      ∧ t.nextCmd = s.dev.nextCmd + 1 ∧ t.mem = s.dev.mem ∧ t.crofts = s.dev.crofts ∧ t.slots = s.dev.slots
    (∀ (j : Fin 64) (job : Job), c.formatFaults = [] → s.dev.jobOf (leAt entry 8 4) = some j → s.dev.job j = some job →
      (leAt entry 16 8 = 0 ∨ leAt entry 16 8 = job.params.openAddr) → job.closing = false → job.params.cls = u.cls →
      job.fault = none → leAt entry 0 1 ≠ 9 →
      Answers (.queueFetch q) s fun t => taken { c with job := some j } t ∧ t.jobs = s.dev.jobs)
    ∧ (∀ j : Fin 64, c.formatFaults = [] → s.dev.jobOf (leAt entry 8 4) = none → leAt entry 16 8 ≠ 0 →
      s.dev.blockFaults (leAt entry 16 8) (leAt entry 0 1) = [] → s.dev.job j = none → (∀ k < j, (s.dev.job k).isSome = true) →
      s.dev.power.standbyDue = false → leAt entry 0 1 ≠ 9 → s.dev.jobs.length = 64 →
      Answers (.queueFetch q) s fun t => taken { c with job := some j, opener := true } t
        ∧ (∃ job, t.job j = some job ∧ job.params.handle = BitVec.ofNat 32 (leAt entry 8 4)
          ∧ job.params.openAddr = leAt entry 16 8 ∧ job.params.cls = u.cls
          ∧ job.params.crofts = leAt (readBytes s.dev.mem (leAt entry 16 8) 64) 0x28 2
          ∧ job.params.seed = BitVec.ofNat 64 (leAt (readBytes s.dev.mem (leAt entry 16 8) 64) 0 8)
          ∧ job.params.det = s.dev.live.detEnable ∧ job.fault = none ∧ job.closing = false)
        ∧ ∀ k, k ≠ j → t.job k = s.dev.job k)
    ∧ (∀ code, lowest (c.formatFaults ++ s.dev.jobFaults c u.cls) = some code →
      Answers (.queueFetch q) s fun t => taken { c with state := .finished, status := code } t ∧ t.jobs = s.dev.jobs))
  ∧ (∀ (s : State) (id : Nat) (c : Cmd) (j : Fin 64) (job : Job), s.dev.cmd id = some c → c.state = .waiting → c.job = some j →
    s.dev.job j = some job → s.dev.orderedBehind c = false →
    (c.launches = true → c.setBad job.params.crofts = true ∨ (s.dev.emergency = false ∧ s.dev.namesBusy c j = false
      ∧ s.dev.activationHolds = false ∧ s.dev.canBind c j job = true ∧ s.dev.givesWay c = false)) →
    Becomes (.commandStart id) s (s.dev.onCmd id fun q => { q with state := .running, startTime := s.dev.now }))
  ∧ (∀ (s : State) (id : Nat) (c : Cmd) (j : Fin 64) (job : Job), s.dev.cmd id = some c → c.state = .finished → c.job = some j →
    s.dev.job j = some job → c.opcode ≠ 9 → s.dev.memoriesWf → c.entry.length = 128 → s.dev.launchRuns c = false →
    let u := s.dev.queue c.queue
    let a := u.cqBase.toNat + 32 * (u.cqTail.toNat % 2 ^ u.cqLog2.toNat)
    let entry := (c.entry.drop 4).take 4 ++ leBytes 2 c.queue.val ++ leBytes 2 c.status
      ++ leBytes 4 ((c.cflags ||| if c.begun then s.dev.reportOf c else 0).toNat + (if u.cqTail.toNat / 2 ^ u.cqLog2.toNat % 2 = 0 then 2 ^ 31 else 0))
      ++ leBytes 4 u.sqHead.toNat ++ leBytes 8 c.result.toNat ++ leBytes 8 c.detail.toNat
    Answers (.commandCompletion id) s fun t => entry.length = 32 ∧ (∀ i < 32, some (readByte t.mem (a + i)) = entry[i]?)
      ∧ s.dev.memSame t a 32 ∧ (∀ k ∈ t.cmds, k.id ≠ id) ∧ (∀ k ∈ s.dev.cmds, k.id ≠ id → k ∈ t.cmds)
      ∧ (t.queue c.queue).cqTail = u.cqTail + 1 ∧ (t.queue c.queue).commands = satInc u.commands
      ∧ (t.queue c.queue).sqHead = u.sqHead ∧ (∀ p, p ≠ c.queue → t.queue p = s.dev.queue p)
      ∧ (∃ k, t.job j = some k ∧ k.ledger.commands = satAdd 64 job.ledger.commands 1 ∧ k.params = job.params)
      ∧ (u.irqEn = true → u.irqSent = true → t.irqs = s.dev.irqs) ∧ (u.irqEn = false → t.irqs = s.dev.irqs)
      ∧ (u.irqEn = true → u.irqSent = false → u.irqVector.toNat % 2 ^ 11 ≠ 0 →
        (bitsOf u.irqVector.toNat 16 5, u.irqVector.getLsbD 31, u.irqVector.toNat % 2 ^ 11) ∈ t.irqs)
      ∧ t.crofts = s.dev.crofts)
  ∧ (∀ (s : State) (id : Nat) (c : Cmd), s.dev.cmd id = some c → c.state ≠ .finished ∨ s.dev.launchRuns c = true →
    Becomes (.commandCompletion id) s s.dev)

/-- A LAUNCH that starts loads its program into every logical croft it names: the instructions stand at LOAD_OFFSET, issue
begins at ENTRY with cleared address registers and R197's counters, the first launch also clears semaphores and contexts, and
no other Granary byte changes. In a job of one device the crofts run at once; in a job of several they wait at the implicit
barrier of R285, where the launch makes this device's one arrival: on logical device 0 the last arrival of the D gives the
generation its release time, on another device it is still to go to the parent. In a free-mode job a croft launched for the
first time has no generator state until the Well has answered its seeding request (R110, R412). A FIELD_RUN zeroes the range
of R317, fills it, and queues FIELD.LOAD, FIELD.SWEEP and FIELD.READ on the croft it names; the completion of that FIELD.READ
writes what it left at the output offset to OUT_ADDR, stops the croft and ends the command with the sweeps done. -/
def Obligations.Launches : Prop := (∀ (s : State) (id : Nat) (c : Cmd) (j : Fin 64) (job : Job), s.dev.started id 1 = some (c, j, job) →
    lowest (s.dev.launchFaults c j job) = none → s.dev.bindsNow c j job = true → s.dev.memoriesWf →
    let a := leAt c.entry 0x20 8
    let head := readBytes s.dev.mem a 64
    let count := leAt head 8 4
    let load := leAt head 0xC 4
    let code := readBytes s.dev.mem (a + 64) (16 * count)
    let devices := job.params.devices
    let ldev := job.params.ldev
    let named := (List.finRange 256).filter fun n => bitOf (leAt c.entry 0x30 32) n.val
    let b := s.dev.implicitBar j devices ldev ldev
    Answers (.launch id) s fun t => t.mem = s.dev.mem ∧ (t.cmd id).map (·.begun) = some true
      ∧ (devices ≤ 1 → t.bars = s.dev.bars)
      ∧ (1 < devices → b.parties = devices → ∃ q ∈ t.bars, q.implicit = true ∧ q.job = j ∧ q.jobScope = true
        ∧ q.gen = b.gen ∧ q.took = b.took ++ [(ldev, 1)]
        ∧ (ldev ≠ 0 → q.count = b.count + 1 ∧ q.release = none ∧ q.fresh = b.fresh ++ named ∧ q.waiting = b.waiting)
        ∧ (ldev = 0 → b.count + 1 < devices → q.count = b.count + 1 ∧ q.release = none ∧ q.waiting = b.waiting ++ named)
        ∧ (ldev = 0 → b.count + 1 = devices → q.waiting = b.waiting ++ named
          ∧ q.release = some (s.dev.now + s.dev.barrierLead job)
          ∧ Sent.barrier j true 0 false devices (s.dev.now + s.dev.barrierLead job) ∈ t.sent))
      ∧ ∀ n : Fin 256, bitOf (leAt c.entry 0x30 32) n.val = true → (∀ x, s.dev.croft ⟨j, n⟩ = some x → x.seq.state ≠ .halted) →
        ∃ y : Croft, t.croft ⟨j, n⟩ = some y ∧ y.seq.state = (if 1 < devices then .barrier true 0 devices true else .running)
          ∧ y.seq.pc = leAt head 0x10 4 ∧ y.seq.count = count
          ∧ y.seq.loadOffset = load ∧ y.seq.areg = List.replicate 16 ⟨0, 0⟩ ∧ y.seq.step = 0
          ∧ y.seq.cnt = [BitVec.ofNat 32 n.val, BitVec.ofNat 32 job.params.crofts, BitVec.ofNat 32 ldev, 0, 0, 0, 0, 0]
          ∧ (∀ i < 16 * count, some (readByte y.granary (load + i)) = code[i]?)
          ∧ (∀ x, s.dev.croft ⟨j, n⟩ = some x → y.seq.sems = x.seq.sems ∧ y.ctxs = x.ctxs ∧ x.granarySame y load (16 * count))
          ∧ (s.dev.croft ⟨j, n⟩ = none → y.seq.sems = List.replicate 32 0
            ∧ (∀ k, k < load ∨ load + 16 * count ≤ k → readByte y.granary k = 0)
            ∧ (∀ v ∈ y.ctxs, v.valid = false) ∧ (∀ l ∈ y.lanes, l.ready = false)
            ∧ (job.params.laneFree = true → y.slot.isSome = true → WellReq.lanes ⟨j, n⟩ [] ∈ t.well.requests)))
  ∧ (∀ (s : State) (id : Nat) (c : Cmd) (j : Fin 64) (job : Job), s.dev.started id 6 = some (c, j, job) →
    lowest (s.dev.runFaults c j job) = none → s.dev.bindsNow c j job = true → s.dev.memoriesWf →
    let n : Fin 256 := Fin.ofNat 256 (leAt c.entry 0x20 2)
    let model := readBytes s.dev.mem (leAt c.entry 0x28 8) 148032
    (∀ x, s.dev.croft ⟨j, n⟩ = some x → x.seq.state ≠ .halted ∧ x.Shaped) →
    Answers (.fieldRun id) s fun t => t.mem = s.dev.mem ∧ (t.cmd id).map (·.begun) = some true
      ∧ ∃ y : Croft, t.croft ⟨j, n⟩ = some y ∧ y.seq.state = .reeve
          ∧ (y.units.queues.getD 6 []).map (fun i => InstrWord.operation i.word) = [some .load, some .sweep, some .read]
          ∧ (∀ i < 148032, some (readByte y.granary (0x3F80000 + i)) = model[i]?)
          ∧ (∀ i, 0x3FB0000 ≤ i → i < 0x4000000 → readByte y.granary i = 0)
          ∧ ∀ x, s.dev.croft ⟨j, n⟩ = some x → x.granarySame y 0x3F80000 0x80000
            ∧ ∀ k < 64, k ≠ leAt c.entry 0x22 1 → y.ctxs[k]? = x.ctxs[k]?)
  ∧ (∀ (s : State) (c : CroftRef) (x y : Croft) (job : Job) (r : Running) (q : Cmd), s.dev.croft c = some x →
    s.dev.job c.job = some job → s.dev.commandOf c = some q → x.seq.state = .reeve → x.units.field = some r → x.inFlight = [r] →
    InstrWord.operation r.ins.word = some .read → InstrWord.sigEn r.ins.word = false → x.seq.held = false →
    x.finishField job.params.staleness r = some y → s.dev.memoriesWf →
    let out := leAt q.entry 0x40 8
    let n := if bitOf (leAt q.entry 0x23 1) 2 then 4160 else 64
    Answers (.instructionCompletion c .field) s fun t =>
      (∀ i < n, readByte t.mem (out + i) = readByte y.granary (0x3FB0000 + i)) ∧ s.dev.memSame t out n
      ∧ (∃ z, t.croft c = some z ∧ z.seq.state = .stopped ∧ z.units.field = none ∧ z.granary = y.granary)
      ∧ (t.cmd q.id).map (fun k => (k.state, k.status, k.result))
        = some (.finished, 0, ((y.ctxs[leAt q.entry 0x22 1]?).map (·.sweeps)).getD 0)
      ∧ t.jobs = s.dev.jobs ∧ ∀ c' : CroftRef, c' ≠ c → t.croft c' = s.dev.croft c')

/-- COPY with no fault moves every row in turn: where no later row lies over it, each byte of a destination row holds the
source byte as it was, unless an earlier row was written over that source byte; no byte outside the rows changes. MULTICAST
writes the LENGTH bytes at SRC to DST of every croft that can be reached, and its mask at MASK_ADDR. FENCE ends once no
earlier command of its scope is in flight, and TIMESTAMP at once with the time of its start. -/
def Obligations.DataCommands : Prop := (∀ (s : State) (id : Nat) (c : Cmd) (j : Fin 64) (job : Job), s.dev.started id 2 = some (c, j, job) →
    let m := c.copyDesc
    lowest (s.dev.copyFaults j job m) = none → s.dev.memoriesWf →
    (∀ k o, m.src = .croft k o ∨ m.dst = .croft k o → (s.dev.croft ⟨j, Fin.ofNat 256 k⟩).isSome = true
      ∧ s.dev.reached s.dev.hub.map ⟨j, Fin.ofNat 256 k⟩ = ⟨j, Fin.ofNat 256 k⟩) →
    let place : MemRef → Option (Fin 256) := fun r => match r with
      | .croft k _ => some (Fin.ofNat 256 k)
      | _ => none
    let cells : Dev → MemRef → Cells := fun d r => match r with
      | .croft k _ => ((d.croft ⟨j, Fin.ofNat 256 k⟩).map (·.granary)).getD []
      | _ => d.mem
    Answers (.copy id) s fun t =>
      (∀ k < m.rows, ∀ i < m.rowBytes,
        (∀ l, k < l → l < m.rows → ¬ (m.dst.offset + l * m.dstStride ≤ m.dst.offset + k * m.dstStride + i
          ∧ m.dst.offset + k * m.dstStride + i < m.dst.offset + l * m.dstStride + m.rowBytes)) →
        (∀ l < k, place m.src = place m.dst → ¬ (m.dst.offset + l * m.dstStride ≤ m.src.offset + k * m.srcStride + i
          ∧ m.src.offset + k * m.srcStride + i < m.dst.offset + l * m.dstStride + m.rowBytes)) →
        readByte (cells t m.dst) (m.dst.offset + k * m.dstStride + i)
          = readByte (cells s.dev m.src) (m.src.offset + k * m.srcStride + i))
      ∧ (∀ a, (∀ k < m.rows, ¬ (m.dst.offset + k * m.dstStride ≤ a ∧ a < m.dst.offset + k * m.dstStride + m.rowBytes)) →
        readByte (cells t m.dst) a = readByte (cells s.dev m.dst) a)
      ∧ (∀ k o, m.dst = .croft k o → t.mem = s.dev.mem) ∧ (∀ a, m.dst = .device a → t.crofts = s.dev.crofts)
      ∧ (t.cmd id).map (fun q => (q.state, q.status, q.result)) = some (.finished, 0, BitVec.ofNat 64 (m.rowBytes * m.rows))
      ∧ t.jobs = s.dev.jobs ∧ t.slots = s.dev.slots)
  ∧ (∀ (s : State) (id : Nat) (c : Cmd) (j : Fin 64) (job : Job), s.dev.started id 3 = some (c, j, job) → s.dev.memoriesWf →
    let src := leAt c.entry 0x20 8
    let dst := leAt c.entry 0x28 4
    let n := leAt c.entry 0x2C 4
    let mask := leAt c.entry 0x30 32
    let out := leAt c.entry 0x50 8
    let asked := (List.finRange 256).filter fun k => bitOf mask k.val
    setBad asked job.params.crofts = false → s.dev.hubRange src n = [] → s.dev.hubRange out 32 = [] → s.dev.mesh.broken = false →
    meetsPoison s.dev.memPoison src n = false →
    (∀ k ∈ asked, ∀ x, s.dev.croft ⟨j, k⟩ = some x → x.progMeets ⟨dst, n, 0, 1⟩ = false) →
    (∀ k ∈ s.dev.deliverable j asked, s.dev.reached s.dev.hub.map ⟨j, k⟩ = ⟨j, k⟩) →
    Answers (.multicast id) s fun t =>
      (∀ k ∈ s.dev.deliverable j asked, ∀ x, s.dev.croft ⟨j, k⟩ = some x → ∃ y, t.croft ⟨j, k⟩ = some y
        ∧ (∀ i < n, readByte y.granary (dst + i) = readByte s.dev.mem (src + i)) ∧ x.granarySame y dst n ∧ y.seq = x.seq)
      ∧ (∀ k, k ∉ s.dev.deliverable j asked → t.croft ⟨j, k⟩ = s.dev.croft ⟨j, k⟩)
      ∧ s.dev.memSame t out 32 ∧ leNat (readBytes t.mem out 32) = maskOf (s.dev.deliverable j asked)
      ∧ ∃ q, t.cmd id = some q ∧ q.state = .finished ∧ q.status = 0
        ∧ q.result = BitVec.ofNat 64 (s.dev.deliverable j asked).length
        ∧ (maskOf (s.dev.deliverable j asked) ≠ mask → q.cflags.getLsbD 5 = true))
  ∧ (∀ (s : State) (id : Nat) (c : Cmd) (j : Fin 64) (job : Job), s.dev.started id 7 = some (c, j, job) →
    let behind := ∃ q ∈ s.dev.cmds, q.id < c.id ∧ (if leAt c.entry 0x20 1 = 1 then q.job = some j else q.queue = c.queue)
    (¬ behind → Becomes (.fence id) s (s.dev.onCmd id fun q => { q with state := .finished, status := 0, result := 0, detail := 0 }))
    ∧ (behind → Becomes (.fence id) s s.dev))
  ∧ (∀ (s : State) (id : Nat) (c : Cmd) (j : Fin 64) (job : Job), s.dev.started id 8 = some (c, j, job) →
    Becomes (.timestamp id) s (s.dev.onCmd id fun q =>
      { q with state := .finished, status := 0, result := BitVec.ofNat 64 c.startTime, detail := 0 }))

/-- MODEL_LOAD of a model that passes its check publishes the check and enters the image in the job's ledger; its RESULT is
the number of conflicting entries; OVERRIDE is judged on the conflicts alone (log 49). LEDGER_CLOSE, once it is alone, writes
a record that starts with its tag, names its length and handle and carries code, step and detail of the job's fault, zeros
when there is none (R365), signs it, and changes no other byte of memory. -/
def Obligations.ModelAndLedger : Prop := (∀ (s : State) (id : Nat) (c : Cmd) (j : Fin 64) (job : Job) (found : ModelFound) (bytes : List Byte),
    s.dev.started id 5 = some (c, j, job) →
    let a := leAt c.entry 0x20 8
    let m := modelHead (readBytes s.dev.mem a 64)
    s.dev.checkModel a = .ok (found, bytes) → found.format = false → (found.conflicts = 0 ∨ m.override = true) →
    (job.reference = true → m.nClasses = 0 ∧ found.conflicts = 0) → (job.params.det = true → found.conflicts = 0) →
    Answers (.modelLoad id) s fun t =>
      t.hub.model = ⟨if found.conflicts = 0 then 0 else 2, found.conflicts, match found.first with
        | some p => (BitVec.ofNat 32 p.1, BitVec.ofNat 32 p.2)
        | none => (0xFFFFFFFF, 0xFFFFFFFF)⟩
      ∧ (∃ q, t.job j = some q ∧ (∃ e ∈ q.ledger.models, e.hash = sha384 bytes) ∧ q.params = job.params)
      ∧ (t.cmd id).map (fun q => (q.state, q.status, q.result)) = some (.finished, 0, BitVec.ofNat 64 found.conflicts)
      ∧ t.mem = s.dev.mem ∧ t.crofts = s.dev.crofts ∧ t.slots = s.dev.slots)
  ∧ (∀ (s : State) (id : Nat) (c : Cmd) (j : Fin 64) (job : Job), s.dev.started id 9 = some (c, j, job) →
    (∀ q ∈ s.dev.cmds, q.job = some j → q.id = c.id) → s.dev.memoriesWf →
    let a := leAt c.entry 0x20 8
    let n := s.dev.ledgerLength j job
    s.dev.hubRange a (max 64 n) = [] → meetsPoison s.dev.memPoison a 64 = false → n ≤ leAt c.entry 0x28 4 →
    (∀ i < 16, readByte s.dev.mem (a + 48 + i) = 0) →
    Answers (.ledgerClose id true) s fun t => s.dev.memSame t a n
      ∧ leNat (readBytes t.mem a 4) = 0x5247444C ∧ leNat (readBytes t.mem (a + 8) 4) = n % 2 ^ 32
      ∧ leNat (readBytes t.mem (a + 12) 4) = job.params.handle.toNat
      ∧ leNat (readBytes t.mem (a + 0x13C) 2) = (job.fault.map (·.code)).getD 0 % 2 ^ 16
      ∧ leNat (readBytes t.mem (a + 0x140) 8) = (job.fault.map (·.step)).getD 0 % 2 ^ 64
      ∧ leNat (readBytes t.mem (a + 0x148) 8) = ((job.fault.map FaultRec.detail).getD 0).toNat
      ∧ (∃ k, readBytes t.mem (a + n - 96) 96 = ecSign s.dev.boot.key (readBytes t.mem a k) ∧ k + 96 = n)
      ∧ t.hub.ledgersSigned = s.dev.hub.ledgersSigned + 1
      ∧ (t.cmd id).map (fun q => (q.state, q.status, q.result)) = some (.finished, 0, BitVec.ofNat 64 n)
      ∧ t.crofts = s.dev.crofts ∧ t.jobs = s.dev.jobs)

/-- A COLLECTIVE of a job with one device, of any KIND and TYPE, ends at once with its own values (BF16 that is reduced
passes through FP32 and R92); one of several devices sends the contributions of its first step. A contribution that no
collective expects is counted as discarded; one whose digest is wrong is answered with REFUSE and counted; one whose codes or
length disagree halts the job with COLL_MISMATCH; any other is accepted on REPLY and kept. The one that completes a step
enters the values and sends the next step's contributions, and after the last step the result is written and the command
completes with the count of contributions resent. A received partial is reduced element by element, as received ⊕ held or
held ⊕ received. In the ring chunk c starts at device c + 1 and each device reduces received ⊕ held on the way to device c,
from where an ALLREDUCE passes the result on; in the tree device d reduces held ⊕ received from d + 2^l, an ALLREDUCE returns
by the same tree, a REDUCE_SCATTER sends chunk c from device 0 to device c, and a BROADCAST goes down the tree over (d −
root) mod D. An ALLGATHER goes by the ring and a BROADCAST by the tree whatever ALG says (log 106: the model's choice), and
where a single chunk's range lies in a buffer is log 25's. REFUSE makes the sender send the held contribution again with the
next ATTEMPT, and after attempt 3 the job halts with DIGEST_FAIL. A collective step past its limit halts the job. -/
def Obligations.Collectives : Prop := (∀ (s : State) (id : Nat) (c : Cmd) (j : Fin 64) (job : Job), s.dev.started id 4 = some (c, j, job) →
    lowest (s.dev.collFaults c.coll (leAt c.entry 0x38 8) job) = none →
    let k := c.coll
    (job.params.devices = 1 → job.params.ldev = 0 → s.dev.memoriesWf →
      Answers (.collective id) s fun t =>
        (k.wide = false → ∀ i < collWidth k.ty * k.elems,
          readByte t.mem (leAt c.entry 0x40 8 + i) = readByte s.dev.mem (leAt c.entry 0x38 8 + i))
        ∧ (k.wide = true → ∀ i < k.elems, readLe t.mem (leAt c.entry 0x40 8 + 2 * i) 2 =
          (convRne 7 (BitVec.ofNat 32 (65536 * readLe s.dev.mem (leAt c.entry 0x38 8 + 2 * i) 2))).raw)
        ∧ s.dev.memSame t (leAt c.entry 0x40 8) (collWidth k.ty * k.elems) ∧ t.crofts = s.dev.crofts ∧ t.jobs = s.dev.jobs
        ∧ (t.cmd id).map (fun q => (q.state, q.status, q.result)) = some (.finished, 0, 0))
    ∧ (2 ≤ job.params.devices → (∀ q ∈ job.colls, q.collId ≠ k.collId) →
      let range := k.srcRange (leAt c.entry 0x38 8) job.params.devices job.params.ldev
      let first := k.start job.params.devices job.params.ldev (readBytes s.dev.mem range.1 range.2)
      Answers (.collective id) s fun t =>
        (s.dev.sent ++ (first.outgoing job.params.devices job.params.ldev 0).map (first.toSent j job)) <+: t.sent
        ∧ (∃ q, t.job j = some q ∧ (∃ e ∈ q.colls, e.collId = k.collId) ∧ q.params = job.params) ∧ t.crofts = s.dev.crofts))
  ∧ (∀ (s : State) (j : Fin 64) (job : Job) (header : BitVec 256) (data : List Byte) (digest : BitVec 128),
    s.dev.job j = some job →
    let h := bytesOf header
    let discarded := { job with ledger := { job.ledger with discarded := satAdd 64 job.ledger.discarded 1 } }
    ((∀ k ∈ job.colls, k.collId.toNat ≠ leAt h 0 4) →
      Becomes (.contribution j header data digest) s { s.dev with jobs := s.dev.jobs.set j.val (some discarded) })
    ∧ (∀ k : Coll, job.colls = [k] → k.collId.toNat = leAt h 0 4 → k.step ≤ leAt h 4 4 →
      leAt h 4 4 < k.steps job.params.devices → leAt h 0xA 2 = job.params.ldev →
      (k.hopOf job.params.devices job.params.ldev (leAt h 4 4) (leAt h 8 2) (leAt h 0xC 4)).isSome = true →
      (∀ f ∈ k.received, ¬(f.step = leAt h 4 4 ∧ f.peer = leAt h 8 2 ∧ f.chunk = leAt h 0xC 4 ∧ f.seg = leAt h 0x10 4)) →
      (collDigest job.collKey h data ≠ bytesOf digest → leAt h 0x1C 1 < 3 →
        Answers (.contribution j header data digest) s fun t =>
          t.sent = s.dev.sent ++ [.refuse j (leAt h 8 2) k.collId (leAt h 4 4) (leAt h 0xC 4) (leAt h 0x10 4) (leAt h 0x1C 1)]
          ∧ (∃ q, t.job j = some q ∧ q.fault = job.fault ∧ q.colls = [k]
            ∧ q.ledger.mismatches = satAdd 64 job.ledger.mismatches 1)
          ∧ t.mem = s.dev.mem ∧ t.crofts = s.dev.crofts)
      ∧ (collDigest job.collKey h data = bytesOf digest → leAt h 0x18 4 = k.codes →
        leAt h 0x10 4 < k.segs job.params.devices (leAt h 4 4) (leAt h 0xC 4) → leAt h 0x14 4 = data.length →
        data.length = k.segBytes job.params.devices (leAt h 4 4) (leAt h 0xC 4) (leAt h 0x10 4) →
        let kept := { k with received := k.received ++ [⟨leAt h 8 2, leAt h 4 4, leAt h 0xC 4, leAt h 0x10 4, leAt h 0x1C 1, data⟩] }
        let next := kept.nextStep job.params.devices job.params.ldev
        let sent := s.dev.sent ++ [.accept j (leAt h 8 2) k.collId (leAt h 4 4) (leAt h 0xC 4) (leAt h 0x10 4)]
        (kept.stepDone job.params.devices job.params.ldev k.step = false →
          Answers (.contribution j header data digest) s fun t => (∃ q, t.job j = some q ∧ q.colls = [kept])
            ∧ t.sent = sent ∧ t.mem = s.dev.mem ∧ t.crofts = s.dev.crofts)
        ∧ (kept.stepDone job.params.devices job.params.ldev k.step = true → next.step < k.steps job.params.devices →
          next.stepDone job.params.devices job.params.ldev next.step = false →
          let out := next.outgoing job.params.devices job.params.ldev next.step
          Answers (.contribution j header data digest) s fun t =>
            (∃ q, t.job j = some q ∧ q.colls = [{ next with held := k.held ++ out, since := s.dev.time.elapsed }])
            ∧ t.sent = sent ++ out.map (next.toSent j job) ∧ t.mem = s.dev.mem ∧ t.crofts = s.dev.crofts)
        ∧ (kept.stepDone job.params.devices job.params.ldev k.step = true → next.step = k.steps job.params.devices → s.dev.memoriesWf →
          let result := k.narrow (if k.kind = 1 then next.vals.getD job.params.ldev [] else next.vals.flatten)
          let at_ := (k.dstRange job.params.devices job.params.ldev).1
          Answers (.contribution j header data digest) s fun t =>
            readBytes t.mem at_ result.length = result ∧ s.dev.memSame t at_ result.length
            ∧ (∀ q, s.dev.cmd k.cmd = some q → (t.cmd k.cmd).map (fun m => (m.state, m.status, m.result)) =
              some (.finished, 0, BitVec.ofNat 64 k.resent))
            ∧ t.sent = sent ∧ t.crofts = s.dev.crofts))
      ∧ (collDigest job.collKey h data = bytesOf digest → job.fault = none →
        leAt h 0x18 4 ≠ k.codes ∨ k.segs job.params.devices (leAt h 4 4) (leAt h 0xC 4) ≤ leAt h 0x10 4
          ∨ leAt h 0x14 4 ≠ data.length
          ∨ data.length ≠ k.segBytes job.params.devices (leAt h 4 4) (leAt h 0xC 4) (leAt h 0x10 4) →
        Answers (.contribution j header data digest) s fun t =>
          (∃ q, t.job j = some q ∧ q.fault = some ⟨0x0704, 0, 0⟩ ∧ q.colls = []) ∧ t.mem = s.dev.mem)))
  ∧ (∀ (k : Coll) (n v : Nat) (f : Frag) (h : Hop), k.hopOf n v f.step f.peer f.chunk = some h → f.chunk < k.vals.length → f.seg = 0 →
    k.partials n f.step = true → k.op < 3 → k.ty ≤ 3 → f.data.length = (k.vals.getD f.chunk []).length → k.width ∣ f.data.length →
    let mine := k.vals.getD f.chunk []
    let value := (k.enter n v f).vals.getD f.chunk []
    value.length = mine.length ∧ (∀ c, c ≠ f.chunk → (k.enter n v f).vals.getD c [] = k.vals.getD c [])
    ∧ (h.reduce = false → value = f.data)
    ∧ (h.reduce = true → ∀ i < mine.length / k.width,
      let got := leAt f.data (k.width * i) k.width
      let held := leAt mine (k.width * i) k.width
      leAt value (k.width * i) k.width = if h.before then collOp k.op k.ty got held else collOp k.op k.ty held got))
  ∧ (∀ (k : Coll) (n c t : Nat), 2 ≤ n → c < n → t + 1 < n →
    (k.kind < 2 → k.alg = 0 →
      ⟨(c + 2 + t) % n, c, true, false, false⟩ ∈ k.hops n ((c + 1 + t) % n) t
      ∧ k.hopOf n ((c + 2 + t) % n) t ((c + 1 + t) % n) c = some ⟨(c + 1 + t) % n, c, false, true, true⟩)
    ∧ (k.kind = 0 → k.alg = 0 →
      ⟨(c + 1 + t) % n, c, true, false, false⟩ ∈ k.hops n ((c + t) % n) (n - 1 + t)
      ∧ k.hopOf n ((c + 1 + t) % n) (n - 1 + t) ((c + t) % n) c = some ⟨(c + t) % n, c, false, false, false⟩)
    ∧ (k.kind = 2 → ⟨(c + 1 + t) % n, c, true, false, false⟩ ∈ k.hops n ((c + t) % n) t
      ∧ k.hopOf n ((c + 1 + t) % n) t ((c + t) % n) c = some ⟨(c + t) % n, c, false, false, false⟩))
  ∧ (∀ (k : Coll) (n c d l : Nat), 2 ≤ n → c < n → d % 2 ^ (l + 1) = 0 → d + 2 ^ l < n →
    let r := treeLevels n
    (k.kind < 2 → k.alg = 1 → ⟨d, c, true, false, false⟩ ∈ k.hops n (d + 2 ^ l) l
      ∧ k.hopOf n d l (d + 2 ^ l) c = some ⟨d + 2 ^ l, c, false, true, false⟩)
    ∧ (k.kind = 0 → k.alg = 1 → ⟨d + 2 ^ l, c, true, false, false⟩ ∈ k.hops n d (2 * r - 1 - l)
      ∧ k.hopOf n (d + 2 ^ l) (2 * r - 1 - l) d c = some ⟨d, c, false, false, false⟩)
    ∧ (k.kind = 1 → k.alg = 1 → 0 < c → ⟨c, c, true, false, false⟩ ∈ k.hops n 0 r
      ∧ k.hopOf n c r 0 c = some ⟨0, c, false, false, false⟩)
    ∧ (k.kind = 3 → k.root < n →
      ⟨(d + 2 ^ l + k.root) % n, c, true, false, false⟩ ∈ k.hops n ((d + k.root) % n) (r - 1 - l)
      ∧ k.hopOf n ((d + 2 ^ l + k.root) % n) (r - 1 - l) ((d + k.root) % n) c = some ⟨(d + k.root) % n, c, false, false, false⟩))
  ∧ (∀ (s : State) (j : Fin 64) (job : Job) (k : Coll) (f : Frag) (attempt : Fin 4), s.dev.job j = some job → job.colls = [k] →
    k.held = [f] → f.attempt = attempt.val →
    (attempt.val < 3 → Answers (.refuse j k.collId f.peer f.step f.chunk f.seg attempt) s fun t =>
      t.sent = s.dev.sent ++ [k.toSent j job { f with attempt := f.attempt + 1 }]
      ∧ (∃ q, t.job j = some q ∧ q.colls = [{ k with held := [{ f with attempt := f.attempt + 1 }], resent := k.resent + 1 }])
      ∧ t.mem = s.dev.mem ∧ t.crofts = s.dev.crofts)
    ∧ (attempt.val = 3 → job.fault = none → Answers (.refuse j k.collId f.peer f.step f.chunk f.seg attempt) s fun t =>
      (∃ q, t.job j = some q ∧ q.fault = some ⟨0x0706, 0, 0⟩ ∧ q.colls = []) ∧ t.mem = s.dev.mem))
  ∧ (∀ (s : State) (j : Fin 64) (job : Job) (k : Coll), s.dev.job j = some job → job.colls = [k] → job.fault = none →
    k.step < k.steps job.params.devices →
    (s.dev.limitsHeld j = false → Answers (.collTimeout j) s fun t =>
      (∃ q, t.job j = some q ∧ q.fault = some ⟨0x0705, 0, 0⟩ ∧ q.params = job.params) ∧ t.mem = s.dev.mem)
    ∧ (s.dev.limitsHeld j = true → Becomes (.collTimeout j) s s.dev))

/-! ## Fohal (09_fohal_scale_out.md R260 to R282, R296; 16_power_clocks_thermal.md R449) -/

/-- On an UP port a lost flit, or one whose CRC fails, is discarded and counted, and so is any later flit until the expected
SEQ arrives; the expected SEQ is NAKed, at most once in a round trip. An intact IDLE or LINK flit with the expected SEQ is
counted, SEQ moves on by one, and what its ACK covers leaves the replay buffer; a NAK flit does this too, and acts as the NAK
it carries. A NAK makes the sender resend in order from the named flit, and the eighth for one SEQ enters RETRAIN. Corrected
symbols are counted by lane and for the port, and uncorrectable codewords for the port. That flits received are those taken
in sequence, flits sent the first sendings, and NAKs those received is log 106 (the model's choice). -/
def Obligations.LinkRetry : Prop := ∀ (s : State) (p : Fin 12) (q : Port), s.dev.power.main = true → s.dev.port p.val = some q → q.state = .up →
    let becomes : Instr → Port → List Sent → Prop := fun i u extra => Becomes i s
      { (s.dev.onPort p.val fun _ => u) with sent := s.dev.sent ++ extra }
    let now := s.dev.time.elapsed
    (∀ (a : FlitArrival) (lost : Bool),
      let f := a.flit
      let fixed : Port := { q with
        fec := (q.fec.zipIdx).map fun k => k.1 + a.fec.getD k.2 0
        counters := { q.counters with
          corrected := satAdd 64 q.counters.corrected a.fec.sum, bad := satAdd 64 q.counters.bad a.bad.val } }
      let refuses : Port → Prop := fun u =>
        (q.nakSent = true → 64 * now < 64 * q.nakAt + q.rtt * unitsPerNs → becomes (.fohalFlit p a lost) u [])
        ∧ (q.nakSent = false ∨ 64 * q.nakAt + q.rtt * unitsPerNs ≤ 64 * now → q.replay.length < 4096 →
          becomes (.fohalFlit p a lost) { u with
              nakSent := true, nakAt := now, sendSeq := q.sendSeq + 1
              replay := q.replay ++ [sealFlit (bareFlit 2) q.sendSeq q.expectSeq]
              counters := { u.counters with sent := satAdd 64 q.counters.sent 1 } }
            [.flit p.val (sealFlit (bareFlit 2) q.sendSeq q.expectSeq)])
      (lost = true ∨ flitCrcOk f = false → refuses { fixed with counters := { fixed.counters with
          lost := satAdd 64 q.counters.lost 1 } })
      ∧ (lost = false → flitCrcOk f = true → (∃ k : Nat, 1 ≤ k ∧ k ≤ 4095 ∧ flitSeq f = q.expectSeq + BitVec.ofNat 16 k) →
        refuses fixed)
      ∧ (lost = false → flitCrcOk f = true → flitSeq f = q.expectSeq →
        let taken : Port := { fixed with
          expectSeq := q.expectSeq + 1, nakSent := false
          replay := q.replay.filter fun g => !seqPrecedes (flitSeq g) (BitVec.ofNat 16 (flitAt f 2 2))
          counters := { fixed.counters with received := satAdd 64 q.counters.received 1 } }
        (flitAt f 4 1 ≠ 1 → flitAt f 4 1 ≠ 2 → becomes (.fohalFlit p a lost) taken [])
        ∧ (flitAt f 4 1 = 2 → Becomes (.fohalFlit p a lost) s
          ((s.dev.onPort p.val fun _ => taken).nak p (BitVec.ofNat 16 (flitAt f 2 2))))))
    ∧ (∀ seq : BitVec 16,
      let n := if q.nakSeq = seq then q.nakCount + 1 else 1
      let u : Port := { q with
        nakSeq := seq, nakCount := n, counters := { q.counters with naks := satAdd 64 q.counters.naks 1 }
        replay := q.replay.filter fun g => !seqPrecedes (flitSeq g) seq }
      (n < 8 → becomes (.nak p seq) u
        ((u.replay.filter fun g => flitSeq g == seq || seqPrecedes seq (flitSeq g)).map fun g => .flit p.val g))
      ∧ (8 ≤ n → becomes (.nak p seq) { u with
          state := .retrain, nakCount := 0
          counters := { u.counters with retrains := satAdd 64 u.counters.retrains 1 } } []))

/-- A BULK flit in sequence for this device lands its payload at TARGET plus OFFSET of the logical croft it names, nowhere
else, and its message is acknowledged on REPLY once all its bytes are in, routed as the job's messages are. It lands whatever
runs there: a write that meets a program faults where it starts (R222), not where it lands. Past the end of the Granary
nothing lands. A message of no job open here, or of one that its source has no part in, lands nowhere and is not
acknowledged. How source and tag give the job is the manual's open point, which the operand of the command settles (log
22). -/
def Obligations.PayloadLands : Prop := ∀ (s : State) (p : Fin 12) (q : Port) (e : FlitArrival) (n off : Nat),
    s.dev.power.main = true → s.dev.port p.val = some q → q.state = .up →
    let f := e.flit
    flitCrcOk f = true → flitSeq f = q.expectSeq →
    flitAt f 4 1 = 1 → flitAt f 8 2 % 2 ^ 15 = s.dev.live.fabricAddr → flitAt f 5 1 % 4 = 3 →
    memRef (flitAt f 0x10 8) = .croft n off →
    let src := flitAt f 0xA 2 % 2 ^ 15
    let tag := flitAt f 0xC 4
    let a := off + flitAt f 0x18 4
    let z := 32 * (flitAt f 6 1 % 8)
    let before := if bitOf (flitAt f 7 1) 2 then none
      else s.dev.fabric.partials.find? fun k => k.src == src && k.tag == tag
    let count := ((before.map (·.count)).getD 0) + z
    let total := if bitOf (flitAt f 7 1) 1 then some (flitAt f 0x18 4 + z) else before.bind (·.total)
    (∀ (j : Fin 64) (job : Job) (x : Croft), e.job = some j → s.dev.job j = some job → src ∈ job.devs →
      s.dev.croft ⟨j, Fin.ofNat 256 n⟩ = some x → Cells.wf x.granary = true →
      (a + z ≤ 2 ^ 26 → Answers (.fohalFlit p e false) s fun t => (∃ y : Croft, t.croft ⟨j, Fin.ofNat 256 n⟩ = some y
          ∧ (∀ i < z, readByte y.granary (a + i) = flitByte f (0x1C + i)) ∧ x.granarySame y a z ∧ y.seq = x.seq)
        ∧ (∀ c : CroftRef, c ≠ ⟨j, Fin.ofNat 256 n⟩ → t.croft c = s.dev.croft c)
        ∧ (total = some count → t.sent = s.dev.sent ++ [.ack src tag job.params.adaptive])
        ∧ ((∀ k, total = some k → count < k) → t.sent = s.dev.sent)
        ∧ t.mem = s.dev.mem ∧ t.jobs = s.dev.jobs)
      ∧ (2 ^ 26 < a + z → Answers (.fohalFlit p e false) s fun t =>
        t.crofts = s.dev.crofts ∧ t.mem = s.dev.mem ∧ t.jobs = s.dev.jobs))
    ∧ ((∀ (j : Fin 64) (job : Job), e.job = some j → s.dev.job j = some job → src ∉ job.devs) →
      Answers (.fohalFlit p e false) s fun t =>
        t.crofts = s.dev.crofts ∧ t.sent = s.dev.sent ∧ t.mem = s.dev.mem ∧ t.jobs = s.dev.jobs)

/-- The states of a port. DOWN goes to DETECT on signal while the port is enabled, DETECT to TRAIN, TRAIN to MEASURE, MEASURE
to EXCHANGE with the capability record sent, RETRAIN to UP resending its replay buffer; the time limit of DETECT, TRAIN and
RETRAIN leads back to DOWN, and so does that of MEASURE and EXCHANGE, for which the table of R265 names no way (log 106: the
model's choice); 10 us without a flit leads from UP to RETRAIN. LEAVE leads from UP to DOWN and declares the partner lost,
and so does a RETRAIN that fails on the last port to a device. A port in DOWN holds nothing of its link. Remeasuring takes
the round trip. -/
def Obligations.PortStates : Prop := ∀ (s : State) (p : Fin 12) (q : Port), s.dev.power.main = true → s.dev.port p.val = some q →
    let becomes : Instr → Port → List Sent → Prop := fun i u extra => Becomes i s
      { (s.dev.onPort p.val fun _ => u) with sent := s.dev.sent ++ extra }
    let fallen : Port := { q with
      state := .down, replay := [], out := [], nakSent := false, nakCount := 0, lanes := 0, spare := false, width := 0
      fullRate := false, loss := List.replicate 9 0, rtt := 0, partner := List.replicate 64 0, bad := 0 }
    let addr := leAt q.partner 8 2 % 2 ^ 15
    let loses : Dev → Prop := fun t => t.port p.val = some fallen ∧ (addr ≠ s.dev.live.fabricAddr → addr ∈ t.fabric.lost)
      ∧ (∀ j job, s.dev.job j = some job → addr ∈ job.devs → job.fault = none →
        ∃ k, t.job j = some k ∧ k.fault = some ⟨0x0703, 0, 0⟩) ∧ t.mem = s.dev.mem
    (q.state = .down → s.dev.settings.portEnable.getD p.val false = true → s.dev.units.unfit = false →
      becomes (.portSignalDetect p) { q with state := .detect } [] ∧ becomes (.portStateTimeout p) { q with state := .detect } [])
    ∧ (q.state = .down → s.dev.settings.portEnable.getD p.val false = false →
      becomes (.portSignalDetect p) q [] ∧ becomes (.portStateTimeout p) q [])
    ∧ (q.state = .detect → becomes (.portPhaseDone p .detected) { q with state := .train } [])
    ∧ (q.state = .train → ∀ full, becomes (.portPhaseDone p (.trained full))
        { q with state := .measure, fullRate := full, width := 8, lanes := 0xFF, spare := false, bad := 0 } [])
    ∧ (q.state = .measure → ∀ loss rtt, becomes (.portPhaseDone p (.measured loss rtt))
        { q with state := .exchange, loss := loss, rtt := rtt } [.capability p.val (s.dev.capability p.val)])
    ∧ (q.state = .retrain → ∀ loss rtt, (∀ f ∈ q.replay, ∀ g, q.replay.head? = some g → f = g ∨ seqPrecedes (flitSeq g) (flitSeq f) = true) →
      becomes (.portPhaseDone p (.measured loss rtt)) { q with state := .up, loss := loss, rtt := rtt, nakSent := false }
        (q.replay.map fun f => .flit p.val f))
    ∧ (q.state = .detect ∨ q.state = .train ∨ q.state = .measure ∨ q.state = .exchange →
      Answers (.portStateTimeout p) s fun t => t.port p.val = some fallen ∧ (∀ k, k ≠ p.val → t.port k = s.dev.port k)
        ∧ t.sent = s.dev.sent ∧ t.jobs = s.dev.jobs ∧ t.crofts = s.dev.crofts ∧ t.mem = s.dev.mem ∧ t.logs.bare = s.dev.logs.bare)
    ∧ (q.state = .up → becomes (.portStateTimeout p) { q with
        state := .retrain, nakCount := 0, counters := { q.counters with retrains := satAdd 64 q.counters.retrains 1 } } [])
    ∧ (q.state = .up → ∀ rtt, becomes (.rttRemeasure p rtt) { q with rtt := rtt } [])
    ∧ (q.state = .up → Answers (.leave p) s loses)
    ∧ (q.state = .retrain → s.dev.otherPortTo p.val addr = false → Answers (.portStateTimeout p) s loses)

/-- A partner's capability record in EXCHANGE brings the port UP when the bundle majors are equal, both addresses are
assigned and differ, and no other device holds either; else the port returns to DOWN and BUNDLE_MISMATCH, or
FABRIC_ADDR_CONFLICT, is logged. SEQ and the expected SEQ begin at 0 on entry to UP (log 106: the model's choice). A failing
lane takes the spare while that is free: the swap is agreed in a LINK flit, and then what was in flight is resent (R269); a
second one halves the width, on the lowest four good lanes (log 93: the model's choice), while four are left; with fewer the
port goes DOWN. -/
def Obligations.PartnersAndLanes : Prop := ∀ (s : State) (p : Fin 12) (q : Port), s.dev.power.main = true → s.dev.port p.val = some q →
    (∀ r : BitVec 512, q.state = .exchange →
      let b := leBytes 64 r.toNat
      let addr := leAt b 8 2 % 2 ^ 15
      let good := leAt b 0xE 2 / 256 = s.dev.boot.bundle / 256 ∧ addr ≠ 0x7FFF ∧ s.dev.live.fabricAddr ≠ 0x7FFF
        ∧ addr ≠ s.dev.live.fabricAddr
        ∧ ∀ e ∈ s.dev.fabric.topo, (e.address = addr → e.deviceId.toNat = leAt b 0 8)
          ∧ (e.address = s.dev.live.fabricAddr → e.deviceId = s.dev.fuses.deviceId)
      let rest : Dev → Prop := fun t => t.mem = s.dev.mem ∧ t.crofts = s.dev.crofts ∧ t.jobs = s.dev.jobs
        ∧ ∀ k, k ≠ p.val → t.port k = s.dev.port k
      (good → Answers (.capabilityRecord p r) s fun t => t.port p.val = some { q with
          state := .up, partner := b, sendSeq := 0, expectSeq := 0, replay := [], nakSent := false, nakCount := 0 } ∧ rest t)
      ∧ (¬ good → Answers (.capabilityRecord p r) s fun t => (∃ u, t.port p.val = some u ∧ u.state = .down ∧ u.replay = []
            ∧ u.partner = List.replicate 64 0 ∧ u.counters = q.counters) ∧ rest t
          ∧ t.logs.count = satAdd 64 s.dev.logs.count 1
          ∧ ∃ e ∈ t.logs.general ++ t.logs.fatal, e.kind = 4 ∧ e.source = p.val ∧ e.event = 0xE000 + (Config.eventIdentity
              (if leAt b 0xE 2 / 256 = s.dev.boot.bundle / 256 then .fabricAddrConflict else .bundleMismatch)).toNat))
    ∧ (∀ lane : Fin 9, q.state = .up → q.lanes.getLsbD lane.val = true →
      let bad := q.bad ||| (1#9 <<< lane.val)
      let goodLanes := ((List.range 9).filter fun l => !bad.getLsbD l).length
      (q.spare = false → Answers (.laneSpared p lane) s fun t => (∃ u, t.port p.val = some u ∧ u.state = .up ∧ u.spare = true
            ∧ u.lanes = (q.lanes &&& ~~~(1#9 <<< lane.val)) ||| 0x100 ∧ u.bad = bad ∧ u.width = q.width ∧ q.replay <+: u.replay)
          ∧ (q.replay.length < 4096 → (s.dev.sent ++ .flit p.val (sealFlit (bareFlit 3) q.sendSeq q.expectSeq)
              :: q.replay.map fun f => .flit p.val f) <+: t.sent)
          ∧ (4096 ≤ q.replay.length → (∃ u, t.port p.val = some u ∧ u.out.head? = some ⟨0, bareFlit 3, 0, false⟩)
            ∧ (s.dev.sent ++ q.replay.map fun f => .flit p.val f) <+: t.sent)
          ∧ t.mem = s.dev.mem ∧ t.jobs = s.dev.jobs)
      ∧ (q.spare = true → 4 ≤ goodLanes → Answers (.laneSpared p lane) s fun t => (∃ u, t.port p.val = some u ∧ u.state = .retrain
          ∧ u.width = 4 ∧ u.replay = q.replay ∧ (∀ l, u.lanes.getLsbD l = true → bad.getLsbD l = false)
          ∧ ((List.range 9).filter fun l => u.lanes.getLsbD l).length = 4) ∧ t.mem = s.dev.mem ∧ t.jobs = s.dev.jobs)
      ∧ (q.spare = true → goodLanes < 4 → Answers (.laneSpared p lane) s fun t => (∃ u, t.port p.val = some u ∧ u.state = .down)
          ∧ t.mem = s.dev.mem ∧ t.jobs = s.dev.jobs))

/-- A link-state record is taken and flooded on exactly when its generation is higher than the one held for its device; a
lost device with a link UP has then rejoined. One that names this device as lost halts its jobs and leaves the list of lost
devices as it was (log 106). New routes raise TOPO_GENERATION by one, and a job with a device they do not reach halts with
FABRIC_NO_ROUTE. A message that a link left with flits of goes out again from its first flit, with RESTART set on that, and
is held on with the others until it is acknowledged. Device time slews by at most 500 ns an exchange, but steps at once, on
entry to SYNCED or as a new master, when it is more than 1 ms off. That an exchange with an error below 1.0 ns gives SYNCED
and another SYNCING, that a new master steps at its next exchange, and the slew of each exchange of 1 ms are log 65 (the
model's choice). -/
def Obligations.RoutesAndTime : Prop := (∀ (s : State) (r : LinkState), s.dev.power.main = true → r.deviceId ≠ s.dev.fuses.deviceId → r.lost = [] →
    let topo := (s.dev.fabric.topo.filter fun e => e.deviceId != r.deviceId) ++ [r]
    ((∀ e ∈ s.dev.fabric.topo, e.deviceId = r.deviceId → e.generation < r.generation) →
      (r.address ∉ s.dev.fabric.lost → Becomes (.linkStateRecord r) s { s.dev with
        fabric := { s.dev.fabric with topo := topo }, sent := s.dev.sent ++ [.linkState r] })
      ∧ ((∃ e ∈ r.ports, e.1 = 5) → Answers (.linkStateRecord r) s fun t => t.fabric.topo = topo
        ∧ t.fabric.lost = s.dev.fabric.lost.filter (· != r.address) ∧ t.sent = s.dev.sent ++ [.linkState r]
        ∧ t.jobs = s.dev.jobs ∧ t.crofts = s.dev.crofts ∧ t.mem = s.dev.mem))
    ∧ (∀ r', r' = { r with lost := [s.dev.live.fabricAddr] } → r.address ∉ s.dev.fabric.lost →
      (∀ e ∈ s.dev.fabric.topo, e.deviceId = r.deviceId → e.generation < r.generation) →
      Answers (.linkStateRecord r') s fun t => t.fabric.lost = s.dev.fabric.lost ∧ t.mem = s.dev.mem
        ∧ ∀ j job, s.dev.job j = some job → s.dev.live.fabricAddr ∈ job.devs → job.fault = none →
          ∃ k, t.job j = some k ∧ k.fault = some ⟨0x0703, 0, 0⟩)
    ∧ ((∃ e, s.dev.fabric.topo.find? (fun e => e.deviceId == r.deviceId) = some e ∧ r.generation ≤ e.generation) →
      Becomes (.linkStateRecord r) s s.dev))
  ∧ (∀ s : State, s.dev.power.main = true →
    Answers .routesUpdated s fun t => t.fabric.topoGen = s.dev.fabric.topoGen + 1 ∧ t.fabric.topo = s.dev.fabric.topo
      ∧ t.mem = s.dev.mem ∧ (∀ r ∈ t.fabric.routes, s.dev.routeTo r.dest = some r)
      ∧ (∀ (j : Fin 64) (job : Job) (a : Nat), s.dev.job j = some job → a ∈ job.devs → a ≠ s.dev.live.fabricAddr →
        (∀ r ∈ t.fabric.routes, r.dest ≠ a) → job.fault = none → ∃ k, t.job j = some k ∧ k.fault = some ⟨0x0701, 0, 0⟩))
  ∧ (∀ (s : State) (tag : Word32) (m : OwnMsg) (r : Route) (q : Port), s.dev.power.main = true →
    s.dev.fabric.messages.find? (fun k => k.tag == tag.toNat) = some m → m.adaptive = false → s.dev.routesTorus = false → s.dev.port r.primary = some q →
    let again := (m.flits.zipIdx).map fun p => if p.2 = 0 then restartFlit p.1 else p.1
    (∀ f ∈ again, s.dev.fabric.routes.find? (fun e => e.dest == flitAt f 8 2 % 2 ^ 15) = some r) →
    Answers (.messageRestart tag) s fun t => t.fabric.messages = s.dev.fabric.messages
      ∧ (t.port r.primary = some { q with
          out := (q.out.filter fun o => !(flitAt o.flit 4 1 == 1 && flitAt o.flit 0xA 2 % 2 ^ 15 == s.dev.live.fabricAddr
              && flitAt o.flit 0xC 4 == tag.toNat))
            ++ again.map fun f => ⟨flitAt f 5 1 % 4, flitOf (spliceBytes (flitBytes f) 5 (leBytes 1 (flitAt f 5 1 % 4))), 0, true⟩ })
      ∧ t.sent = s.dev.sent ∧ t.jobs = s.dev.jobs ∧ t.crofts = s.dev.crofts ∧ t.mem = s.dev.mem)
  ∧ (∀ (s : State) (offset : Int) (good : Bool), s.dev.power.main = true →
    let d := s.dev
    let steps : Dev → Prop := fun t => t.time = { d.time with offset := d.time.offset + offset }
      ∧ t.logs.count = satAdd 64 d.logs.count 1 ∧ t.mem = d.mem ∧ t.jobs = d.jobs
    let slews : Dev → Prop := fun t => t.time = { d.time with offset := d.time.offset + max (-500) (min 500 offset) }
      ∧ t.logs.count = d.logs.count ∧ t.mem = d.mem ∧ t.jobs = d.jobs
    (d.fabric.timeState ≠ .master → good = true → d.fabric.timeState ≠ .synced → 1000000 < offset.natAbs →
      Answers (.timeExchange offset ⟨good, d.fabric.ptpValid⟩) s fun t => steps t ∧ t.fabric.timeState = .synced)
    ∧ (d.fabric.timeState ≠ .master → good = false ∨ d.fabric.timeState = .synced ∨ offset.natAbs ≤ 1000000 →
      Answers (.timeExchange offset ⟨good, d.fabric.ptpValid⟩) s fun t => slews t
        ∧ t.fabric.timeState = if good then .synced else .syncing)
    ∧ (d.fabric.timeState = .master → d.fabric.ptpValid = true → d.fabric.stepDue = true → 1000000 < offset.natAbs →
      Answers (.timeExchange offset ⟨good, true⟩) s fun t => steps t ∧ t.fabric.timeState = .master ∧ t.fabric.stepDue = false)
    ∧ (d.fabric.timeState = .master → d.fabric.ptpValid = true → d.fabric.stepDue = false ∨ offset.natAbs ≤ 1000000 →
      Answers (.timeExchange offset ⟨good, true⟩) s fun t => slews t ∧ t.fabric.timeState = .master)
    ∧ (d.fabric.timeState = .master → d.fabric.ptpValid = false → Becomes (.timeExchange offset ⟨good, false⟩) s d))

/-! ## The object dictionary (11_object_dictionary.md R333 to R349) -/

/-- READ answers COUNT bytes of a value from OFFSET, fewer at its end, refuses an OFFSET beyond it, and changes nothing; INFO
answers the sixteen bytes of the descriptor. An address without an entry is NO_ENTRY, a READ of a WO entry and a WRITE of an
RO entry are ACCESS, and a WRITE below the entry's role is ROLE. -/
def Obligations.DictionaryReads : Prop := ∀ (s : State) (door : Door) (m : List Byte) (role : Nat), s.dev.Executes door m role →
    let d := s.dev
    let row := odFind (msgIndex m) (msgSub m)
    (∀ r : OdRow, msgKind m = 1 → msgShadow m = false → row = some r → r.access ≠ 2 → d.unavailable r (msgSub m) false = false →
      (r.index = 0x7804 → 2 ≤ role) →
      let size := d.sizeFor door r (msgSub m - r.lo)
      (msgOffset m ≤ size → Answers (.read door m) s (d.Answered door m 0
        (d.partFor door r (msgSub m - r.lo) (msgOffset m) (min (msgCount m) (size - msgOffset m)))))
      ∧ (size < msgOffset m → Answers (.read door m) s (d.Answered door m 0xA [])))
    ∧ (∀ r : OdRow, msgKind m = 1 → msgShadow m = false → row = some r → r.access ≠ 2 →
      r.index ∉ [0x4810, 0x7804, 0x9030, 0xB001, 0xC001] → d.unavailable r (msgSub m) false = false →
      let value := r.get d (msgSub m - r.lo)
      msgOffset m ≤ value.length → (r.index = 0x6002 ∨ r.index = 0x7010 → r.size d (msgSub m - r.lo) = value.length) →
      Answers (.read door m) s (d.Answered door m 0 ((value.drop (msgOffset m)).take (msgCount m))))
    ∧ (∀ r : OdRow, msgKind m = 3 → msgNext m = false → row = some r → r.index ≠ 0x9030 →
      Answers (.info door m) s (d.Answered door m 0
        (leBytes 1 r.type ++ leBytes 1 r.access ++ leBytes 1 r.role ++ leBytes 1 r.flash.toNat ++ leBytes 2 r.elem ++ leBytes 2 0
          ++ leBytes 4 (r.size d (msgSub m - r.lo)) ++ leBytes 4 (if r.max = 0 then r.size d (msgSub m - r.lo) else r.max))))
    ∧ (row = none → msgNext m = false →
      (msgKind m = 1 → Answers (.read door m) s (d.Answered door m 1 []))
      ∧ (msgKind m = 2 → Answers (.write door m) s (d.Answered door m 1 []))
      ∧ (msgKind m = 3 → Answers (.info door m) s (d.Answered door m 1 [])))
    ∧ (∀ r : OdRow, row = some r → (msgKind m = 1 → r.access = 2 → Answers (.read door m) s (d.Answered door m 2 []))
      ∧ (msgKind m = 2 → r.access = 0 → Answers (.write door m) s (d.Answered door m 2 []))
      ∧ (msgKind m = 2 → r.access ≠ 0 → role < r.role → Answers (.write door m) s (d.Answered door m 3 [])))

/-- What the writes of settings do, in a role that may and outside Standby. POWER_LIMIT holds from 1,000 W to the grade's
limit and takes effect at the next evaluation, one written during an emergency when it clears; PPS_OUT_ENABLE takes its value
and with 0 the PPS_OUT pin falls; TRACE_ENABLE and AGE_LIMIT take their value; a value out of range is VALUE_RANGE and
changes nothing, as is any value of TRACE_ENABLE under DEBUG_POLICY COUNTERS_ONLY. A write to an RWS entry changes the shadow
value only, and 1 to a COMMIT entry makes the shadow set pending. -/
def Obligations.DictionaryWrites : Prop := ∀ (s : State) (door : Door) (m : List Byte) (role v : Nat), s.dev.Executes door m role → s.dev.power.main = true → 3 ≤ role →
    let d := s.dev
    let top := if d.fuses.grade = 2 then 2500 else 3000
    (v < 2 ^ 32 → Writes m 0x2010 2 (leBytes 4 v) →
      (1000 ≤ v → v ≤ top → Answers (.powerLimitWrite door m) s (Dev.Answered { d with
          power := if d.emergency then { d.power with clearLimit := some v } else { d.power with nextLimit := some v } } door m 0 []))
      ∧ (v < 1000 ∨ top < v → Answers (.powerLimitWrite door m) s (d.Answered door m 5 [])))
    ∧ (v ≤ 1 → Writes m 0x3004 1 (leBytes 1 v) → Answers (.write door m) s (Dev.Answered { d with
        settings := { d.settings with ppsOutEnable := v == 1 }, pins := { d.pins with ppsOut := d.pins.ppsOut && v == 1 } } door m 0 []))
    ∧ (v ≤ 1 → Writes m 0xB000 1 (leBytes 1 v) →
      (d.fuses.debugPolicy ≠ 1 → Answers (.traceEnableWrite door m) s fun t =>
        t.logs.traceOn = (v == 1) ∧ d.Replied t door m 0 [] ∧ t.settings = d.settings ∧ t.mem = d.mem)
      ∧ (d.fuses.debugPolicy = 1 → Answers (.traceEnableWrite door m) s (d.Answered door m 5 [])))
    ∧ (v < 2 ^ 16 → Writes m 0x7811 1 (leBytes 2 v) →
      (100 ≤ v → v ≤ 500 → Answers (.write door m) s
        (Dev.Answered { d with settings := { d.settings with ageLimit := v } } door m 0 []))
      ∧ (v < 100 ∨ 500 < v → Answers (.write door m) s (d.Answered door m 5 [])))
    ∧ (v < 2 ^ 16 → Writes m 0x4800 2 (leBytes 2 v) →
      (v ≤ 0x7FFF → Answers (.shadowWrite door m) s (Dev.Answered { d with shadow := { d.shadow with fabricAddr := v } } door m 0 []))
      ∧ (0x7FFF < v → Answers (.shadowWrite door m) s (d.Answered door m 5 [])))
    ∧ (v ≤ 1 → Writes m 0x7000 1 (leBytes 1 v) → Answers (.shadowWrite door m) s
        (Dev.Answered { d with shadow := { d.shadow with detEnable := v == 1 } } door m 0 []))
    ∧ (∀ e ∈ [(Block.management, 0x1020, 2), (.fabric, 0x4800, 5), (.ethernet, 0x5042, 1), (.well, 0x6010, 4), (.determinism, 0x7000, 2)],
      (Writes m e.2.1 e.2.2 [1] → Answers (.commit door m) s (Dev.Answered { d with hub := { d.hub with
          commits := d.hub.commits.set (blockCode e.1) (some d.shadow) } } door m 0 []))
      ∧ (Writes m e.2.1 e.2.2 [0] → Answers (.commit door m) s (d.Answered door m 5 [])))
    ∧ (∀ (k : Nat) (bytes : List Byte), 1 ≤ k → k ≤ 32 → bytes.length = 50 → leAt bytes 48 2 ≤ 3 → Writes m 0x9010 k bytes →
      (d.settings.roleEntries.getD (k - 1) []).length = 50 →
      Answers (.roleEntryWrite door m) s fun t =>
        t.settings = { d.settings with roleEntries := d.settings.roleEntries.set (k - 1) bytes } ∧ t.live = d.live
        ∧ t.power = d.power ∧ t.mem = d.mem ∧ t.jobs = d.jobs
        ∧ ∀ i < 16, (t.hub.sessions.getD i none).map (·.fingerprint) = ((d.hub.sessions.getD i none).filter
            fun x => x.entry != k - 1 || d.settings.roleEntries.getD (k - 1) [] == bytes).map (·.fingerprint))
    ∧ (Writes m 0x6010 2 [0] → d.well.phase = .starting ∨ d.well.phase = .ready → d.well.requests = [] →
      Answers (.wellEnableWrite door m) s (Dev.Answered { d with
        settings := { d.settings with wellEnable := false }
        well := { d.well with phase := .disabled, cells := d.well.cells.map WellCell.stopped, drbg := Drbg.zero, queue := [] } }
        door m 0 []))
    ∧ (Writes m 0x6010 2 [1] → d.well.phase = .disabled → (∃ c ∈ d.well.cells, c.state = .active) →
      Answers (.wellEnableWrite door m) s fun t => t.settings.wellEnable = true ∧ t.well.phase = .starting
        ∧ (∀ c ∈ t.well.cells, c.state = .active → c.settling = true ∧ c.startup = 4) ∧ t.mem = d.mem ∧ t.jobs = d.jobs)

/-- The CMD entries of test, firmware, fuses and power, in a role that may and outside Standby. TEST_REQUEST of a slot that
may be tested waits; ACTIVATE of a verified image queues; CONFIRM raises the class's counter towards the ROLLBACK of its
image, bit by bit, when fuses may be programmed, ends when it is there or with FUSE_PROGRAM when a bit fails, and waits else;
REVOKE_KEY blows the slot's bit; STANDBY is noted, and READY in Standby; IMAGE_STAGE extends the image in the inactive slot.
Each is refused with BUSY while an earlier one of its kind stands: TEST_REQUEST, ACTIVATE, CONFIRM (also during an activation
of its class), REVOKE_KEY, POWER_REQUEST (either value), and IMAGE_STAGE of a class whose activation is queued or in
progress. The inactive slot is the one not in use (log 76), and how far the bits of a request blow is the operand's (log 77).
At its safe boundary a pending set becomes the committed values of its block and is no longer pending; what no member of the
block names stays. The fabric block waits for the moment without an open job (log 82), and without power nothing is
applied. -/
def Obligations.DictionaryCommandsAndCommits : Prop :=
  (∀ (s : State) (door : Door) (m : List Byte) (role : Nat), s.dev.Executes door m role → s.dev.power.main = true → 3 ≤ role →
     let d := s.dev
     (∀ slot set : Nat, slot < 80 → set ≤ 3 → d.testable slot = true → Writes m 0x7800 1 (leBytes 1 slot ++ leBytes 1 set) →
       (d.test.state = .idle → Answers (.testRequest door m) s
         (Dev.Answered { d with test := { d.test with state := .waiting, slot := slot, set := set } } door m 0 []))
       ∧ (d.test.state ≠ .idle → Answers (.testRequest door m) s (d.Answered door m 8 [])))
     ∧ (∀ c : Nat, c ≤ 5 → Writes m 0x8002 1 (leBytes 1 c) →
       (d.boot.act = .idle → d.verifyImage false c (!d.boot.slotInUse c) (d.boot.slotImage (!d.boot.slotInUse c) c) = none →
         Answers (.activate door m) s (Dev.Answered { d with boot := { d.boot with
           act := .queued, actClass := c, actSince := d.elapsedNs, switched := 0 } } door m 0 []))
       ∧ (d.boot.act ≠ .idle → Answers (.activate door m) s (d.Answered door m 8 [])))
     ∧ (∀ (c : Nat) (image : List Byte) (run : FuseRun), c ≤ 6 → Writes m 0x8006 1 (leBytes 1 c) →
       (d.boot.act ≠ .idle ∧ d.boot.actClass = c ∨ d.boot.confirm.isSome = true → Answers (.confirm door m run) s (d.Answered door m 8 []))
       ∧ (d.boot.act = .idle ∨ d.boot.actClass ≠ c → d.boot.confirm = none → d.boot.revoke = none →
         (d.fusesOpen = true → d.boot.inUse c = some image →
           let count := d.fuses.rollback.getD c 0
           let raised : Nat → Fuses := fun v => { d.fuses with
             rollback := d.fuses.rollback.set c v, wellRetired := d.fuses.wellRetired ||| d.boot.retired }
           (imageRollback image ≤ count + run.bits → Answers (.confirm door m run) s (Dev.Answered { d with
             fuses := raised (max count (imageRollback image))
             boot := { d.boot with result := (c, 0, d.now), retired := 0 } } door m 0 []))
           ∧ (count + run.bits < imageRollback image → run.fails = false → Answers (.confirm door m run) s (Dev.Answered { d with
             fuses := raised (count + run.bits)
             boot := { d.boot with confirm := some (c, d.elapsedNs, run), retired := 0 } } door m 0 []))
           ∧ (count + run.bits < imageRollback image → run.fails = true → Answers (.confirm door m run) s fun t =>
             t.fuses = raised (count + run.bits) ∧ t.boot = { d.boot with result := (c, 0x0B09, d.now), retired := 0 }
             ∧ d.Replied t door m 0 [] ∧ t.mem = d.mem ∧ t.jobs = d.jobs))
         ∧ (d.fusesOpen = false → Answers (.confirm door m run) s
           (Dev.Answered { d with boot := { d.boot with confirm := some (c, d.elapsedNs, run) } } door m 0 []))))
     ∧ (∀ (r : List Byte) (run : FuseRun), r.length = 194 → Writes m 0x9004 1 r → d.revokeBad r = false →
       (d.boot.revoke.isSome = true → Answers (.revokeKey door m run) s (d.Answered door m 8 []))
       ∧ (d.boot.revoke = none → d.boot.confirm = none →
         (d.fusesOpen = true →
           let kept : Fuses := { d.fuses with wellRetired := d.fuses.wellRetired ||| d.boot.retired }
           (0 < run.bits → Answers (.revokeKey door m run) s (Dev.Answered { d with
             fuses := { kept with rootRevoked := d.fuses.rootRevoked ||| BitVec.ofNat 4 (2 ^ leAt r 0 1) }
             boot := { d.boot with retired := 0 } } door m 0 []))
           ∧ (run.bits = 0 → run.fails = true → Answers (.revokeKey door m run) s fun t =>
             t.fuses = kept ∧ t.boot = { d.boot with retired := 0 } ∧ d.Replied t door m 0 [] ∧ t.mem = d.mem ∧ t.jobs = d.jobs))
         ∧ (d.fusesOpen = false → Answers (.revokeKey door m run) s
           (Dev.Answered { d with boot := { d.boot with revoke := some (r, d.elapsedNs, run) } } door m 0 []))))
     ∧ (Writes m 0x2031 1 (leBytes 2 1) →
       (d.power.standbyDue = false → d.power.readyAsked = false →
         Answers (.powerRequestStandby door m) s (Dev.Answered { d with power := { d.power with standbyDue := true } } door m 0 []))
       ∧ (d.power.standbyDue = true ∨ d.power.readyAsked = true → Answers (.powerRequestStandby door m) s (d.Answered door m 8 [])))
     ∧ (Writes m 0x2031 1 (leBytes 2 2) →
       (d.power.standbyDue = false → d.power.readyAsked = false → Answers (.powerRequestReady door m) s (d.Answered door m 0 []))
       ∧ (d.power.standbyDue = true ∨ d.power.readyAsked = true → Answers (.powerRequestReady door m) s (d.Answered door m 8 [])))
     ∧ (∀ (k : Nat) (bytes : List Byte), 1 ≤ k → k ≤ 6 → Writes m 0x8001 k bytes → d.boot.act ≠ .idle → d.boot.actClass = k - 1 →
       Answers (.imageStage door m) s (d.Answered door m 8 []))
     ∧ (∀ (k : Nat) (bytes : List Byte), 1 ≤ k → k ≤ 6 → Writes m 0x8001 k bytes → 0 < bytes.length → d.boot.act = .idle →
       stagedWhole bytes = false → d.boot.flash.length = 2 →
       let f := !d.boot.slotInUse (k - 1)
       Answers (.imageStage door m) s (Dev.Answered { d with boot := { d.boot with
         flash := modifyAt d.boot.flash f.toNat fun l => l.set (k - 1) bytes
         staging := d.boot.staging.set (k - 1) (some bytes.length)
         stagedVersion := d.boot.stagedVersion.set (k - 1) 0 } } door m 0 [])))
  ∧ (∀ (s : State) (door : Door) (m : List Byte) (role : Nat), s.dev.Executes door m role → s.dev.power.main = false → 3 ≤ role →
     Writes m 0x2031 1 (leBytes 2 2) →
     let d := s.dev
     (d.power.standbyDue = false → d.power.readyAsked = false → Answers (.powerRequestReady door m) s (Dev.Answered { d with
       power := { d.power with readyDue := true, readyAsked := true } } door m 0 []))
     ∧ (d.power.readyAsked = true → Answers (.powerRequestReady door m) s (d.Answered door m 8 [])))
  ∧ (∀ (s : State) (b : Block) (p : Staged), s.dev.hub.commits.getD (blockCode b) none = some p →
       let d := s.dev
       (b ≠ .fabric ∨ d.noJob = true → d.power.aux = true → d.pins.resetIn = false →
         Answers (.commitApplied b) s fun t => t.hub.commits = d.hub.commits.set (blockCode b) none
           ∧ t.live = (match b with
             | .management => { d.live with mgmtAddr := p.mgmtAddr }
             | .fabric => { d.live with topology := p.topology, fabricAddr := p.fabricAddr, coord := p.coord, dims := p.dims }
             | .ethernet => { d.live with ethMode := p.ethMode }
             | .well => { d.live with debias := p.debias }
             | .determinism => { d.live with detEnable := p.detEnable, longSum := p.longSum })
           ∧ t.shadow = d.shadow ∧ t.mem = d.mem ∧ t.jobs = d.jobs ∧ t.crofts = d.crofts ∧ t.settings = d.settings)
       ∧ (b = .fabric ∧ d.noJob = false ∨ d.power.aux = false ∨ d.pins.resetIn = true → Becomes (.commitApplied b) s d))

/-- The doors (the numbers of TLS and SPDM are those of their standards, log 32). A handshake reaches them at the device's
address and port alone. That of a client with a role, a good signature and an offer that fits asks the Well for its 64 bytes,
and without a Well is refused with internal_error; one without a role is refused with access_denied; an offer that does not
fit, a device without an owner and a seventeenth session end in an alert. A session idle for 300 s closes; GO submits the
request with BUSY, or answers FORMAT for a bad length; DONE clears; the SMBus answers at its address only, an address without
an entry with NO_ENTRY, a WO entry with ACCESS, and an entry outside its subset with ROLE. -/
def Obligations.Doors : Prop := ∀ s : State, s.dev.power.aux = true → s.dev.pins.resetIn = false → 2 ≤ s.dev.boot.step →
    let d := s.dev
    (∀ (f : BitVec 384) (o : DtlsOffer),
      let busy := (d.hub.sessions.filter Option.isSome).length + d.handshakes
      let alerted := fun (code : Option Nat) => Becomes (.dtlsHandshake f o) s { d with sent := d.sent ++ [.alert f code] }
      let fits := (0x1302 : BitVec 16) ∈ o.suites ∧ (24 : BitVec 16) ∈ o.groups ∧ (0x0503 : BitVec 16) ∈ o.signatures
      (d.hub.mgmtLink = false ∨ d.reachesBirsiler o = false → Becomes (.dtlsHandshake f o) s d)
      ∧ (d.hub.mgmtLink = true → d.reachesBirsiler o = true →
        (¬ fits → alerted none)
        ∧ (fits → d.roleFor f = none → alerted (some 49))
        ∧ (∀ role, fits → d.roleFor f = some role →
          (d.owned = false ∨ o.signed = false ∨ 16 ≤ busy → alerted none)
          ∧ (d.owned = true → o.signed = true → busy < 16 →
            (d.well.phase = .ready ∨ d.well.phase = .starting → Becomes (.dtlsHandshake f o) s
              { d with well := { d.well with requests := d.well.requests ++ [.watch (.dtls f) 64 []] } })
            ∧ (d.well.phase = .disabled ∨ d.well.phase = .failed → Becomes (.dtlsHandshake f o) s
              { d with well := { d.well with refused := satAdd 64 d.well.refused 1 }, sent := d.sent ++ [.alert f (some 80)] })))))
    ∧ (∀ o : DtlsOffer, (d.reachesBirsiler o = true → o.ipv6 = true ∧ o.port = 4747)
      ∧ (o.ipv6 = true → o.port = 4747 → o.dest.extractLsb' 118 10 = 0x3FA → d.reachesBirsiler o = true))
    ∧ (∀ (k : Fin 16) (x : Session), d.hub.sessions.getD k.val none = some x →
      (x.used + 300000000000 ≤ d.elapsedNs → Answers (.sessionIdleClose k) s fun t =>
        t.hub.sessions = d.hub.sessions.set k.val none ∧ t.settings = d.settings ∧ t.mem = d.mem ∧ t.jobs = d.jobs)
      ∧ (d.elapsedNs < x.used + 300000000000 → Becomes (.sessionIdleClose k) s d))
    ∧ (∀ up : Bool, Becomes (.mgmtLinkChange up) s { d with hub := { d.hub with mgmtLink := up } })
    ∧ (∀ v : Word32, d.power.main = true →
      let box : Mailbox := { d.hub.mailbox with irqEn := v.getLsbD 3, done := d.hub.mailbox.done && !v.getLsbD 2 }
      (v.getLsbD 0 = true → d.hub.mailbox.busy = false → 32 ≤ d.hub.mailbox.reqLen.toNat → d.hub.mailbox.reqLen.toNat ≤ 1056 →
        Becomes (.mailboxGo v) s { d with hub := { d.hub with mailbox := { box with busy := true } } })
      ∧ (v.getLsbD 0 = true → d.hub.mailbox.busy = false → d.hub.mailbox.reqLen.toNat < 32 ∨ 1056 < d.hub.mailbox.reqLen.toNat →
        Answers (.mailboxGo v) s fun t => t.hub.mailbox.busy = false ∧ t.hub.mailbox.done = true
          ∧ leAt t.hub.mailbox.reply 2 1 = 9 ∧ t.mem = d.mem ∧ t.settings = d.settings)
      ∧ (v.getLsbD 2 = true → v.getLsbD 0 = false →
        Becomes (.mailboxDoneClear v) s { d with hub := { d.hub with mailbox := { box with done := false } } }))
    ∧ (∀ (addr : BitVec 7) (index : BitVec 16) (sub : Byte) (off : BitVec 16) (count : Byte) (pec : Bool),
      addr.toNat ≠ 0x58 + d.pins.straps.val → Becomes (.smbusRead addr index sub ⟨off, count⟩ pec) s d)
    ∧ (∀ (addr : BitVec 7) (index : BitVec 16) (sub : Byte) (off : BitVec 16) (count : Byte),
      addr.toNat = 0x58 + d.pins.straps.val →
      let answers : Bool → List Byte → Prop := fun pec bytes => Becomes (.smbusRead addr index sub ⟨off, count⟩ pec) s
        { d with sent := d.sent ++ [.smbus (some bytes)] }
      let row := odFind index.toNat sub.toNat
      answers false [9] ∧ (count = 0 ∨ 32 < count.toNat → answers true [9])
      ∧ (1 ≤ count.toNat → count.toNat ≤ 32 → row = none → answers true [1])
      ∧ (1 ≤ count.toNat → count.toNat ≤ 32 → row.any (fun r => r.access == 2) = true → answers true [2])
      ∧ (1 ≤ count.toNat → count.toNat ≤ 32 → row.any (fun r => r.access != 2) = true → (index.toNat, sub.toNat) ∉ [(0x1000, 1), (0x1000, 2), (0x1000, 3), (0x1000, 5),
          (0x2000, 1), (0x2000, 2), (0x2010, 1), (0x2030, 1), (0x2801, 1), (0x6010, 1), (0xC000, 1)] → answers true [3])
      ∧ (index = 0x1000 → sub = 1 → off = 0 → count = 8 → answers true (0 :: leBytes 8 d.fuses.deviceId.toNat)))

/-! ## In-field test and activation (13_checking_replay_test.md R388, R389; 15_boot_firmware_security.md R429 to R433) -/

/-- A waiting test starts on a slot without a croft outside Throttle, with the slot UNDER_TEST and its island idle (log 57:
the model's choice); in Throttle it waits. It ends with its result and time, the slot SPARE when it passed and FENCED when it
failed; a croft that was paused for it finds its slot ACTIVE again. A test that waited too long ends ABORTED. -/
def Obligations.SlotTests : Prop := ∀ s : State, s.dev.test.slot < 80 → s.dev.slots.length = 80 →
    let d := s.dev
    let n : Fin 80 := Fin.ofNat 80 d.test.slot
    (d.test.state = .waiting → d.power.main = true → d.testable n.val = true →
      (d.powerState = 4 → Becomes .testStart s d)
      ∧ (d.powerState ≠ 4 → d.carried n = none → Answers .testStart s fun t => t.test = { d.test with state := .running }
          ∧ t.slots = d.slots.set n.val
            { d.slots.getD n.val Slot.factory with spare := .underTest, island := .idle, view := [], viewPoison := [] }
          ∧ t.crofts = d.crofts ∧ t.jobs = d.jobs ∧ t.mem = d.mem ∧ t.boot = d.boot ∧ t.logs.count = satAdd 64 d.logs.count 1))
    ∧ (d.test.state = .running → (d.boot.inUse 5).isSome = true → (d.slots.getD n.val Slot.factory).spare = .underTest →
      ((∀ x ∈ d.crofts, x.paused = false) → ∀ pass : Bool, Answers (.testDone (if pass then .pass else .fail)) s fun t =>
        t.test = { d.test with state := .idle, results := d.test.results.set n.val (if pass then 1 else 2, d.now) }
        ∧ t.slots = d.slots.set n.val { (d.slots.getD n.val Slot.factory).off with spare := if pass then .spare else .fenced }
        ∧ t.crofts = d.crofts ∧ t.jobs = d.jobs ∧ t.mem = d.mem ∧ t.boot = d.boot)
      ∧ ((∃ x ∈ d.crofts, x.paused = true ∧ x.vacated = some n) → Answers (.testDone .pass) s fun t =>
        t.test = { d.test with state := .idle, results := d.test.results.set n.val (1, d.now) }
        ∧ t.slots = d.slots.set n.val { (d.slots.getD n.val Slot.factory).off with spare := .active, island := .idle }
        ∧ t.crofts = d.crofts ∧ t.jobs = d.jobs ∧ t.mem = d.mem ∧ t.boot = d.boot))
    ∧ (d.test.state = .waiting → Answers .testWaitExpiry s fun t =>
        t.test = { d.test with state := .idle, results := d.test.results.set n.val (3, d.now) } ∧ t.slots = d.slots
        ∧ t.crofts = d.crofts ∧ t.jobs = d.jobs ∧ t.mem = d.mem ∧ t.boot = d.boot)
    ∧ (d.test.state ≠ .waiting → Becomes .testWaitExpiry s d ∧ Becomes .testStart s d)

/-- A core of the class switches and holds the new image, for Watch and Hearth at the warm boundary alone. Before the last
core the activation goes on; the last one makes the other slot active in the directory with the next GENERATION and, the
monitor apart, in use, and ends the activation with OK, that of Bailiff after its checks. The other slot is the one that does
not count as active, after a fallback too (log 76). What waited too long ends with ACTIVATION_TIMEOUT, never in reset or
without auxiliary power. The released monitor fetches a Dremos image of BODY_BYTES + 512 bytes by the read or the GET of
DREMOS_SOURCE; a verified one is loaded and enters every open job's ledger, a short or missing one is DREMOS_LOAD. -/
def Obligations.Activation : Prop := ∀ s : State, s.dev.power.main = true → s.dev.boot.actClass ≤ 5 → s.dev.boot.running.length = 6 →
    let d := s.dev
    let c := d.boot.actClass
    let into := !d.boot.slotInUse c
    let cores := if c = 3 then 20 else 1
    let warm : Bool → Prop := fun signing => d.power.tjMax ≤ 1000 ∧ 10 * d.power.package ≤ 9 * (1000 * d.power.limit)
      ∧ d.test.state ≠ .running ∧ ¬(signing = true ∧ c = 0) ∧ ∀ t ∈ d.slots, t.island ≠ .run
    (∀ signing : Bool, d.boot.act ≠ .idle → d.emergency = false → d.boot.switched < cores → (c = 5 → d.test.state ≠ .running) →
      d.boot.cores.length = 23 → d.boot.current.length = 6 → (c < 2 → warm signing) →
      let image : RunImage := ⟨into, d.boot.slotImage into c⟩
      (d.boot.switched + 1 < cores → Becomes (.activationSwitch signing) s
        { d with boot := { d.boot with
          act := .activating, switched := d.boot.switched + 1
          cores := d.boot.cores.set (3 + d.boot.switched) (Core.load 0x40000 image) } })
      ∧ (d.boot.switched + 1 = cores → Answers (.activationSwitch signing) s fun t =>
        (∀ r, d.boot.governing = some r → r.active.length = 6 →
          t.boot.governing = some ⟨(r.generation + 1) % 2 ^ 32, r.active.set c into⟩)
        ∧ t.boot.slotInUse c = into
        ∧ (c ≠ 4 → t.boot.inUse c = some (d.boot.slotImage into c))
        ∧ (c = 4 → t.boot.running = d.boot.running)
        ∧ (c = 3 → t.boot.cores = d.boot.cores.set 22 (Core.load 0x40000 image))
        ∧ (c < 3 → t.boot.cores = d.boot.cores.set c (Core.load (if c = 0 then 0x80000 else if c = 1 then 0x40000 else 0x100000) image))
        ∧ (c ≠ 2 → t.boot.act = .idle ∧ t.boot.result = (c, 0, d.now))
        ∧ (c = 2 → t.boot.act = .activating ∧ t.boot.genKat = 0 ∧ ∀ u ∈ t.slots, u.checked = false)
        ∧ t.crofts = d.crofts ∧ t.mem = d.mem ∧ t.fuses = d.fuses ∧ t.boot.flash = d.boot.flash))
    ∧ (∀ signing : Bool, c < 2 → ¬ warm signing → Becomes (.activationSwitch signing) s d)
    ∧ (d.pins.resetIn = true ∨ d.power.aux = false → Becomes .activationTimeout s d)
    ∧ (d.pins.resetIn = false → d.power.aux = true → d.boot.act = .queued → d.boot.switched = 0 → d.boot.confirm = none → d.boot.revoke = none →
      Answers .activationTimeout s fun t => t.boot = { d.boot with act := .idle, switched := 0, result := (c, 0x0B07, d.now) }
        ∧ t.fuses = d.fuses ∧ t.logs.count = satAdd 64 d.logs.count 1)
    ∧ (∀ r, d.pins.resetIn = false → d.power.aux = true → d.boot.act = .idle → d.boot.confirm = some r → d.boot.revoke = none →
      Answers .activationTimeout s fun t => t.boot = { d.boot with confirm := none, result := (r.1, 0x0B07, d.now) }
        ∧ t.fuses = d.fuses ∧ t.logs.count = satAdd 64 d.logs.count 1)
    ∧ (d.boot.released = true → d.boot.dremos = none →
      let from_ := d.boot.dremosSource
      let asks : Nat → Dev := fun n => { d with sent := d.sent ++
        [if leAt from_ 0 2 = 0 then .nvmeRead (leAt from_ 2 4) (leAt from_ 6 8) n else .httpGet (leAt from_ 14 1) d.boot.dremosUrl] }
      (∀ bytes : List Byte, bytes.length = imageBody bytes + 512 →
        let e := asks (imageBody bytes + 512)
        (d.verifyImage false 6 false bytes = none → Becomes (.dremosLoad (some bytes)) s { e with
          boot := { d.boot with dremos := some bytes }
          jobs := d.jobs.map (Option.map fun q => { q with ledger := { q.ledger with
            firmware := q.ledger.firmware ++ [(6, imageVersion bytes, sha384 bytes)] } }) })
        ∧ (∀ code, d.verifyImage false 6 false bytes = some code → Answers (.dremosLoad (some bytes)) s fun t =>
          t.boot = d.boot ∧ t.jobs = d.jobs ∧ t.sent = e.sent ∧ t.logs.count = satAdd 64 d.logs.count 1))
      ∧ (∀ bytes : List Byte, bytes.length < imageBody bytes + 512 → Answers (.dremosLoad (some bytes)) s fun t =>
        t.boot = d.boot ∧ t.jobs = d.jobs ∧ t.logs.count = satAdd 64 d.logs.count 1)
      ∧ Answers (.dremosLoad none) s fun t =>
        t.boot = d.boot ∧ t.jobs = d.jobs ∧ t.sent = (asks 512).sent ∧ t.logs.count = satAdd 64 d.logs.count 1)

/-! ## Attestation (12_determinism_and_ledger.md R369, R370; the codes are those of DSP0274, log 32) -/

/-- The responder answers VERSION, CAPABILITIES and ALGORITHMS in this order, then DIGESTS, CERTIFICATE and MEASUREMENTS at
once, and CHALLENGE and signed MEASUREMENTS once the Well gives a nonce; without a Well it answers ERROR. Every other request
is answered with UnsupportedRequest. -/
def Obligations.Attestation : Prop := ∀ (s : State) (door : Door) (req : List Byte) (x : Spdm), s.dev.Asks door req x →
    let d := s.dev
    let code := (req.getD 1 0).toNat
    let version : List Byte := [0x10, 0x04, 0, 0, 0, 1, 0x00, 0x13]
    let chain : List Byte := Config.certChain (ecPublic (attestKey d.fuses))
    let refusal := d.withSpdm door (x.answers [0x13, 0x7F, 5, 0])
    (code = 0x84 → req.getD 0 0 = 0x10 → Becomes (.getVersion door req) s
      (d.withSpdm door (Spdm.answers { x with phase := 1, vca := req ++ version, certs := [], measures := [] } version)))
    ∧ (code = 0xE1 → req.getD 0 0 = 0x13 → x.phase = 1 → 20 ≤ req.length → ∃ open_ : List Byte, open_.length = 9
        ∧ let resp := [0x13, 0x61, 0, 0, 0] ++ open_.take 1 ++ [0, 0] ++ [0x16, 0, 0, 0] ++ open_.drop 1
          Becomes (.getCapabilities door req) s (d.withSpdm door (Spdm.answers { x with phase := 2, vca := x.vca ++ req ++ resp } resp)))
    ∧ (code = 0xE3 → req.getD 0 0 = 0x13 → x.phase = 2 → negotiateBad req = false →
      Becomes (.negotiateAlgorithms door req) s (d.withSpdm door
        (Spdm.answers { x with phase := 3, vca := x.vca ++ req ++ spdmAlgorithms req } (spdmAlgorithms req))))
    ∧ (code = 0x81 → req.getD 0 0 = 0x13 → x.phase = 3 →
        let resp := [0x13, 0x01, 1, 1] ++ sha384 chain
        Becomes (.getDigests door req) s (d.withSpdm door (Spdm.answers { x with certs := x.certs ++ req ++ resp, measures := [] } resp)))
    ∧ (code = 0x82 → req.getD 0 0 = 0x13 → x.phase = 3 → 8 ≤ req.length → req.getD 2 0 = 0 → leAt req 4 2 < chain.length →
        let n := min (min (leAt req 6 2) 1016) (chain.length - leAt req 4 2)
        let resp := [0x13, 0x02, 0, 0] ++ leBytes 2 n ++ leBytes 2 (chain.length - leAt req 4 2 - n) ++ (chain.drop (leAt req 4 2)).take n
        Becomes (.getCertificate door req) s
          (d.withSpdm door (Spdm.answers { x with certs := x.certs ++ req ++ resp, measures := [] } resp)))
    ∧ (code = 0x83 → req.getD 0 0 = 0x13 → x.phase = 3 → challengeBad req = false →
      (d.well.phase = .starting ∨ d.well.phase = .ready → Becomes (.challenge door req) s
        ((d.withSpdm door (x.answers [])).askWell (.watch (.spdm door req) 32 [])))
      ∧ (d.well.phase = .disabled ∨ d.well.phase = .failed → Becomes (.challenge door req) s
        { refusal with well := { d.well with refused := satAdd 64 d.well.refused 1 } }))
    ∧ (code = 0xE0 → req.getD 0 0 = 0x13 → x.phase = 3 → d.measuresBad req = false →
      (measuresSigned req = true → d.well.phase = .starting ∨ d.well.phase = .ready → Becomes (.getMeasurements door req) s
        ((d.withSpdm door (x.answers [])).askWell (.watch (.spdm door req) 32 [])))
      ∧ (measuresSigned req = true → d.well.phase = .disabled ∨ d.well.phase = .failed → Becomes (.getMeasurements door req) s
        { refusal with well := { d.well with refused := satAdd 64 d.well.refused 1 } })
      ∧ (measuresSigned req = false → ∃ (drawn : Nat) (nonce : List Byte), nonce.length = 32
          ∧ let blocks := ({ d with freeCount := drawn } : Dev).measures.1
            let op := (req.getD 3 0).toNat
            let given := if op = 0 then [] else if op = 0xFF then blocks else blocks.filter fun b => b.1 == op
            let record := given.flatMap (·.2)
            let resp := [0x13, 0x60] ++ leBytes 1 (if op = 0 then blocks.length else 0) ++ [0] ++ leBytes 1 given.length
              ++ leBytes 3 record.length ++ record ++ nonce ++ [0, 0] ++ slice req 4 8
            Becomes (.getMeasurements door req) s
              (d.withSpdm door (Spdm.answers { x with measures := x.measures ++ req ++ resp } resp))))
    ∧ (code ∉ [0x81, 0x82, 0x83, 0x84, 0xE0, 0xE1, 0xE3] → Becomes (.unsupportedRequest door req) s
      (d.withSpdm door (x.answers [0x13, 0x7F, 7, req.getD 1 0])))

/-! ## Outside ports (10_queues_and_hub.md R323 to R326) -/

/-- A tail within its ring is taken and one out of range disables the ring. A frame of a supported length that its
distribution sends to the ring (by the Toeplitz hash of its addresses and ports) and that fits the first free buffer lies
there, its descriptor is given back with its length, hash and flags, FCS_ERR exactly when its FCS does not match, TS_VALID
only for an IEEE 1588 event message, and nothing else in memory changes; a frame without a buffer is dropped, and a priority
flow control frame with a good FCS pauses the priorities it enables. A frame whose priority is not paused leaves with the
bytes of its buffers and its FCS, a one-step Sync with the device time in its originTimestamp; the descriptor is given back.
A link takes a value of its mode, and the root port a rate, width and FLIT mode it trains to. An inbound read of up to 4,096
bytes inside a window is completed with the bytes there, and an inbound write of up to 512 inside one stores its bytes. A
write of four bytes to the register of an interrupt file that posts an identity makes it pending. An error of the link is
logged. Every other request ends as Unsupported Request and changes no memory. Which ring belongs to which of two 400G ports,
the key and table of the distribution, where a length counts the FCS, what happens to a frame of another length or without a
buffer, the priority of an untagged frame and the place of a Sync's stamp are log 36; the exclusive window limit, the coding
of the rate and the answer to a request too large are log 37; the layout of an interrupt file is log 99: all the model's
choices or presumptions. -/
def Obligations.OutsidePorts : Prop :=
  (∀ (s : State) (p : Fin 4) (r : Fin 64), s.dev.power.main = true → s.dev.hub.eth.length = 4 →
     s.dev.memoriesWf →
     let d := s.dev
     let linked := ∃ e, d.hub.eth[p.val]? = some e ∧
       (e.link = 1 ∨ e.link = 4 ∨ (e.link = 2 ∧ r.val < 32) ∨ (e.link = 3 ∧ 32 ≤ r.val))
     (∀ (tx : Bool) (v : Word32), let q := d.ring p.val tx r.val
       q.enable = true → v ≠ q.tail →
       ((v - q.head).toNat ≤ 2 ^ q.sizeLog2.toNat → (v - q.tail).toNat ≤ (v - q.head).toNat →
         Becomes (.ethTailWrite p tx r v) s (d.onRing p.val tx r.val fun u => { u with tail := v }))
       ∧ (2 ^ q.sizeLog2.toNat < (v - q.head).toNat → Answers (.ethTailWrite p tx r v) s fun t =>
         t.ring p.val tx r.val = { q with enable := false } ∧ t.mem = d.mem ∧ t.jobs = d.jobs ∧ t.queues = d.queues))
     ∧ (∀ (hash : Word32) (frame : List Byte) (fcs : Word32) (stamped : Bool) (frac : BitVec 16), linked →
       let q := d.ring p.val false r.val
       let at_ := q.base.toNat + 32 * (q.head.toNat % 2 ^ q.sizeLog2.toNat)
       let pause := beNat (slice frame 12 4) = 0x88080101
       let chosen := ∃ e, d.hub.eth[p.val]? = some e ∧ e.distributes r.val hash frame = true
       let sized := 60 ≤ frame.length ∧ frame.length ≤ 9596
       (¬ sized ∨ ¬ chosen ∨ (pause ∧ fcs ≠ crc32 frame) → Becomes (.ethFrameReceive p r hash frame fcs stamped frac) s d)
       ∧ (chosen → beNat (slice frame 12 2) = 0x0800 → leAt frame 14 1 = 0x45 → beNat (slice frame 20 2) % 2 ^ 14 = 0 →
         leAt frame 23 1 = 6 ∨ leAt frame 23 1 = 17 → hash = toeplitz Config.hashKey (slice frame 26 8 ++ slice frame 34 4))
       ∧ (pause → fcs = crc32 frame → sized → chosen → (∀ e ∈ d.hub.eth, e.pfc.length = 16) →
         Answers (.ethFrameReceive p r hash frame fcs stamped frac) s fun t =>
           (∀ (e : EthPort) (i : Fin 8), t.hub.eth[p.val]? = some e → bitOf (beNat (slice frame 16 2)) i.val = true →
             e.pfc.getD (e.pauseAt r.val i.val) 0 = d.time.elapsed + e.quanta (beNat (slice frame (18 + 2 * i.val) 2)))
           ∧ t.mem = d.mem ∧ t.sent = d.sent ∧ t.jobs = d.jobs)
       ∧ (¬ pause → d.owned_ q = [] → Becomes (.ethFrameReceive p r hash frame fcs stamped frac) s d)
       ∧ (∀ (desc : List Byte) (more : List (List Byte)), ¬ pause → chosen → q.enable = true → d.owned_ q = desc :: more →
         sized → frame.length ≤ leAt desc 8 2 →
         let buf := leAt desc 0 8
         d.hubRange buf frame.length = [] → (buf + frame.length ≤ at_ ∨ at_ + 32 ≤ buf) →
         Answers (.ethFrameReceive p r hash frame fcs stamped frac) s fun t => t.read buf frame.length = frame
           ∧ leAt (t.read at_ 32) 0 8 = buf ∧ leAt (t.read at_ 32) 8 2 = frame.length % 65536
           ∧ leAt (t.read at_ 32) 10 2 = 2 + 4 * (stamped && ptpEvent frame).toNat + 8 * (fcs != crc32 frame).toNat
           ∧ leAt (t.read at_ 32) 12 4 = hash.toNat
           ∧ t.ring p.val false r.val = { q with head := q.head + 1 }
           ∧ (∀ k, ¬ (buf ≤ k ∧ k < buf + frame.length) → ¬ (at_ ≤ k ∧ k < at_ + 32) → readByte t.mem k = readByte d.mem k)
           ∧ t.jobs = d.jobs ∧ t.sent = d.sent))
     ∧ (∀ (frac : BitVec 16) (desc : List Byte) (more : List (List Byte)), linked →
       let q := d.ring p.val true r.val
       let at_ := q.base.toNat + 32 * (q.head.toNat % 2 ^ q.sizeLog2.toNat)
       q.enable = true → d.owned_ q = desc :: more → bitOf (leAt desc 10 2) 1 = true →
       d.readFaults (leAt desc 0 8) (leAt desc 8 2) = [] →
       let bytes := d.read (leAt desc 0 8) (leAt desc 8 2)
       let sync := beNat (slice bytes 12 2) = 0x88F7 ∧ leAt bytes 14 1 % 16 = 0 ∧ bitOf (leAt bytes 20 1) 1 = false
       (d.pausedBy p.val r.val bytes = true → Becomes (.ethFrameTransmitDone p r frac) s d)
       ∧ (d.pausedBy p.val r.val bytes = false → Answers (.ethFrameTransmitDone p r frac) s fun t =>
         (60 ≤ bytes.length → bytes.length ≤ 9596 → beNat (slice bytes 12 2) ≠ 0x8100 →
           ∃ out, t.sent = d.sent ++ [.frame p.val (out ++ leBytes 4 (crc32 out).toNat)]
           ∧ (¬ sync → out = bytes)
           ∧ (sync → out = spliceBytes bytes 48 (beBytes 6 (d.now / 1000000000) ++ beBytes 4 (d.now % 1000000000))))
         ∧ (bytes.length < 60 ∨ 9596 < bytes.length → t.sent = d.sent)
         ∧ bitOf (leAt (t.read at_ 32) 10 2) 0 = false ∧ leAt (t.read at_ 32) 0 8 = leAt desc 0 8
         ∧ t.ring p.val true r.val = { q with head := q.head + 1 } ∧ d.memSame t at_ 32 ∧ t.jobs = d.jobs))
     ∧ (∀ code : Fin 5, code = 0 ∨ (d.live.ethMode.getD p.val 0 = 1 ∧ code = 1) ∨ (d.live.ethMode.getD p.val 0 = 2 ∧ 2 ≤ code.val) →
       Becomes (.ethLinkChange p code) s (d.onEth p.val fun e => { e with link := code })))
  ∧ (∀ s : State, s.dev.power.main = true → s.dev.memoriesWf →
       let d := s.dev
       let inside (a n : Nat) : Prop := ∃ w ∈ d.hub.pcie.windows, w.1.toNat ≤ a ∧ a + n ≤ w.2.toNat
       (∀ (rate width : Byte) (flit : Bool),
         let trains := (rate = 0 ∧ width = 0 ∧ flit = false)
           ∨ (rate ∈ ([2, 3, 5, 8, 16, 32, 64] : List Byte) ∧ width ∈ ([1, 2, 4, 8, 16] : List Byte) ∧ flit = (rate == 64))
         (trains → Becomes (.pcieLinkChange rate width flit) s
           { d with hub := { d.hub with pcie := { d.hub.pcie with rate := rate, width := width, flit := flit } } })
         ∧ (¬ trains → Becomes (.pcieLinkChange rate width flit) s d))
       ∧ (d.hub.pcie.rate ≠ 0 →
         (∀ a n, inside a n → n ≤ 4096 → outsideTiers a n = false → d.readFaults a n = [] → Becomes (.pcieInbound (.read a n)) s
           { d with sent := d.sent ++ [.pcie (some (d.read a n))] })
         ∧ (∀ (a : Nat) (bytes : List Byte), inside a bytes.length → bytes.length ≤ 512 → inIrqFiles a = false → d.hubRange a bytes.length = [] →
           Answers (.pcieInbound (.write a bytes)) s fun t =>
             (∀ k < bytes.length, readByte t.mem (a + k) = bytes.getD k 0) ∧ d.memSame t a bytes.length
             ∧ t.sent = d.sent ∧ t.jobs = d.jobs ∧ t.irqs = d.irqs)
         ∧ (∀ (a : Nat) (id : Word32), 0x50020000000 ≤ a → a < 0x50020020000 → a % 4 = 0 → 1 ≤ id.toNat → id.toNat ≤ 2047 →
           match Config.irqRegister ((a - 0x50020000000) % 4096) with
           | some (.post machine reversed) =>
             Answers (.pcieInbound (.write a (if reversed then beBytes 4 id.toNat else leBytes 4 id.toNat))) s fun t =>
               ((a - 0x50020000000) / 4096, machine, id.toNat) ∈ t.irqs ∧ (∀ x ∈ d.irqs, x ∈ t.irqs) ∧ t.mem = d.mem ∧ t.sent = d.sent
           | _ => Becomes (.pcieInbound (.write a (leBytes 4 id.toNat))) s d)
         ∧ (∀ correctable : Bool, Answers (.pcieInbound (.error correctable)) s fun t => t.logs.count = satAdd 64 d.logs.count 1
             ∧ t.sent = d.sent ∧ t.mem = d.mem ∧ t.jobs = d.jobs ∧ t.irqs = d.irqs)
         ∧ (∀ a n, ¬ inside a n ∨ outsideTiers a n = true ∨ 4096 < n → Answers (.pcieInbound (.read a n)) s fun t =>
             t.sent = d.sent ++ [.pcie none] ∧ t.mem = d.mem ∧ t.jobs = d.jobs ∧ t.irqs = d.irqs)
         ∧ (∀ (a : Nat) (bytes : List Byte), ¬ inside a bytes.length ∨ outsideTiers a bytes.length = true ∨ 512 < bytes.length →
           inIrqFiles a = false →
           Answers (.pcieInbound (.write a bytes)) s fun t =>
             t.sent = d.sent ++ [.pcie none] ∧ t.mem = d.mem ∧ t.jobs = d.jobs ∧ t.irqs = d.irqs)))

/-! ## The Well (14_entropy_well.md R400 to R413) -/

/-- The raw bits of a running cell, paired under its WELL_DEBIAS, make a block; the next one follows the committed value. A
block that passes both tests counts as passed; a start-up block is discarded, and a later one reseeds the DRBG, which then
owes one generate, or waits while one is owed. A block that fails restarts its cell and counts, and the third in a row sends
the Well to FAILED, its queue empty and its DRBG zeroised. A cell that has settled begins its start-up test; one that has not
is retired, in the fuses at once where they may be programmed and else when they next may (R424). That a block waits while
one is owed, the order of a block's bits in its bytes, and that a block has exactly 1,024 bits are log 31; that the
repetition count begins anew at a restart is log 90: the model's readings. -/
def Obligations.WellCells : Prop := ∀ (s : State) (i : Fin 4) (c : WellCell), s.dev.well.cells[i.val]? = some c →
    (s.dev.well.phase = .starting ∨ s.dev.well.phase = .ready) → c.state = .active →
    let d := s.dev
    let w := d.well
    (∀ raw : List Bool, c.settling = false →
      let bits := debiased c.debias raw
      let test := repetition c.lastBit c.run bits
      let cells := w.cells.set i.val
        { c with lastBit := test.1, run := test.2.1, startup := c.startup - 1, debias := d.live.debias }
      (bits.length ≠ 1024 → Becomes (.wellBlockTested i raw) s d)
      ∧ (bits.length = 1024 → test.2.2 = false → proportionBad bits = false →
        (0 < c.startup → Becomes (.wellBlockTested i raw) s { d with
          well := { w with cells := cells, passed := satAdd 64 w.passed 1, consecutive := 0 } })
        ∧ (c.startup = 0 → w.drbg.ready = true → Becomes (.wellBlockTested i raw) s { d with
          well := { w with cells := cells, passed := satAdd 64 w.passed 1, consecutive := 0
                           drbg := if w.drbg.held then { w.drbg with waiting := w.drbg.waiting ++ [blockBytesOf bits] }
                             else { w.drbg.update (blockDf (blockBytesOf bits)) with held := true } } }))
      ∧ (bits.length = 1024 → test.2.2 = true ∨ proportionBad bits = true →
        (w.consecutive < 2 → (recent d.elapsedNs w.window).length < 7 → (recent d.elapsedNs c.failed).length < 3 →
          Answers (.wellBlockTested i raw) s fun t => t.well = { w with
              failedCount := satAdd 64 w.failedCount 1, restarts := satAdd 64 w.restarts 1, consecutive := w.consecutive + 1
              window := recent d.elapsedNs w.window ++ [d.elapsedNs]
              cells := w.cells.set i.val { c with
                settling := true, startup := 4, run := 0, lastBit := false, debias := d.live.debias
                failed := recent d.elapsedNs c.failed ++ [d.elapsedNs] } }
            ∧ t.fuses = d.fuses ∧ t.mem = d.mem ∧ t.jobs = d.jobs)
        ∧ (2 ≤ w.consecutive → Answers (.wellBlockTested i raw) s fun t =>
            t.well.phase = .failed ∧ t.well.queue = [] ∧ t.well.drbg = Drbg.zero ∧ t.well.requests = [] ∧ t.mem = d.mem)))
    ∧ (c.settling = true →
      let begun := { c with settling := false, startup := 4, lastCal := d.elapsedNs, debias := d.live.debias }
      (Becomes (.wellCellSettled i true) s { d with well := { w with cells := w.cells.set i.val begun } })
      ∧ (Answers (.wellCellSettled i false) s fun t =>
        (d.fusesOpen = true → t.boot.retired = 0
          ∧ t.fuses = { d.fuses with wellRetired := d.fuses.wellRetired ||| (d.boot.retired ||| BitVec.ofNat 4 (2 ^ i.val)) })
        ∧ (d.fusesOpen = false → t.fuses = d.fuses ∧ t.boot.retired = d.boot.retired ||| BitVec.ofNat 4 (2 ^ i.val))
        ∧ (t.well.cells[i.val]?).map (·.state) = some .retired ∧ t.mem = d.mem))
    ∧ (∀ ones : Nat, 1 < c.trim → c.trim < 254 → Answers (.wellTrimUpdate i ones) s fun t =>
        (∃ y, t.well = { w with cells := w.cells.set i.val { c with trim := y, bias := (ones : Int) - 2048 } }
          ∧ (ones ≤ 2176 → 1920 ≤ ones → y = c.trim) ∧ (ones < 1920 ∨ 2176 < ones → y = c.trim + 1 ∨ y + 1 = c.trim))
        ∧ t.fuses = d.fuses ∧ t.mem = d.mem)
    ∧ (∀ ones : Nat, c.settling = false → c.startup = 0 → c.lastCal + 60000000000 ≤ d.elapsedNs → 8 < c.trim → c.trim < 247 →
      Answers (.wellCalibration i ones) s fun t =>
        (∃ y, t.well = { w with calibrations := satAdd 64 w.calibrations 1
                                cells := w.cells.set i.val { c with trim := y, bias := (ones : Int) - 2048, lastCal := d.elapsedNs } }
          ∧ y ≤ c.trim + 8 ∧ c.trim ≤ y + 8)
        ∧ t.fuses = d.fuses ∧ t.mem = d.mem)

/-- What the Well gives out. The held generate puts 1,024 bytes in the queue when they fit (R404), and a block that waits
reseeds next (log 31: the model's reading). A unit of 16 bytes goes to the oldest Watch request (R411), and the one that
completes a handshake's 64 bytes opens a session, for which the device presents its certificate chain with a signature under
its attestation key (R333, R426); by then a client without a role is refused with access_denied, a device without an owner
with an alert, and without a link the handshake just ends (R334). A unit of zeros is not used for a lane (R403). A seed read
takes two bytes when no request waits, and else answers BIST, WAIT or DEAD (R413). The corrected events of a minute of
elapsed time become one record each, at the end of that minute (R395), never while the device is held in reset or Off. -/
def Obligations.WellServes : Prop := ∀ s : State,
    let d := s.dev
    let w := d.well
    (w.phase = .ready → w.drbg.held = true → w.queue.length + 1024 ≤ 4096 → Becomes .wellGenerate s { d with
      well := { w with queue := w.queue ++ w.drbg.generate.1
                       drbg := match w.drbg.waiting with
                         | [] => w.drbg.generate.2
                         | b :: rest => { w.drbg.generate.2.update (blockDf b) with held := true, waiting := rest } } })
    ∧ (4096 < w.queue.length + 1024 → Becomes .wellGenerate s d)
    ∧ (∀ (before after : List WellReq) (u : WatchUse) (n : Nat) (got : List Byte), w.phase = .ready → 16 ≤ w.queue.length →
      w.requests = before ++ .watch u n got :: after → (∀ r ∈ before, ∃ c l, r = .lanes c l) →
      let fed : Well := { w with queue := w.queue.drop 16, delivered := satAdd 64 w.delivered 16 }
      (got.length + 16 < n → Becomes .wellDelivery s { d with
        well := { fed with requests := before ++ .watch u n (got ++ w.queue.take 16) :: after } })
      ∧ (∀ f : BitVec 384, n ≤ got.length + 16 → u = .dtls f →
        let done : Dev := { d with well := { fed with requests := before ++ after } }
        (d.hub.mgmtLink = false → Becomes .wellDelivery s done)
        ∧ (d.hub.mgmtLink = true → d.entryFor f = none → Becomes .wellDelivery s { done with sent := d.sent ++ [.alert f (some 49)] })
        ∧ (∀ e, d.hub.mgmtLink = true → d.entryFor f = some e →
          (d.owned = false → Becomes .wellDelivery s { done with sent := d.sent ++ [.alert f none] })
          ∧ (∀ k : Fin 16, d.owned = true → d.hub.sessions.length = 16 → d.hub.sessions.getD k.val none = none →
            (∀ j < k.val, (d.hub.sessions.getD j none).isSome = true) →
            Becomes .wellDelivery s { done with
              hub := { d.hub with sessions := d.hub.sessions.set k.val (some ⟨f, d.elapsedNs, [], Spdm.reset, e.1⟩) }
              sent := d.sent ++ [.certificate f (Config.certChain (ecPublic (attestKey d.fuses)))
                (ecSign d.boot.key (Config.dtlsTranscript f d.freeCount))] }))))
    ∧ (∀ (c : CroftRef) (got : List Byte) (after : List WellReq), w.phase = .ready → 16 ≤ w.queue.length →
      w.requests = .lanes c got :: after → (∀ r ∈ after, ∃ e l, r = .lanes e l) → got.length + 16 < 20480 →
      let unit := w.queue.take 16
      let fed : Well := { w with queue := w.queue.drop 16, delivered := satAdd 64 w.delivered 16 }
      Becomes .wellDelivery s { d with well := { fed with
        requests := .lanes c (if unit.all (fun b => b == 0) then got else got ++ unit) :: after } })
    ∧ (∀ h : Fin 32, d.power.main = true →
      (w.phase = .ready → w.requests = [] → 2 ≤ w.queue.length → Becomes (.seedCsrRead h) s { d with
        well := { w with queue := w.queue.drop 2, delivered := satAdd 64 w.delivered 2 }
        sent := d.sent ++ [.seed h (BitVec.ofNat 32 (0x80000000 + leNat (w.queue.take 2)))] })
      ∧ (w.phase = .ready → w.requests ≠ [] ∨ w.queue.length < 2 → Becomes (.seedCsrRead h) s
        { d with sent := d.sent ++ [.seed h 0x40000000] })
      ∧ (w.phase = .failed → Becomes (.seedCsrRead h) s { d with sent := d.sent ++ [.seed h 0xC0000000] })
      ∧ (w.phase = .starting ∨ w.phase = .disabled → Becomes (.seedCsrRead h) s { d with sent := d.sent ++ [.seed h 0] }))
    ∧ (d.pins.resetIn = true ∨ d.power.aux = false → Becomes .eventAggregateFlush s d)
    ∧ (d.pins.resetIn = false → d.power.aux = true →
      let minute := d.elapsedNs / 60000000000
      (∀ a : Aggregate, d.logs.aggregates = [a] → a.minute ≠ minute → a.event = 0xE00A → a.count < 2 ^ 32 →
        d.logs.general.length < generalCap → d.logs.raw = [] →
        let one : EventRec := ⟨d.logs.count + 1, a.first, 0xE00A, 1, a.kind, a.source,
          BitVec.ofNat 64 (a.count + a.detail % 2 ^ 32 * 2 ^ 32)⟩
        let logs : Logs := { d.logs with aggregates := [], count := satAdd 64 d.logs.count 1, general := d.logs.general ++ [one] }
        Becomes .eventAggregateFlush s { d with logs := logs })
      ∧ (Answers .eventAggregateFlush s fun t => t.logs.aggregates = []
        ∧ (d.logs.count < 2 ^ 64 → t.logs.count = satAdd 64 d.logs.count d.logs.aggregates.length)
        ∧ ((∃ a ∈ d.logs.aggregates, a.minute = minute) → t.elapsedNs = (minute + 1) * 60000000000)
        ∧ ((∀ a ∈ d.logs.aggregates, a.minute ≠ minute) → t.time = d.time ∧ t.crofts = d.crofts)
        ∧ t.logs.fatal = d.logs.fatal ∧ t.mem = d.mem ∧ t.jobs = d.jobs))

/-! ## Supplies, reset and power states (15_boot_firmware_security.md R427, R428; 16_power_clocks_thermal.md R441 to R444;
17_package_balls_electrical.md R467) -/

/-- RESET_IN_N and the auxiliary input. Reset, and the loss of the auxiliary input, take the main rails off, lose every job
and memory, and release FATAL_N. The release of reset boots Watch and Hearth from their active slots when both verify, and
puts their bodies in the SRAM of their cores, and leaves the device in Standby with device time 0; a Watch that verifies in
neither slot stops the ROM with FATAL_N. Fuses and settings stay, and so does flash, but for what a board agent programs
while reset is held: a byte of an image slot that it programs reads as it was programmed, and every other byte as before
(what flash holds outside the slots: log 97). -/
def Obligations.ResetAndStandby : Prop := ∀ s : State,
    let d := s.dev
    let gone := fun (b : Boot) (t : Dev) => t.power.main = false ∧ t.crofts = [] ∧ t.cmds = [] ∧ t.mem = []
      ∧ t.jobs = d.jobs.map (fun _ => none) ∧ t.fuses = d.fuses ∧ t.boot.flash = b.flash ∧ t.boot.dirs = b.dirs ∧ t.settings = d.settings
      ∧ t.live = d.live
    (d.power.aux = true → Answers .resetInNAssert s fun t => gone d.boot t ∧ t.pins.resetIn = true ∧ t.pins.fatal = false
        ∧ t.pins.ppsOut = false ∧ t.alert = false ∧ (∀ x ∈ t.hub.sessions, x = none))
    ∧ (Answers .vauxOutOfRange s fun t => gone d.boot t ∧ t.power.aux = false ∧ t.pins.fatal = false ∧ t.pins.thermtrip = false
        ∧ t.pins.ppsOut = false ∧ t.tap.state = .testLogicReset ∧ (∀ x ∈ t.hub.sessions, x = none)
        ∧ t.boot.running = List.replicate 6 none ∧ t.boot.cores = List.replicate 23 ⟨none, []⟩
        ∧ t.hub.commits = List.replicate 5 none)
    ∧ (d.power.aux = false → Becomes .vauxInRange s
        { d with power := { d.power with aux := true }, pins := { d.pins with resetIn := true } })
    ∧ (∀ (straps : Fin 4) (pieces : List (Fin 2 × Nat × List Byte)), d.power.aux = true → d.pins.resetIn = true →
      let b := d.boot.programAll pieces
      let a := b.active 0
      let watch := b.slotImage a 0
      let other := b.slotImage (!a) 0
      let hearth := b.slotImage (b.active 1) 1
      (d.fuses.imageFault 0 watch = none → d.fuses.imageFault 1 hearth = none → imageBundle hearth / 256 = imageBundle watch / 256 →
        (d.fuses.imageFault 0 other ≠ none ∨ imageBundle other / 256 = imageBundle watch / 256) →
        Answers (.resetInNRelease ⟨straps, pieces⟩) s fun t => gone b t ∧ t.boot.step = 4
          ∧ t.boot.running = [some ⟨a, watch⟩, some ⟨b.active 1, hearth⟩, none, none, none, none]
          ∧ t.boot.cores = ((List.replicate 23 ⟨none, []⟩).set 0 (Core.load 0x80000 ⟨a, watch⟩)).set 1
            (Core.load 0x40000 ⟨b.active 1, hearth⟩)
          ∧ t.boot.key = attestKey d.fuses ∧ t.now = 0 ∧ t.elapsedNs = 0 ∧ t.queues = [] ∧ t.shadow = d.live
          ∧ t.pins.resetIn = false ∧ t.pins.fatal = false ∧ t.pins.straps = straps ∧ t.powerState = 1)
      ∧ (d.fuses.imageFault 0 watch ≠ none → d.fuses.imageFault 0 other ≠ none →
        Answers (.resetInNRelease ⟨straps, pieces⟩) s fun t => gone b t ∧ t.boot.step = 1 ∧ t.boot.running = List.replicate 6 none
          ∧ t.pins.fatal = true ∧ t.powerState = 1))
    ∧ (∀ (b : Boot) (flash : Fin 2) (at_ c : Nat) (v : Byte), b.flash.length = 2 → classAt at_ = some c →
      (∀ l ∈ b.flash, l.length = 6) → (b.program flash at_ v).flashByte flash at_ = v
        ∧ ∀ k, k ≠ at_ → (b.program flash at_ v).flashByte flash k = b.flashByte flash k)

/-- The main rails. The power-up sequence with verified images of Bailiff, Reeves and the monitor makes the device Ready with
the stacks that trained, its map, every ACTIVE slot checked in Idle and one that its generator check fails FENCED, and memory
that holds the monitor's body alone (where, the manual does not say: log 108). A fault of power, the loss of PWR_GOOD_IN and
a lost reference clock end in Standby with FATAL_N and one record, with every job, memory and pending set lost; a STANDBY
request ends there without, once no job is open, and keeps the pending sets. Each Fohal link that stood leaves, with its
record. A READY request in Standby is noted (log 35). That a requested power-down is no loss of power for the pending sets,
and when it waits, are logs 82 and 91: the model's readings. -/
def Obligations.MainRails : Prop := ∀ s : State,
    let d := s.dev
    let off := fun (t : Dev) => t.power.main = false ∧ t.crofts = [] ∧ t.cmds = [] ∧ t.mem = [] ∧ t.jobs = d.jobs.map (fun _ => none)
      ∧ t.fuses = d.fuses ∧ t.boot.flash = d.boot.flash ∧ t.settings = d.settings ∧ t.live = d.live
      ∧ (∀ q ∈ t.fabric.ports, q.state = .down)
    let leaves := ((List.range 12).filter fun p => (d.port p).any Port.joined).length
    (∀ (m : MemTraining) (w : List Byte), d.mayPowerUp = true → d.boot.running.length = 6 → d.boot.inUse 0 = some w →
      d.well.requests = [] → d.crofts = [] → d.slots.length = 80 →
      (∀ c ∈ [2, 3, 4], let bs := d.boot.slotImage (d.boot.active c) c
        d.fuses.imageFault c bs = none ∧ imageBundle bs / 256 = imageBundle w / 256) →
      Answers (.powerUpSequence m) s fun t => t.power.main = true ∧ t.boot.step = 8 ∧ t.power.readyDue = false ∧ t.pins.fatal = false
        ∧ t.pins.pwrGood = true ∧ t.units.hbmPresent = m.hbmTrained ∧ t.units.lpState = m.lpddr.map (·.2)
        ∧ t.units.lpInstalled = m.lpddr.map (fun p => if p.2 = 0 then 0 else p.1)
        ∧ t.units.errors.map (·.left) = (List.range d.units.errors.length).map (fun u => m.left.getD u 0)
        ∧ t.slots.map (·.spare) = ((d.slots.zip (powerUpMap d.fuses.grade d.fuses.slotDisable (d.slots.map (·.spare)))).zipIdx).map
            (fun p => if p.1.2 = .active ∧ ∃ b ∈ m.badSlots, b.val = p.2 then .fenced else p.1.2)
        ∧ (∀ u ∈ t.slots, u.spare = .active → u.checked = true ∧ u.island = .idle)
        ∧ t.power.readyAsked = false ∧ t.boot.released = true
        ∧ (∀ c ∈ [2, 3, 4], t.boot.inUse c = some (d.boot.slotImage (d.boot.active c) c)) ∧ t.jobs = d.jobs
        ∧ (let monitor := d.boot.slotImage (d.boot.active 4) 4
          t.mem = writeBytes d.mem (Config.monitorAt % (12 * 2 ^ 36)) (slotSlice monitor 0x200 (imageBody monitor)))
        ∧ t.boot.flash = d.boot.flash)
    ∧ (∀ m, d.mayPowerUp = false → (d.well.phase = .starting → ∃ c ∈ d.well.cells, c.state = .active) → Becomes (.powerUpSequence m) s d)
    ∧ (∀ lost : Bool, d.power.main = true → d.pins.resetIn = false → Answers (.powerFail lost) s fun t => off t
        ∧ t.pins.fatal = true ∧ t.power.readyDue = true ∧ t.pins.pwrGood = (if lost then false else d.pins.pwrGood)
        ∧ t.hub.commits = List.replicate 5 none ∧ t.logs.count = satAdd 64 d.logs.count (leaves + 1))
    ∧ (d.power.main = true → d.pins.resetIn = false → d.power.refUnlocked = true → Answers .clockLost s fun t => off t
        ∧ t.pins.fatal = true ∧ t.power.readyDue = true ∧ t.hub.commits = List.replicate 5 none
        ∧ t.logs.count = satAdd 64 d.logs.count (leaves + 1))
    ∧ (d.power.main = false → d.power.refUnlocked = true → Becomes .clockLost s
        { d with power := { d.power with refAbsent := true } })
    ∧ (d.power.standbyDue = true → d.noJob = true → Answers .powerDown s fun t => off t ∧ t.pins = d.pins
        ∧ t.power.standbyDue = false ∧ t.power.readyDue = false ∧ t.hub.commits = d.hub.commits
        ∧ (d.logs.count < 2 ^ 64 → t.logs.count = satAdd 64 d.logs.count leaves))
    ∧ (d.noJob = false → Becomes .powerDown s d)
    ∧ (∀ (k : Fin 16) (m : List Byte) (role : Nat), d.Executes (.session k) m role → 2 ≤ role → d.power.main = false →
      Writes m 0x2031 1 [2, 0] → d.power.standbyDue = false → d.power.readyAsked = false →
      Answers (.powerRequestReady (.session k) m) s
        (Dev.Answered { d with power := { d.power with readyDue := true, readyAsked := true } } (.session k) m 0 []))

/-! ## Power, heat and board regulators (16_power_clocks_thermal.md R445 to R452; 11_object_dictionary.md R353) -/

/-- Emergencies and limits. The 12 V input out of range declares a power emergency and TJ_MAX at 115.0 °C a thermal one, the
latter by Hearth while it runs, each counted. The one that stands alone clears to level 10 when no cause of it stands: for
the thermal one at 110.0 °C, for the other with the input in range (or not yet measured: log 75), no level 10 with P above
the limit, and no regulator's fault. A limit written before an emergency takes effect at the next evaluation, one written
during it when it clears. An evaluation above the limit or at 105.0 °C raises the level by 1 up to 10, and one at 97 % of it
and 103.0 °C lowers it. A THERMTRIP takes the main rails off and asserts its pin, with the pending sets lost and TJ_MAX the
hottest sensor. An emergency of another device of a job is noted while it stands. -/
def Obligations.PowerAndHeat : Prop := ∀ s : State,
    let d := s.dev
    let p := d.power
    let limit := p.nextLimit.getD p.limit
    let after := (p.clearLimit.or p.nextLimit).getD p.limit
    let hearth := d.pins.resetIn = false ∧ (d.boot.inUse 1).isSome = true
    (p.main = true → p.emPower = false → Answers .supplyOutOfRange s fun t =>
        t.power = { p with emPower := true, emergencies := satAdd 64 p.emergencies 1 } ∧ t.jobs = d.jobs ∧ t.crofts = d.crofts
        ∧ t.mem = d.mem ∧ (p.emThermal = true → t.sent = d.sent))
    ∧ (∀ now avg : Nat, p.main = true → p.emPower = false → p.emThermal = false →
      Answers (.powerEvaluation now avg false) s fun t =>
        t.power.level.val = (if limit * 1000 < now ∨ 1050 ≤ p.tjMax ∨ (∃ x ∈ p.hbmTemp, 1050 ≤ x) then min 10 (p.level.val + 1)
          else if 100 * avg ≤ 97 * (1000 * limit) ∧ p.tjMax ≤ 1030 ∧ (∀ x ∈ p.hbmTemp, x ≤ 1030) then p.level.val - 1
          else p.level.val)
        ∧ t.power.limit = limit ∧ t.power.nextLimit = none ∧ t.power.package = now ∧ t.power.emPower = false
        ∧ t.jobs = d.jobs ∧ t.crofts = d.crofts ∧ t.mem = d.mem)
    ∧ (∀ now avg : Nat, p.main = true → p.emPower = false → p.emThermal = false → p.level = 10 → limit * 1000 < now →
      Answers (.powerEvaluation now avg true) s fun t => t.power.emPower = true ∧ t.power.level = 10
        ∧ t.power.emergencies = satAdd 64 p.emergencies 1)
    ∧ (∀ tj hbm : List Int, p.aux = true → tj.length = 112 → hbm.length = 12 → Answers (.tjSample tj hbm) s fun t =>
        t.power.tj = tj ∧ t.power.hbmTemp = hbm ∧ (t.power.tjMax ∈ tj ∧ ∀ x ∈ tj, x ≤ t.power.tjMax)
        ∧ (hearth → 1150 ≤ t.power.tjMax → t.power.emThermal = true)
        ∧ (¬ hearth ∨ t.power.tjMax < 1150 → t.power.emThermal = p.emThermal)
        ∧ t.power.level = p.level ∧ t.jobs = d.jobs ∧ t.crofts = d.crofts ∧ t.mem = d.mem)
    ∧ (p.main = true → p.emThermal = true → p.emPower = false → p.tjMax ≤ 1100 → Answers (.emergencyClear true) s fun t =>
        t.power.emThermal = false ∧ t.power.level = 10 ∧ t.power.limit = after)
    ∧ (1100 < p.tjMax → Becomes (.emergencyClear true) s d)
    ∧ (let inRange := ∀ v, p.vin = some v → 11400 ≤ v ∧ v ≤ 12600
      let above := p.level = 10 ∧ 1000 * p.limit < p.package
      let faulted := ∃ b ∈ p.board, b.missed < 3 ∧ ∃ k ∈ [3, 4, 5, 11], b.status.getLsbD k = true
      (p.main = true → p.emPower = true → p.emThermal = false → inRange → ¬ above → ¬ faulted →
        Answers (.emergencyClear false) s fun t => t.power.emPower = false ∧ t.power.level = 10 ∧ t.power.limit = after)
      ∧ (¬ inRange ∨ above ∨ faulted → Becomes (.emergencyClear false) s d))
    ∧ (∀ (now avg : Nat) (long : Bool), p.main = true → Answers (.powerEvaluation now avg long) s fun t =>
        t.power.limit = limit ∧ t.power.nextLimit = none ∧ t.power.clearLimit = p.clearLimit)
    ∧ (∀ n : Fin 112, p.aux = true → d.pins.thermtrip = false → Answers (.thermtrip n) s fun t => t.pins.thermtrip = true
        ∧ t.power.main = false ∧ t.crofts = [] ∧ t.cmds = [] ∧ t.mem = [] ∧ t.jobs = d.jobs.map (fun _ => none)
        ∧ t.fuses = d.fuses ∧ t.settings = d.settings ∧ t.hub.commits = List.replicate 5 none
        ∧ (p.tj.length = 112 → t.power.tjMax ∈ t.power.tj ∧ ∀ x ∈ t.power.tj, x ≤ t.power.tjMax)
        ∧ t.logs.count = satAdd 64 d.logs.count (((List.range 12).filter fun p => (d.port p).any Port.joined).length + 1))
    ∧ (∀ (j : Fin 64) (job : Job) (dev : Nat), d.job j = some job → dev ≠ job.params.ldev → dev < job.params.devices →
      (dev ∉ job.standing → Becomes (.emergencyNotice j dev true) s (d.onJob j fun q => { q with standing := job.standing ++ [dev] }))
      ∧ (Becomes (.emergencyNotice j dev false) s (d.onJob j fun q => { q with standing := job.standing.filter (· ≠ dev) })))

/-- Regulators and measurements. A scan lists the responders of addresses 0x40 to 0x4F by rising address, with VOUT_MODE and
CAPABILITY. A poll, scheduled or called for by PMB_ALERT_N, takes the words of those that answered, with a matching PEC where
the regulator has it; a fault bit of STATUS_WORD (POWER_GOOD# 11, VOUT_OV 5, IOUT_OC 4, VIN_UV 3) declares a power emergency,
and at its third miss a regulator's status reads FFFF. A measurement replaces the readings, in Standby those of the inputs
alone. The reference clock's loss and return are noted; a droop stretches its slot's clock and counts once. Three edges of
1PPS a second of elapsed time apart make the input valid, and its absence makes it invalid. PPS_OUT rises at a whole second
of device time, only while it is enabled, powered and out of reset, and falls 100 us later. The TAP shifts on rising edges
and updates on falling ones, Test-Logic-Reset selects IDCODE, and while TRST_N is low the TAP stays there. The bits of
STATUS_WORD, and that an answer whose PEC does not match counts as none, are log 29; the states and updates of the TAP are
log 32: presumed of PMBus and of IEEE 1149.1. -/
def Obligations.BoardAndClocks : Prop :=
  (∀ s : State, s.dev.power.aux = true →
     let d := s.dev
     let after := fun (recs : List PmbusRec) => d.power.board.map fun b => match recs.find? fun r => r.address == b.address && (r.pecGood || !b.cap.getLsbD 7) with
       | some r => { b with vout := r.vout, iout := r.iout, temp := r.temp, status := r.status, missed := 0 }
       | none => { b with missed := b.missed + 1, status := if 3 ≤ b.missed + 1 then 0xFFFF else b.status }
     (d.pins.resetIn = false →
       (∀ recs, Answers (.pmbusPoll recs) s fun t => t.power.board = after recs ∧ t.jobs = d.jobs ∧ t.crofts = d.crofts ∧ t.mem = d.mem
         ∧ ((∃ b ∈ after recs, b.missed = 0 ∧ ∃ k ∈ [3, 4, 5, 11], b.status.getLsbD k = true) → t.power.emPower = true))
       ∧ (∀ recs, Answers (.pmbAlertN recs) s fun t => t.power.board = after recs ∧ t.jobs = d.jobs ∧ t.crofts = d.crofts
         ∧ t.mem = d.mem)
       ∧ (∀ found : List PmbusFound, (found.map (·.address)).Nodup → (∀ q ∈ found, 0x40 ≤ q.address ∧ q.address ≤ 0x4F) →
         Answers (.pmbusScan found) s fun t => t.power.board.length = found.length
           ∧ (∀ q ∈ found, ∃ b ∈ t.power.board, b.address = q.address ∧ b.mode = q.mode ∧ b.cap = q.capability)
           ∧ (t.power.board.map (·.address)).Pairwise (· < ·) ∧ t.jobs = d.jobs ∧ t.mem = d.mem))
     ∧ (∀ (vin vaux : Nat) (rails : List (Nat × Nat)), Answers (.railMeasurement vin vaux rails) s fun t =>
         t.power = { d.power with vin := some vin, vaux := vaux, rails := if d.power.main then rails else d.power.rails } ∧ t.jobs = d.jobs ∧ t.crofts = d.crofts ∧ t.mem = d.mem))
  ∧ (∀ s : State,
       let d := s.dev
       (d.power.aux = true → Becomes .refclkLoss s { d with power := { d.power with refUnlocked := true } })
       ∧ (Becomes .refclkReturn s { d with power := { d.power with refUnlocked := false, refAbsent := false } })
       ∧ (∀ (n : Fin 80) (u : Slot), d.slot n = some u → u.island ≠ .off →
         (u.stretched = false → Becomes (.droopStretch n true) s { d with
           slots := d.slots.set n.val { u with stretched := true }
           power := { d.power with droops := satAdd 64 d.power.droops 1 } })
         ∧ (Becomes (.droopStretch n false) s { d with slots := d.slots.set n.val { u with stretched := false } }))
       ∧ (∀ at2 : Nat, d.power.aux = true → d.pins.resetIn = false →
         let here := ((at2 : Int) - 2 * d.time.offset).toNat
         let good := ∃ last, d.power.ppsLast = some last ∧ last + 1999998000 ≤ here ∧ here ≤ last + 2000002000
         ∃ n, (good → n = min 3 (d.power.ppsEdges + 1)) ∧ (¬ good → n = 1)
           ∧ let power := { d.power with ppsEdges := n, ppsValid := decide (3 ≤ n), ppsLast := some here }
             (Answers (.ppsInEdge at2) s fun t => t.power = power ∧ t.jobs = d.jobs ∧ t.crofts = d.crofts ∧ t.mem = d.mem)
             ∧ (n < 3 → d.power.main = false ∨ d.power.ppsValid = false → Becomes (.ppsInEdge at2) s { d with power := power })
             ∧ (n = 3 → d.power.main = false ∨ d.power.ppsValid = true → d.fabric.timeState ≠ .master →
               Becomes (.ppsInEdge at2) s { d with power := power }))
       ∧ (let power := { d.power with ppsEdges := 0, ppsValid := false, ppsLast := none }
         (Answers .ppsInAbsent s fun t => t.power = power ∧ t.jobs = d.jobs ∧ t.crofts = d.crofts ∧ t.mem = d.mem)
         ∧ (d.power.main = false ∨ d.power.ppsValid = false → Becomes .ppsInAbsent s { d with power := power }))
       ∧ (∀ rise : Bool, let on := d.settings.ppsOutEnable = true ∧ d.power.aux = true ∧ d.pins.resetIn = false
         (¬ on → Becomes (.ppsOutSecond rise) s { d with pins := { d.pins with ppsOut := false } })
         ∧ (on → rise = true → Answers (.ppsOutSecond rise) s fun t => t.pins = { d.pins with ppsOut := true }
           ∧ t.now % 1000000000 = 0 ∧ d.now ≤ t.now ∧ t.now < d.now + 1000000000 ∧ t.mem = d.mem ∧ t.jobs = d.jobs)
         ∧ (on → rise = false → Answers (.ppsOutSecond rise) s fun t => t.pins = { d.pins with ppsOut := false }
           ∧ (d.pins.ppsOut = true → t.now = max d.now (d.now / 1000000000 * 1000000000 + 100000))
           ∧ (d.pins.ppsOut = false → t.now = d.now) ∧ t.mem = d.mem ∧ t.jobs = d.jobs))
       ∧ (d.power.aux = true →
         let low : Dev := { d with pins := { d.pins with trst := true }, tap := ⟨.testLogicReset, 1, [], none⟩ }
         let high : Tap → Dev := fun tap => { d with pins := { d.pins with trst := false }, tap := tap }
         (Becomes .trstNAssert s low)
         ∧ (∀ rising tms tdi : Bool, Becomes (.tapTckEdge rising ⟨tms, true⟩ tdi) s low)
         ∧ (∀ tms tdi : Bool, d.tap.state = .captureDr → d.tap.ir = 1 → Becomes (.tapTckEdge true ⟨tms, false⟩ tdi) s
           (high { d.tap with shift := (List.range 32).map fun i => idcode.getLsbD i, state := if tms then .exit1Dr else .shiftDr }))
         ∧ (∀ tms tdi : Bool, d.tap.state = .shiftDr → Becomes (.tapTckEdge true ⟨tms, false⟩ tdi) s
           (high { d.tap with shift := d.tap.shift.drop 1 ++ [tdi], state := if tms then .exit1Dr else .shiftDr }))
         ∧ (∀ tms tdi : Bool, d.tap.state = .shiftDr → Becomes (.tapTckEdge false ⟨tms, false⟩ tdi) s
           (high { d.tap with tdo := d.tap.shift.head? }))
         ∧ (∀ tms tdi : Bool, d.tap.state = .updateIr → Becomes (.tapTckEdge false ⟨tms, false⟩ tdi) s
           (high { d.tap with ir := BitVec.ofNat 8 (bitValue d.tap.shift), tdo := none }))
         ∧ (∀ tms tdi : Bool, d.tap.state = .testLogicReset → Becomes (.tapTckEdge false ⟨tms, false⟩ tdi) s
           (high { d.tap with ir := 1, tdo := none }))))
end

