-- ==== Sys2Proof/Laws/State.lean ====
section
/-!
SUPPORT. The fields of the state after the named updates: each update changes the fields it names and no other.
-/

namespace Sys2Proof.Machine

/-! ## `draw` -/

@[simp] theorem Dev.draw_fuses (d : Dev) : d.draw.2.fuses = d.fuses := rfl
@[simp] theorem Dev.draw_time (d : Dev) : d.draw.2.time = d.time := rfl
@[simp] theorem Dev.draw_slots (d : Dev) : d.draw.2.slots = d.slots := rfl
@[simp] theorem Dev.draw_jobs (d : Dev) : d.draw.2.jobs = d.jobs := rfl
@[simp] theorem Dev.draw_crofts (d : Dev) : d.draw.2.crofts = d.crofts := rfl
@[simp] theorem Dev.draw_cmds (d : Dev) : d.draw.2.cmds = d.cmds := rfl
@[simp] theorem Dev.draw_nextCmd (d : Dev) : d.draw.2.nextCmd = d.nextCmd := rfl
@[simp] theorem Dev.draw_queues (d : Dev) : d.draw.2.queues = d.queues := rfl
@[simp] theorem Dev.draw_mem (d : Dev) : d.draw.2.mem = d.mem := rfl
@[simp] theorem Dev.draw_memPoison (d : Dev) : d.draw.2.memPoison = d.memPoison := rfl
@[simp] theorem Dev.draw_units (d : Dev) : d.draw.2.units = d.units := rfl
@[simp] theorem Dev.draw_mesh (d : Dev) : d.draw.2.mesh = d.mesh := rfl
@[simp] theorem Dev.draw_pins (d : Dev) : d.draw.2.pins = d.pins := rfl
@[simp] theorem Dev.draw_power (d : Dev) : d.draw.2.power = d.power := rfl
@[simp] theorem Dev.draw_boot (d : Dev) : d.draw.2.boot = d.boot := rfl
@[simp] theorem Dev.draw_test (d : Dev) : d.draw.2.test = d.test := rfl
@[simp] theorem Dev.draw_well (d : Dev) : d.draw.2.well = d.well := rfl
@[simp] theorem Dev.draw_tap (d : Dev) : d.draw.2.tap = d.tap := rfl
@[simp] theorem Dev.draw_fabric (d : Dev) : d.draw.2.fabric = d.fabric := rfl
@[simp] theorem Dev.draw_hub (d : Dev) : d.draw.2.hub = d.hub := rfl
@[simp] theorem Dev.draw_settings (d : Dev) : d.draw.2.settings = d.settings := rfl
@[simp] theorem Dev.draw_live (d : Dev) : d.draw.2.live = d.live := rfl
@[simp] theorem Dev.draw_shadow (d : Dev) : d.draw.2.shadow = d.shadow := rfl
@[simp] theorem Dev.draw_bars (d : Dev) : d.draw.2.bars = d.bars := rfl
@[simp] theorem Dev.draw_signals (d : Dev) : d.draw.2.signals = d.signals := rfl
@[simp] theorem Dev.draw_sent (d : Dev) : d.draw.2.sent = d.sent := rfl
@[simp] theorem Dev.draw_logs (d : Dev) : d.draw.2.logs = d.logs := rfl
@[simp] theorem Dev.draw_mapGen (d : Dev) : d.draw.2.mapGen = d.mapGen := rfl
@[simp] theorem Dev.draw_irqs (d : Dev) : d.draw.2.irqs = d.irqs := rfl

/-! ## `setCroft` -/

@[simp] theorem Dev.setCroft_fuses (d : Dev) (x : Croft) : (d.setCroft x).fuses = d.fuses := rfl
@[simp] theorem Dev.setCroft_time (d : Dev) (x : Croft) : (d.setCroft x).time = d.time := rfl
@[simp] theorem Dev.setCroft_slots (d : Dev) (x : Croft) : (d.setCroft x).slots = d.slots := rfl
@[simp] theorem Dev.setCroft_jobs (d : Dev) (x : Croft) : (d.setCroft x).jobs = d.jobs := rfl
@[simp] theorem Dev.setCroft_cmds (d : Dev) (x : Croft) : (d.setCroft x).cmds = d.cmds := rfl
@[simp] theorem Dev.setCroft_nextCmd (d : Dev) (x : Croft) : (d.setCroft x).nextCmd = d.nextCmd := rfl
@[simp] theorem Dev.setCroft_queues (d : Dev) (x : Croft) : (d.setCroft x).queues = d.queues := rfl
@[simp] theorem Dev.setCroft_mem (d : Dev) (x : Croft) : (d.setCroft x).mem = d.mem := rfl
@[simp] theorem Dev.setCroft_memPoison (d : Dev) (x : Croft) : (d.setCroft x).memPoison = d.memPoison := rfl
@[simp] theorem Dev.setCroft_units (d : Dev) (x : Croft) : (d.setCroft x).units = d.units := rfl
@[simp] theorem Dev.setCroft_mesh (d : Dev) (x : Croft) : (d.setCroft x).mesh = d.mesh := rfl
@[simp] theorem Dev.setCroft_pins (d : Dev) (x : Croft) : (d.setCroft x).pins = d.pins := rfl
@[simp] theorem Dev.setCroft_power (d : Dev) (x : Croft) : (d.setCroft x).power = d.power := rfl
@[simp] theorem Dev.setCroft_boot (d : Dev) (x : Croft) : (d.setCroft x).boot = d.boot := rfl
@[simp] theorem Dev.setCroft_test (d : Dev) (x : Croft) : (d.setCroft x).test = d.test := rfl
@[simp] theorem Dev.setCroft_well (d : Dev) (x : Croft) : (d.setCroft x).well = d.well := rfl
@[simp] theorem Dev.setCroft_tap (d : Dev) (x : Croft) : (d.setCroft x).tap = d.tap := rfl
@[simp] theorem Dev.setCroft_fabric (d : Dev) (x : Croft) : (d.setCroft x).fabric = d.fabric := rfl
@[simp] theorem Dev.setCroft_hub (d : Dev) (x : Croft) : (d.setCroft x).hub = d.hub := rfl
@[simp] theorem Dev.setCroft_settings (d : Dev) (x : Croft) : (d.setCroft x).settings = d.settings := rfl
@[simp] theorem Dev.setCroft_live (d : Dev) (x : Croft) : (d.setCroft x).live = d.live := rfl
@[simp] theorem Dev.setCroft_shadow (d : Dev) (x : Croft) : (d.setCroft x).shadow = d.shadow := rfl
@[simp] theorem Dev.setCroft_bars (d : Dev) (x : Croft) : (d.setCroft x).bars = d.bars := rfl
@[simp] theorem Dev.setCroft_signals (d : Dev) (x : Croft) : (d.setCroft x).signals = d.signals := rfl
@[simp] theorem Dev.setCroft_sent (d : Dev) (x : Croft) : (d.setCroft x).sent = d.sent := rfl
@[simp] theorem Dev.setCroft_logs (d : Dev) (x : Croft) : (d.setCroft x).logs = d.logs := rfl
@[simp] theorem Dev.setCroft_mapGen (d : Dev) (x : Croft) : (d.setCroft x).mapGen = d.mapGen := rfl
@[simp] theorem Dev.setCroft_irqs (d : Dev) (x : Croft) : (d.setCroft x).irqs = d.irqs := rfl
@[simp] theorem Dev.setCroft_freeCount (d : Dev) (x : Croft) : (d.setCroft x).freeCount = d.freeCount := rfl

/-! ## `onCroft` -/

@[simp] theorem Dev.onCroft_fuses (d : Dev) (c : CroftRef) (f : Croft → Croft) : (d.onCroft c f).fuses = d.fuses := rfl
@[simp] theorem Dev.onCroft_time (d : Dev) (c : CroftRef) (f : Croft → Croft) : (d.onCroft c f).time = d.time := rfl
@[simp] theorem Dev.onCroft_slots (d : Dev) (c : CroftRef) (f : Croft → Croft) : (d.onCroft c f).slots = d.slots := rfl
@[simp] theorem Dev.onCroft_jobs (d : Dev) (c : CroftRef) (f : Croft → Croft) : (d.onCroft c f).jobs = d.jobs := rfl
@[simp] theorem Dev.onCroft_cmds (d : Dev) (c : CroftRef) (f : Croft → Croft) : (d.onCroft c f).cmds = d.cmds := rfl
@[simp] theorem Dev.onCroft_nextCmd (d : Dev) (c : CroftRef) (f : Croft → Croft) : (d.onCroft c f).nextCmd = d.nextCmd := rfl
@[simp] theorem Dev.onCroft_queues (d : Dev) (c : CroftRef) (f : Croft → Croft) : (d.onCroft c f).queues = d.queues := rfl
@[simp] theorem Dev.onCroft_mem (d : Dev) (c : CroftRef) (f : Croft → Croft) : (d.onCroft c f).mem = d.mem := rfl
@[simp] theorem Dev.onCroft_memPoison (d : Dev) (c : CroftRef) (f : Croft → Croft) : (d.onCroft c f).memPoison = d.memPoison := rfl
@[simp] theorem Dev.onCroft_units (d : Dev) (c : CroftRef) (f : Croft → Croft) : (d.onCroft c f).units = d.units := rfl
@[simp] theorem Dev.onCroft_mesh (d : Dev) (c : CroftRef) (f : Croft → Croft) : (d.onCroft c f).mesh = d.mesh := rfl
@[simp] theorem Dev.onCroft_pins (d : Dev) (c : CroftRef) (f : Croft → Croft) : (d.onCroft c f).pins = d.pins := rfl
@[simp] theorem Dev.onCroft_power (d : Dev) (c : CroftRef) (f : Croft → Croft) : (d.onCroft c f).power = d.power := rfl
@[simp] theorem Dev.onCroft_boot (d : Dev) (c : CroftRef) (f : Croft → Croft) : (d.onCroft c f).boot = d.boot := rfl
@[simp] theorem Dev.onCroft_test (d : Dev) (c : CroftRef) (f : Croft → Croft) : (d.onCroft c f).test = d.test := rfl
@[simp] theorem Dev.onCroft_well (d : Dev) (c : CroftRef) (f : Croft → Croft) : (d.onCroft c f).well = d.well := rfl
@[simp] theorem Dev.onCroft_tap (d : Dev) (c : CroftRef) (f : Croft → Croft) : (d.onCroft c f).tap = d.tap := rfl
@[simp] theorem Dev.onCroft_fabric (d : Dev) (c : CroftRef) (f : Croft → Croft) : (d.onCroft c f).fabric = d.fabric := rfl
@[simp] theorem Dev.onCroft_hub (d : Dev) (c : CroftRef) (f : Croft → Croft) : (d.onCroft c f).hub = d.hub := rfl
@[simp] theorem Dev.onCroft_settings (d : Dev) (c : CroftRef) (f : Croft → Croft) : (d.onCroft c f).settings = d.settings := rfl
@[simp] theorem Dev.onCroft_live (d : Dev) (c : CroftRef) (f : Croft → Croft) : (d.onCroft c f).live = d.live := rfl
@[simp] theorem Dev.onCroft_shadow (d : Dev) (c : CroftRef) (f : Croft → Croft) : (d.onCroft c f).shadow = d.shadow := rfl
@[simp] theorem Dev.onCroft_bars (d : Dev) (c : CroftRef) (f : Croft → Croft) : (d.onCroft c f).bars = d.bars := rfl
@[simp] theorem Dev.onCroft_signals (d : Dev) (c : CroftRef) (f : Croft → Croft) : (d.onCroft c f).signals = d.signals := rfl
@[simp] theorem Dev.onCroft_sent (d : Dev) (c : CroftRef) (f : Croft → Croft) : (d.onCroft c f).sent = d.sent := rfl
@[simp] theorem Dev.onCroft_logs (d : Dev) (c : CroftRef) (f : Croft → Croft) : (d.onCroft c f).logs = d.logs := rfl
@[simp] theorem Dev.onCroft_mapGen (d : Dev) (c : CroftRef) (f : Croft → Croft) : (d.onCroft c f).mapGen = d.mapGen := rfl
@[simp] theorem Dev.onCroft_irqs (d : Dev) (c : CroftRef) (f : Croft → Croft) : (d.onCroft c f).irqs = d.irqs := rfl
@[simp] theorem Dev.onCroft_freeCount (d : Dev) (c : CroftRef) (f : Croft → Croft) : (d.onCroft c f).freeCount = d.freeCount := rfl

/-! ## `onJob` -/

@[simp] theorem Dev.onJob_fuses (d : Dev) (j : Fin 64) (f : Job → Job) : (d.onJob j f).fuses = d.fuses := rfl
@[simp] theorem Dev.onJob_time (d : Dev) (j : Fin 64) (f : Job → Job) : (d.onJob j f).time = d.time := rfl
@[simp] theorem Dev.onJob_slots (d : Dev) (j : Fin 64) (f : Job → Job) : (d.onJob j f).slots = d.slots := rfl
@[simp] theorem Dev.onJob_crofts (d : Dev) (j : Fin 64) (f : Job → Job) : (d.onJob j f).crofts = d.crofts := rfl
@[simp] theorem Dev.onJob_cmds (d : Dev) (j : Fin 64) (f : Job → Job) : (d.onJob j f).cmds = d.cmds := rfl
@[simp] theorem Dev.onJob_nextCmd (d : Dev) (j : Fin 64) (f : Job → Job) : (d.onJob j f).nextCmd = d.nextCmd := rfl
@[simp] theorem Dev.onJob_queues (d : Dev) (j : Fin 64) (f : Job → Job) : (d.onJob j f).queues = d.queues := rfl
@[simp] theorem Dev.onJob_mem (d : Dev) (j : Fin 64) (f : Job → Job) : (d.onJob j f).mem = d.mem := rfl
@[simp] theorem Dev.onJob_memPoison (d : Dev) (j : Fin 64) (f : Job → Job) : (d.onJob j f).memPoison = d.memPoison := rfl
@[simp] theorem Dev.onJob_units (d : Dev) (j : Fin 64) (f : Job → Job) : (d.onJob j f).units = d.units := rfl
@[simp] theorem Dev.onJob_mesh (d : Dev) (j : Fin 64) (f : Job → Job) : (d.onJob j f).mesh = d.mesh := rfl
@[simp] theorem Dev.onJob_pins (d : Dev) (j : Fin 64) (f : Job → Job) : (d.onJob j f).pins = d.pins := rfl
@[simp] theorem Dev.onJob_power (d : Dev) (j : Fin 64) (f : Job → Job) : (d.onJob j f).power = d.power := rfl
@[simp] theorem Dev.onJob_boot (d : Dev) (j : Fin 64) (f : Job → Job) : (d.onJob j f).boot = d.boot := rfl
@[simp] theorem Dev.onJob_test (d : Dev) (j : Fin 64) (f : Job → Job) : (d.onJob j f).test = d.test := rfl
@[simp] theorem Dev.onJob_well (d : Dev) (j : Fin 64) (f : Job → Job) : (d.onJob j f).well = d.well := rfl
@[simp] theorem Dev.onJob_tap (d : Dev) (j : Fin 64) (f : Job → Job) : (d.onJob j f).tap = d.tap := rfl
@[simp] theorem Dev.onJob_fabric (d : Dev) (j : Fin 64) (f : Job → Job) : (d.onJob j f).fabric = d.fabric := rfl
@[simp] theorem Dev.onJob_hub (d : Dev) (j : Fin 64) (f : Job → Job) : (d.onJob j f).hub = d.hub := rfl
@[simp] theorem Dev.onJob_settings (d : Dev) (j : Fin 64) (f : Job → Job) : (d.onJob j f).settings = d.settings := rfl
@[simp] theorem Dev.onJob_live (d : Dev) (j : Fin 64) (f : Job → Job) : (d.onJob j f).live = d.live := rfl
@[simp] theorem Dev.onJob_shadow (d : Dev) (j : Fin 64) (f : Job → Job) : (d.onJob j f).shadow = d.shadow := rfl
@[simp] theorem Dev.onJob_bars (d : Dev) (j : Fin 64) (f : Job → Job) : (d.onJob j f).bars = d.bars := rfl
@[simp] theorem Dev.onJob_signals (d : Dev) (j : Fin 64) (f : Job → Job) : (d.onJob j f).signals = d.signals := rfl
@[simp] theorem Dev.onJob_sent (d : Dev) (j : Fin 64) (f : Job → Job) : (d.onJob j f).sent = d.sent := rfl
@[simp] theorem Dev.onJob_logs (d : Dev) (j : Fin 64) (f : Job → Job) : (d.onJob j f).logs = d.logs := rfl
@[simp] theorem Dev.onJob_mapGen (d : Dev) (j : Fin 64) (f : Job → Job) : (d.onJob j f).mapGen = d.mapGen := rfl
@[simp] theorem Dev.onJob_irqs (d : Dev) (j : Fin 64) (f : Job → Job) : (d.onJob j f).irqs = d.irqs := rfl
@[simp] theorem Dev.onJob_freeCount (d : Dev) (j : Fin 64) (f : Job → Job) : (d.onJob j f).freeCount = d.freeCount := rfl

/-! ## `onSlot` -/

@[simp] theorem Dev.onSlot_fuses (d : Dev) (n : Fin 80) (f : Slot → Slot) : (d.onSlot n f).fuses = d.fuses := rfl
@[simp] theorem Dev.onSlot_time (d : Dev) (n : Fin 80) (f : Slot → Slot) : (d.onSlot n f).time = d.time := rfl
@[simp] theorem Dev.onSlot_jobs (d : Dev) (n : Fin 80) (f : Slot → Slot) : (d.onSlot n f).jobs = d.jobs := rfl
@[simp] theorem Dev.onSlot_crofts (d : Dev) (n : Fin 80) (f : Slot → Slot) : (d.onSlot n f).crofts = d.crofts := rfl
@[simp] theorem Dev.onSlot_cmds (d : Dev) (n : Fin 80) (f : Slot → Slot) : (d.onSlot n f).cmds = d.cmds := rfl
@[simp] theorem Dev.onSlot_nextCmd (d : Dev) (n : Fin 80) (f : Slot → Slot) : (d.onSlot n f).nextCmd = d.nextCmd := rfl
@[simp] theorem Dev.onSlot_queues (d : Dev) (n : Fin 80) (f : Slot → Slot) : (d.onSlot n f).queues = d.queues := rfl
@[simp] theorem Dev.onSlot_mem (d : Dev) (n : Fin 80) (f : Slot → Slot) : (d.onSlot n f).mem = d.mem := rfl
@[simp] theorem Dev.onSlot_memPoison (d : Dev) (n : Fin 80) (f : Slot → Slot) : (d.onSlot n f).memPoison = d.memPoison := rfl
@[simp] theorem Dev.onSlot_units (d : Dev) (n : Fin 80) (f : Slot → Slot) : (d.onSlot n f).units = d.units := rfl
@[simp] theorem Dev.onSlot_mesh (d : Dev) (n : Fin 80) (f : Slot → Slot) : (d.onSlot n f).mesh = d.mesh := rfl
@[simp] theorem Dev.onSlot_pins (d : Dev) (n : Fin 80) (f : Slot → Slot) : (d.onSlot n f).pins = d.pins := rfl
@[simp] theorem Dev.onSlot_power (d : Dev) (n : Fin 80) (f : Slot → Slot) : (d.onSlot n f).power = d.power := rfl
@[simp] theorem Dev.onSlot_boot (d : Dev) (n : Fin 80) (f : Slot → Slot) : (d.onSlot n f).boot = d.boot := rfl
@[simp] theorem Dev.onSlot_test (d : Dev) (n : Fin 80) (f : Slot → Slot) : (d.onSlot n f).test = d.test := rfl
@[simp] theorem Dev.onSlot_well (d : Dev) (n : Fin 80) (f : Slot → Slot) : (d.onSlot n f).well = d.well := rfl
@[simp] theorem Dev.onSlot_tap (d : Dev) (n : Fin 80) (f : Slot → Slot) : (d.onSlot n f).tap = d.tap := rfl
@[simp] theorem Dev.onSlot_fabric (d : Dev) (n : Fin 80) (f : Slot → Slot) : (d.onSlot n f).fabric = d.fabric := rfl
@[simp] theorem Dev.onSlot_hub (d : Dev) (n : Fin 80) (f : Slot → Slot) : (d.onSlot n f).hub = d.hub := rfl
@[simp] theorem Dev.onSlot_settings (d : Dev) (n : Fin 80) (f : Slot → Slot) : (d.onSlot n f).settings = d.settings := rfl
@[simp] theorem Dev.onSlot_live (d : Dev) (n : Fin 80) (f : Slot → Slot) : (d.onSlot n f).live = d.live := rfl
@[simp] theorem Dev.onSlot_shadow (d : Dev) (n : Fin 80) (f : Slot → Slot) : (d.onSlot n f).shadow = d.shadow := rfl
@[simp] theorem Dev.onSlot_bars (d : Dev) (n : Fin 80) (f : Slot → Slot) : (d.onSlot n f).bars = d.bars := rfl
@[simp] theorem Dev.onSlot_signals (d : Dev) (n : Fin 80) (f : Slot → Slot) : (d.onSlot n f).signals = d.signals := rfl
@[simp] theorem Dev.onSlot_sent (d : Dev) (n : Fin 80) (f : Slot → Slot) : (d.onSlot n f).sent = d.sent := rfl
@[simp] theorem Dev.onSlot_logs (d : Dev) (n : Fin 80) (f : Slot → Slot) : (d.onSlot n f).logs = d.logs := rfl
@[simp] theorem Dev.onSlot_mapGen (d : Dev) (n : Fin 80) (f : Slot → Slot) : (d.onSlot n f).mapGen = d.mapGen := rfl
@[simp] theorem Dev.onSlot_irqs (d : Dev) (n : Fin 80) (f : Slot → Slot) : (d.onSlot n f).irqs = d.irqs := rfl
@[simp] theorem Dev.onSlot_freeCount (d : Dev) (n : Fin 80) (f : Slot → Slot) : (d.onSlot n f).freeCount = d.freeCount := rfl

/-! ## `send` -/

@[simp] theorem Dev.send_fuses (d : Dev) (m : Sent) : (d.send m).fuses = d.fuses := rfl
@[simp] theorem Dev.send_time (d : Dev) (m : Sent) : (d.send m).time = d.time := rfl
@[simp] theorem Dev.send_slots (d : Dev) (m : Sent) : (d.send m).slots = d.slots := rfl
@[simp] theorem Dev.send_jobs (d : Dev) (m : Sent) : (d.send m).jobs = d.jobs := rfl
@[simp] theorem Dev.send_crofts (d : Dev) (m : Sent) : (d.send m).crofts = d.crofts := rfl
@[simp] theorem Dev.send_cmds (d : Dev) (m : Sent) : (d.send m).cmds = d.cmds := rfl
@[simp] theorem Dev.send_nextCmd (d : Dev) (m : Sent) : (d.send m).nextCmd = d.nextCmd := rfl
@[simp] theorem Dev.send_queues (d : Dev) (m : Sent) : (d.send m).queues = d.queues := rfl
@[simp] theorem Dev.send_mem (d : Dev) (m : Sent) : (d.send m).mem = d.mem := rfl
@[simp] theorem Dev.send_memPoison (d : Dev) (m : Sent) : (d.send m).memPoison = d.memPoison := rfl
@[simp] theorem Dev.send_units (d : Dev) (m : Sent) : (d.send m).units = d.units := rfl
@[simp] theorem Dev.send_mesh (d : Dev) (m : Sent) : (d.send m).mesh = d.mesh := rfl
@[simp] theorem Dev.send_pins (d : Dev) (m : Sent) : (d.send m).pins = d.pins := rfl
@[simp] theorem Dev.send_power (d : Dev) (m : Sent) : (d.send m).power = d.power := rfl
@[simp] theorem Dev.send_boot (d : Dev) (m : Sent) : (d.send m).boot = d.boot := rfl
@[simp] theorem Dev.send_test (d : Dev) (m : Sent) : (d.send m).test = d.test := rfl
@[simp] theorem Dev.send_well (d : Dev) (m : Sent) : (d.send m).well = d.well := rfl
@[simp] theorem Dev.send_tap (d : Dev) (m : Sent) : (d.send m).tap = d.tap := rfl
@[simp] theorem Dev.send_fabric (d : Dev) (m : Sent) : (d.send m).fabric = d.fabric := rfl
@[simp] theorem Dev.send_hub (d : Dev) (m : Sent) : (d.send m).hub = d.hub := rfl
@[simp] theorem Dev.send_settings (d : Dev) (m : Sent) : (d.send m).settings = d.settings := rfl
@[simp] theorem Dev.send_live (d : Dev) (m : Sent) : (d.send m).live = d.live := rfl
@[simp] theorem Dev.send_shadow (d : Dev) (m : Sent) : (d.send m).shadow = d.shadow := rfl
@[simp] theorem Dev.send_bars (d : Dev) (m : Sent) : (d.send m).bars = d.bars := rfl
@[simp] theorem Dev.send_signals (d : Dev) (m : Sent) : (d.send m).signals = d.signals := rfl
@[simp] theorem Dev.send_logs (d : Dev) (m : Sent) : (d.send m).logs = d.logs := rfl
@[simp] theorem Dev.send_mapGen (d : Dev) (m : Sent) : (d.send m).mapGen = d.mapGen := rfl
@[simp] theorem Dev.send_irqs (d : Dev) (m : Sent) : (d.send m).irqs = d.irqs := rfl
@[simp] theorem Dev.send_freeCount (d : Dev) (m : Sent) : (d.send m).freeCount = d.freeCount := rfl

/-! ## `event` -/

@[simp] theorem Dev.event_fuses (d : Dev) (e v k n : Nat) (t : Word64) : (d.event e v k n t).fuses = d.fuses := rfl
@[simp] theorem Dev.event_time (d : Dev) (e v k n : Nat) (t : Word64) : (d.event e v k n t).time = d.time := rfl
@[simp] theorem Dev.event_slots (d : Dev) (e v k n : Nat) (t : Word64) : (d.event e v k n t).slots = d.slots := rfl
@[simp] theorem Dev.event_jobs (d : Dev) (e v k n : Nat) (t : Word64) : (d.event e v k n t).jobs = d.jobs := rfl
@[simp] theorem Dev.event_crofts (d : Dev) (e v k n : Nat) (t : Word64) : (d.event e v k n t).crofts = d.crofts := rfl
@[simp] theorem Dev.event_cmds (d : Dev) (e v k n : Nat) (t : Word64) : (d.event e v k n t).cmds = d.cmds := rfl
@[simp] theorem Dev.event_nextCmd (d : Dev) (e v k n : Nat) (t : Word64) : (d.event e v k n t).nextCmd = d.nextCmd := rfl
@[simp] theorem Dev.event_queues (d : Dev) (e v k n : Nat) (t : Word64) : (d.event e v k n t).queues = d.queues := rfl
@[simp] theorem Dev.event_mem (d : Dev) (e v k n : Nat) (t : Word64) : (d.event e v k n t).mem = d.mem := rfl
@[simp] theorem Dev.event_memPoison (d : Dev) (e v k n : Nat) (t : Word64) : (d.event e v k n t).memPoison = d.memPoison := rfl
@[simp] theorem Dev.event_units (d : Dev) (e v k n : Nat) (t : Word64) : (d.event e v k n t).units = d.units := rfl
@[simp] theorem Dev.event_mesh (d : Dev) (e v k n : Nat) (t : Word64) : (d.event e v k n t).mesh = d.mesh := rfl
@[simp] theorem Dev.event_pins (d : Dev) (e v k n : Nat) (t : Word64) : (d.event e v k n t).pins = d.pins := rfl
@[simp] theorem Dev.event_power (d : Dev) (e v k n : Nat) (t : Word64) : (d.event e v k n t).power = d.power := rfl
@[simp] theorem Dev.event_boot (d : Dev) (e v k n : Nat) (t : Word64) : (d.event e v k n t).boot = d.boot := rfl
@[simp] theorem Dev.event_test (d : Dev) (e v k n : Nat) (t : Word64) : (d.event e v k n t).test = d.test := rfl
@[simp] theorem Dev.event_well (d : Dev) (e v k n : Nat) (t : Word64) : (d.event e v k n t).well = d.well := rfl
@[simp] theorem Dev.event_tap (d : Dev) (e v k n : Nat) (t : Word64) : (d.event e v k n t).tap = d.tap := rfl
@[simp] theorem Dev.event_fabric (d : Dev) (e v k n : Nat) (t : Word64) : (d.event e v k n t).fabric = d.fabric := rfl
@[simp] theorem Dev.event_hub (d : Dev) (e v k n : Nat) (t : Word64) : (d.event e v k n t).hub = d.hub := rfl
@[simp] theorem Dev.event_settings (d : Dev) (e v k n : Nat) (t : Word64) : (d.event e v k n t).settings = d.settings := rfl
@[simp] theorem Dev.event_live (d : Dev) (e v k n : Nat) (t : Word64) : (d.event e v k n t).live = d.live := rfl
@[simp] theorem Dev.event_shadow (d : Dev) (e v k n : Nat) (t : Word64) : (d.event e v k n t).shadow = d.shadow := rfl
@[simp] theorem Dev.event_bars (d : Dev) (e v k n : Nat) (t : Word64) : (d.event e v k n t).bars = d.bars := rfl
@[simp] theorem Dev.event_signals (d : Dev) (e v k n : Nat) (t : Word64) : (d.event e v k n t).signals = d.signals := rfl
@[simp] theorem Dev.event_sent (d : Dev) (e v k n : Nat) (t : Word64) : (d.event e v k n t).sent = d.sent := rfl
@[simp] theorem Dev.event_mapGen (d : Dev) (e v k n : Nat) (t : Word64) : (d.event e v k n t).mapGen = d.mapGen := rfl
@[simp] theorem Dev.event_irqs (d : Dev) (e v k n : Nat) (t : Word64) : (d.event e v k n t).irqs = d.irqs := rfl
@[simp] theorem Dev.event_freeCount (d : Dev) (e v k n : Nat) (t : Word64) : (d.event e v k n t).freeCount = d.freeCount := rfl

/-! ## `eventOpen` -/

@[simp] theorem Dev.eventOpen_fuses (d : Dev) (e k n : Nat) : (d.eventOpen e k n).fuses = d.fuses := rfl
@[simp] theorem Dev.eventOpen_time (d : Dev) (e k n : Nat) : (d.eventOpen e k n).time = d.time := rfl
@[simp] theorem Dev.eventOpen_slots (d : Dev) (e k n : Nat) : (d.eventOpen e k n).slots = d.slots := rfl
@[simp] theorem Dev.eventOpen_jobs (d : Dev) (e k n : Nat) : (d.eventOpen e k n).jobs = d.jobs := rfl
@[simp] theorem Dev.eventOpen_crofts (d : Dev) (e k n : Nat) : (d.eventOpen e k n).crofts = d.crofts := rfl
@[simp] theorem Dev.eventOpen_cmds (d : Dev) (e k n : Nat) : (d.eventOpen e k n).cmds = d.cmds := rfl
@[simp] theorem Dev.eventOpen_nextCmd (d : Dev) (e k n : Nat) : (d.eventOpen e k n).nextCmd = d.nextCmd := rfl
@[simp] theorem Dev.eventOpen_queues (d : Dev) (e k n : Nat) : (d.eventOpen e k n).queues = d.queues := rfl
@[simp] theorem Dev.eventOpen_mem (d : Dev) (e k n : Nat) : (d.eventOpen e k n).mem = d.mem := rfl
@[simp] theorem Dev.eventOpen_memPoison (d : Dev) (e k n : Nat) : (d.eventOpen e k n).memPoison = d.memPoison := rfl
@[simp] theorem Dev.eventOpen_units (d : Dev) (e k n : Nat) : (d.eventOpen e k n).units = d.units := rfl
@[simp] theorem Dev.eventOpen_mesh (d : Dev) (e k n : Nat) : (d.eventOpen e k n).mesh = d.mesh := rfl
@[simp] theorem Dev.eventOpen_pins (d : Dev) (e k n : Nat) : (d.eventOpen e k n).pins = d.pins := rfl
@[simp] theorem Dev.eventOpen_power (d : Dev) (e k n : Nat) : (d.eventOpen e k n).power = d.power := rfl
@[simp] theorem Dev.eventOpen_boot (d : Dev) (e k n : Nat) : (d.eventOpen e k n).boot = d.boot := rfl
@[simp] theorem Dev.eventOpen_test (d : Dev) (e k n : Nat) : (d.eventOpen e k n).test = d.test := rfl
@[simp] theorem Dev.eventOpen_well (d : Dev) (e k n : Nat) : (d.eventOpen e k n).well = d.well := rfl
@[simp] theorem Dev.eventOpen_tap (d : Dev) (e k n : Nat) : (d.eventOpen e k n).tap = d.tap := rfl
@[simp] theorem Dev.eventOpen_fabric (d : Dev) (e k n : Nat) : (d.eventOpen e k n).fabric = d.fabric := rfl
@[simp] theorem Dev.eventOpen_hub (d : Dev) (e k n : Nat) : (d.eventOpen e k n).hub = d.hub := rfl
@[simp] theorem Dev.eventOpen_settings (d : Dev) (e k n : Nat) : (d.eventOpen e k n).settings = d.settings := rfl
@[simp] theorem Dev.eventOpen_live (d : Dev) (e k n : Nat) : (d.eventOpen e k n).live = d.live := rfl
@[simp] theorem Dev.eventOpen_shadow (d : Dev) (e k n : Nat) : (d.eventOpen e k n).shadow = d.shadow := rfl
@[simp] theorem Dev.eventOpen_bars (d : Dev) (e k n : Nat) : (d.eventOpen e k n).bars = d.bars := rfl
@[simp] theorem Dev.eventOpen_signals (d : Dev) (e k n : Nat) : (d.eventOpen e k n).signals = d.signals := rfl
@[simp] theorem Dev.eventOpen_sent (d : Dev) (e k n : Nat) : (d.eventOpen e k n).sent = d.sent := rfl
@[simp] theorem Dev.eventOpen_mapGen (d : Dev) (e k n : Nat) : (d.eventOpen e k n).mapGen = d.mapGen := rfl
@[simp] theorem Dev.eventOpen_irqs (d : Dev) (e k n : Nat) : (d.eventOpen e k n).irqs = d.irqs := rfl

/-! ## `eventNamed` -/

@[simp] theorem Dev.eventNamed_fuses (d : Dev) (e : Config.NamedEvent) (k n : Nat) : (d.eventNamed e k n).fuses = d.fuses := rfl
@[simp] theorem Dev.eventNamed_time (d : Dev) (e : Config.NamedEvent) (k n : Nat) : (d.eventNamed e k n).time = d.time := rfl
@[simp] theorem Dev.eventNamed_slots (d : Dev) (e : Config.NamedEvent) (k n : Nat) : (d.eventNamed e k n).slots = d.slots := rfl
@[simp] theorem Dev.eventNamed_jobs (d : Dev) (e : Config.NamedEvent) (k n : Nat) : (d.eventNamed e k n).jobs = d.jobs := rfl
@[simp] theorem Dev.eventNamed_crofts (d : Dev) (e : Config.NamedEvent) (k n : Nat) : (d.eventNamed e k n).crofts = d.crofts := rfl
@[simp] theorem Dev.eventNamed_cmds (d : Dev) (e : Config.NamedEvent) (k n : Nat) : (d.eventNamed e k n).cmds = d.cmds := rfl
@[simp] theorem Dev.eventNamed_nextCmd (d : Dev) (e : Config.NamedEvent) (k n : Nat) : (d.eventNamed e k n).nextCmd = d.nextCmd := rfl
@[simp] theorem Dev.eventNamed_queues (d : Dev) (e : Config.NamedEvent) (k n : Nat) : (d.eventNamed e k n).queues = d.queues := rfl
@[simp] theorem Dev.eventNamed_mem (d : Dev) (e : Config.NamedEvent) (k n : Nat) : (d.eventNamed e k n).mem = d.mem := rfl
@[simp] theorem Dev.eventNamed_memPoison (d : Dev) (e : Config.NamedEvent) (k n : Nat) : (d.eventNamed e k n).memPoison = d.memPoison := rfl
@[simp] theorem Dev.eventNamed_units (d : Dev) (e : Config.NamedEvent) (k n : Nat) : (d.eventNamed e k n).units = d.units := rfl
@[simp] theorem Dev.eventNamed_mesh (d : Dev) (e : Config.NamedEvent) (k n : Nat) : (d.eventNamed e k n).mesh = d.mesh := rfl
@[simp] theorem Dev.eventNamed_pins (d : Dev) (e : Config.NamedEvent) (k n : Nat) : (d.eventNamed e k n).pins = d.pins := rfl
@[simp] theorem Dev.eventNamed_power (d : Dev) (e : Config.NamedEvent) (k n : Nat) : (d.eventNamed e k n).power = d.power := rfl
@[simp] theorem Dev.eventNamed_boot (d : Dev) (e : Config.NamedEvent) (k n : Nat) : (d.eventNamed e k n).boot = d.boot := rfl
@[simp] theorem Dev.eventNamed_test (d : Dev) (e : Config.NamedEvent) (k n : Nat) : (d.eventNamed e k n).test = d.test := rfl
@[simp] theorem Dev.eventNamed_well (d : Dev) (e : Config.NamedEvent) (k n : Nat) : (d.eventNamed e k n).well = d.well := rfl
@[simp] theorem Dev.eventNamed_tap (d : Dev) (e : Config.NamedEvent) (k n : Nat) : (d.eventNamed e k n).tap = d.tap := rfl
@[simp] theorem Dev.eventNamed_fabric (d : Dev) (e : Config.NamedEvent) (k n : Nat) : (d.eventNamed e k n).fabric = d.fabric := rfl
@[simp] theorem Dev.eventNamed_hub (d : Dev) (e : Config.NamedEvent) (k n : Nat) : (d.eventNamed e k n).hub = d.hub := rfl
@[simp] theorem Dev.eventNamed_settings (d : Dev) (e : Config.NamedEvent) (k n : Nat) : (d.eventNamed e k n).settings = d.settings := rfl
@[simp] theorem Dev.eventNamed_live (d : Dev) (e : Config.NamedEvent) (k n : Nat) : (d.eventNamed e k n).live = d.live := rfl
@[simp] theorem Dev.eventNamed_shadow (d : Dev) (e : Config.NamedEvent) (k n : Nat) : (d.eventNamed e k n).shadow = d.shadow := rfl
@[simp] theorem Dev.eventNamed_bars (d : Dev) (e : Config.NamedEvent) (k n : Nat) : (d.eventNamed e k n).bars = d.bars := rfl
@[simp] theorem Dev.eventNamed_signals (d : Dev) (e : Config.NamedEvent) (k n : Nat) : (d.eventNamed e k n).signals = d.signals := rfl
@[simp] theorem Dev.eventNamed_sent (d : Dev) (e : Config.NamedEvent) (k n : Nat) : (d.eventNamed e k n).sent = d.sent := rfl
@[simp] theorem Dev.eventNamed_mapGen (d : Dev) (e : Config.NamedEvent) (k n : Nat) : (d.eventNamed e k n).mapGen = d.mapGen := rfl
@[simp] theorem Dev.eventNamed_irqs (d : Dev) (e : Config.NamedEvent) (k n : Nat) : (d.eventNamed e k n).irqs = d.irqs := rfl

/-! ## `faultEvent` -/

@[simp] theorem Dev.faultEvent_fuses (d : Dev) (code : Nat) (n : Option (Fin 80)) (t : Word64) : (d.faultEvent code n t).fuses = d.fuses := by cases n <;> rfl
@[simp] theorem Dev.faultEvent_time (d : Dev) (code : Nat) (n : Option (Fin 80)) (t : Word64) : (d.faultEvent code n t).time = d.time := by cases n <;> rfl
@[simp] theorem Dev.faultEvent_slots (d : Dev) (code : Nat) (n : Option (Fin 80)) (t : Word64) : (d.faultEvent code n t).slots = d.slots := by cases n <;> rfl
@[simp] theorem Dev.faultEvent_jobs (d : Dev) (code : Nat) (n : Option (Fin 80)) (t : Word64) : (d.faultEvent code n t).jobs = d.jobs := by cases n <;> rfl
@[simp] theorem Dev.faultEvent_crofts (d : Dev) (code : Nat) (n : Option (Fin 80)) (t : Word64) : (d.faultEvent code n t).crofts = d.crofts := by cases n <;> rfl
@[simp] theorem Dev.faultEvent_cmds (d : Dev) (code : Nat) (n : Option (Fin 80)) (t : Word64) : (d.faultEvent code n t).cmds = d.cmds := by cases n <;> rfl
@[simp] theorem Dev.faultEvent_nextCmd (d : Dev) (code : Nat) (n : Option (Fin 80)) (t : Word64) : (d.faultEvent code n t).nextCmd = d.nextCmd := by cases n <;> rfl
@[simp] theorem Dev.faultEvent_queues (d : Dev) (code : Nat) (n : Option (Fin 80)) (t : Word64) : (d.faultEvent code n t).queues = d.queues := by cases n <;> rfl
@[simp] theorem Dev.faultEvent_mem (d : Dev) (code : Nat) (n : Option (Fin 80)) (t : Word64) : (d.faultEvent code n t).mem = d.mem := by cases n <;> rfl
@[simp] theorem Dev.faultEvent_memPoison (d : Dev) (code : Nat) (n : Option (Fin 80)) (t : Word64) : (d.faultEvent code n t).memPoison = d.memPoison := by cases n <;> rfl
@[simp] theorem Dev.faultEvent_units (d : Dev) (code : Nat) (n : Option (Fin 80)) (t : Word64) : (d.faultEvent code n t).units = d.units := by cases n <;> rfl
@[simp] theorem Dev.faultEvent_mesh (d : Dev) (code : Nat) (n : Option (Fin 80)) (t : Word64) : (d.faultEvent code n t).mesh = d.mesh := by cases n <;> rfl
@[simp] theorem Dev.faultEvent_pins (d : Dev) (code : Nat) (n : Option (Fin 80)) (t : Word64) : (d.faultEvent code n t).pins = d.pins := by cases n <;> rfl
@[simp] theorem Dev.faultEvent_power (d : Dev) (code : Nat) (n : Option (Fin 80)) (t : Word64) : (d.faultEvent code n t).power = d.power := by cases n <;> rfl
@[simp] theorem Dev.faultEvent_boot (d : Dev) (code : Nat) (n : Option (Fin 80)) (t : Word64) : (d.faultEvent code n t).boot = d.boot := by cases n <;> rfl
@[simp] theorem Dev.faultEvent_test (d : Dev) (code : Nat) (n : Option (Fin 80)) (t : Word64) : (d.faultEvent code n t).test = d.test := by cases n <;> rfl
@[simp] theorem Dev.faultEvent_well (d : Dev) (code : Nat) (n : Option (Fin 80)) (t : Word64) : (d.faultEvent code n t).well = d.well := by cases n <;> rfl
@[simp] theorem Dev.faultEvent_tap (d : Dev) (code : Nat) (n : Option (Fin 80)) (t : Word64) : (d.faultEvent code n t).tap = d.tap := by cases n <;> rfl
@[simp] theorem Dev.faultEvent_fabric (d : Dev) (code : Nat) (n : Option (Fin 80)) (t : Word64) : (d.faultEvent code n t).fabric = d.fabric := by cases n <;> rfl
@[simp] theorem Dev.faultEvent_hub (d : Dev) (code : Nat) (n : Option (Fin 80)) (t : Word64) : (d.faultEvent code n t).hub = d.hub := by cases n <;> rfl
@[simp] theorem Dev.faultEvent_settings (d : Dev) (code : Nat) (n : Option (Fin 80)) (t : Word64) : (d.faultEvent code n t).settings = d.settings := by cases n <;> rfl
@[simp] theorem Dev.faultEvent_live (d : Dev) (code : Nat) (n : Option (Fin 80)) (t : Word64) : (d.faultEvent code n t).live = d.live := by cases n <;> rfl
@[simp] theorem Dev.faultEvent_shadow (d : Dev) (code : Nat) (n : Option (Fin 80)) (t : Word64) : (d.faultEvent code n t).shadow = d.shadow := by cases n <;> rfl
@[simp] theorem Dev.faultEvent_bars (d : Dev) (code : Nat) (n : Option (Fin 80)) (t : Word64) : (d.faultEvent code n t).bars = d.bars := by cases n <;> rfl
@[simp] theorem Dev.faultEvent_signals (d : Dev) (code : Nat) (n : Option (Fin 80)) (t : Word64) : (d.faultEvent code n t).signals = d.signals := by cases n <;> rfl
@[simp] theorem Dev.faultEvent_sent (d : Dev) (code : Nat) (n : Option (Fin 80)) (t : Word64) : (d.faultEvent code n t).sent = d.sent := by cases n <;> rfl
@[simp] theorem Dev.faultEvent_mapGen (d : Dev) (code : Nat) (n : Option (Fin 80)) (t : Word64) : (d.faultEvent code n t).mapGen = d.mapGen := by cases n <;> rfl
@[simp] theorem Dev.faultEvent_irqs (d : Dev) (code : Nat) (n : Option (Fin 80)) (t : Word64) : (d.faultEvent code n t).irqs = d.irqs := by cases n <;> rfl
@[simp] theorem Dev.faultEvent_freeCount (d : Dev) (code : Nat) (n : Option (Fin 80)) (t : Word64) : (d.faultEvent code n t).freeCount = d.freeCount := by cases n <;> rfl

/-! ## `corrected` -/

@[simp] theorem Dev.corrected_fuses (d : Dev) (e k n t : Nat) : (d.corrected e k n t).fuses = d.fuses := rfl
@[simp] theorem Dev.corrected_time (d : Dev) (e k n t : Nat) : (d.corrected e k n t).time = d.time := rfl
@[simp] theorem Dev.corrected_slots (d : Dev) (e k n t : Nat) : (d.corrected e k n t).slots = d.slots := rfl
@[simp] theorem Dev.corrected_jobs (d : Dev) (e k n t : Nat) : (d.corrected e k n t).jobs = d.jobs := rfl
@[simp] theorem Dev.corrected_crofts (d : Dev) (e k n t : Nat) : (d.corrected e k n t).crofts = d.crofts := rfl
@[simp] theorem Dev.corrected_cmds (d : Dev) (e k n t : Nat) : (d.corrected e k n t).cmds = d.cmds := rfl
@[simp] theorem Dev.corrected_nextCmd (d : Dev) (e k n t : Nat) : (d.corrected e k n t).nextCmd = d.nextCmd := rfl
@[simp] theorem Dev.corrected_queues (d : Dev) (e k n t : Nat) : (d.corrected e k n t).queues = d.queues := rfl
@[simp] theorem Dev.corrected_mem (d : Dev) (e k n t : Nat) : (d.corrected e k n t).mem = d.mem := rfl
@[simp] theorem Dev.corrected_memPoison (d : Dev) (e k n t : Nat) : (d.corrected e k n t).memPoison = d.memPoison := rfl
@[simp] theorem Dev.corrected_units (d : Dev) (e k n t : Nat) : (d.corrected e k n t).units = d.units := rfl
@[simp] theorem Dev.corrected_mesh (d : Dev) (e k n t : Nat) : (d.corrected e k n t).mesh = d.mesh := rfl
@[simp] theorem Dev.corrected_pins (d : Dev) (e k n t : Nat) : (d.corrected e k n t).pins = d.pins := rfl
@[simp] theorem Dev.corrected_power (d : Dev) (e k n t : Nat) : (d.corrected e k n t).power = d.power := rfl
@[simp] theorem Dev.corrected_boot (d : Dev) (e k n t : Nat) : (d.corrected e k n t).boot = d.boot := rfl
@[simp] theorem Dev.corrected_test (d : Dev) (e k n t : Nat) : (d.corrected e k n t).test = d.test := rfl
@[simp] theorem Dev.corrected_well (d : Dev) (e k n t : Nat) : (d.corrected e k n t).well = d.well := rfl
@[simp] theorem Dev.corrected_tap (d : Dev) (e k n t : Nat) : (d.corrected e k n t).tap = d.tap := rfl
@[simp] theorem Dev.corrected_fabric (d : Dev) (e k n t : Nat) : (d.corrected e k n t).fabric = d.fabric := rfl
@[simp] theorem Dev.corrected_hub (d : Dev) (e k n t : Nat) : (d.corrected e k n t).hub = d.hub := rfl
@[simp] theorem Dev.corrected_settings (d : Dev) (e k n t : Nat) : (d.corrected e k n t).settings = d.settings := rfl
@[simp] theorem Dev.corrected_live (d : Dev) (e k n t : Nat) : (d.corrected e k n t).live = d.live := rfl
@[simp] theorem Dev.corrected_shadow (d : Dev) (e k n t : Nat) : (d.corrected e k n t).shadow = d.shadow := rfl
@[simp] theorem Dev.corrected_bars (d : Dev) (e k n t : Nat) : (d.corrected e k n t).bars = d.bars := rfl
@[simp] theorem Dev.corrected_signals (d : Dev) (e k n t : Nat) : (d.corrected e k n t).signals = d.signals := rfl
@[simp] theorem Dev.corrected_sent (d : Dev) (e k n t : Nat) : (d.corrected e k n t).sent = d.sent := rfl
@[simp] theorem Dev.corrected_mapGen (d : Dev) (e k n t : Nat) : (d.corrected e k n t).mapGen = d.mapGen := rfl
@[simp] theorem Dev.corrected_irqs (d : Dev) (e k n t : Nat) : (d.corrected e k n t).irqs = d.irqs := rfl
@[simp] theorem Dev.corrected_freeCount (d : Dev) (e k n t : Nat) : (d.corrected e k n t).freeCount = d.freeCount := rfl

/-! ## `write` -/

@[simp] theorem Dev.write_fuses (d : Dev) (a : Nat) (bs : List Byte) : (d.write a bs).fuses = d.fuses := rfl
@[simp] theorem Dev.write_time (d : Dev) (a : Nat) (bs : List Byte) : (d.write a bs).time = d.time := rfl
@[simp] theorem Dev.write_slots (d : Dev) (a : Nat) (bs : List Byte) : (d.write a bs).slots = d.slots := rfl
@[simp] theorem Dev.write_jobs (d : Dev) (a : Nat) (bs : List Byte) : (d.write a bs).jobs = d.jobs := rfl
@[simp] theorem Dev.write_crofts (d : Dev) (a : Nat) (bs : List Byte) : (d.write a bs).crofts = d.crofts := rfl
@[simp] theorem Dev.write_cmds (d : Dev) (a : Nat) (bs : List Byte) : (d.write a bs).cmds = d.cmds := rfl
@[simp] theorem Dev.write_nextCmd (d : Dev) (a : Nat) (bs : List Byte) : (d.write a bs).nextCmd = d.nextCmd := rfl
@[simp] theorem Dev.write_queues (d : Dev) (a : Nat) (bs : List Byte) : (d.write a bs).queues = d.queues := rfl
@[simp] theorem Dev.write_units (d : Dev) (a : Nat) (bs : List Byte) : (d.write a bs).units = d.units := rfl
@[simp] theorem Dev.write_mesh (d : Dev) (a : Nat) (bs : List Byte) : (d.write a bs).mesh = d.mesh := rfl
@[simp] theorem Dev.write_pins (d : Dev) (a : Nat) (bs : List Byte) : (d.write a bs).pins = d.pins := rfl
@[simp] theorem Dev.write_power (d : Dev) (a : Nat) (bs : List Byte) : (d.write a bs).power = d.power := rfl
@[simp] theorem Dev.write_boot (d : Dev) (a : Nat) (bs : List Byte) : (d.write a bs).boot = d.boot := rfl
@[simp] theorem Dev.write_test (d : Dev) (a : Nat) (bs : List Byte) : (d.write a bs).test = d.test := rfl
@[simp] theorem Dev.write_well (d : Dev) (a : Nat) (bs : List Byte) : (d.write a bs).well = d.well := rfl
@[simp] theorem Dev.write_tap (d : Dev) (a : Nat) (bs : List Byte) : (d.write a bs).tap = d.tap := rfl
@[simp] theorem Dev.write_fabric (d : Dev) (a : Nat) (bs : List Byte) : (d.write a bs).fabric = d.fabric := rfl
@[simp] theorem Dev.write_hub (d : Dev) (a : Nat) (bs : List Byte) : (d.write a bs).hub = d.hub := rfl
@[simp] theorem Dev.write_settings (d : Dev) (a : Nat) (bs : List Byte) : (d.write a bs).settings = d.settings := rfl
@[simp] theorem Dev.write_live (d : Dev) (a : Nat) (bs : List Byte) : (d.write a bs).live = d.live := rfl
@[simp] theorem Dev.write_shadow (d : Dev) (a : Nat) (bs : List Byte) : (d.write a bs).shadow = d.shadow := rfl
@[simp] theorem Dev.write_bars (d : Dev) (a : Nat) (bs : List Byte) : (d.write a bs).bars = d.bars := rfl
@[simp] theorem Dev.write_signals (d : Dev) (a : Nat) (bs : List Byte) : (d.write a bs).signals = d.signals := rfl
@[simp] theorem Dev.write_sent (d : Dev) (a : Nat) (bs : List Byte) : (d.write a bs).sent = d.sent := rfl
@[simp] theorem Dev.write_logs (d : Dev) (a : Nat) (bs : List Byte) : (d.write a bs).logs = d.logs := rfl
@[simp] theorem Dev.write_mapGen (d : Dev) (a : Nat) (bs : List Byte) : (d.write a bs).mapGen = d.mapGen := rfl
@[simp] theorem Dev.write_irqs (d : Dev) (a : Nat) (bs : List Byte) : (d.write a bs).irqs = d.irqs := rfl
@[simp] theorem Dev.write_freeCount (d : Dev) (a : Nat) (bs : List Byte) : (d.write a bs).freeCount = d.freeCount := rfl

/-! ## `onErrors` -/

@[simp] theorem Dev.onErrors_fuses (d : Dev) (u : Nat) (f : MemErrors → MemErrors) : (d.onErrors u f).fuses = d.fuses := rfl
@[simp] theorem Dev.onErrors_time (d : Dev) (u : Nat) (f : MemErrors → MemErrors) : (d.onErrors u f).time = d.time := rfl
@[simp] theorem Dev.onErrors_slots (d : Dev) (u : Nat) (f : MemErrors → MemErrors) : (d.onErrors u f).slots = d.slots := rfl
@[simp] theorem Dev.onErrors_jobs (d : Dev) (u : Nat) (f : MemErrors → MemErrors) : (d.onErrors u f).jobs = d.jobs := rfl
@[simp] theorem Dev.onErrors_crofts (d : Dev) (u : Nat) (f : MemErrors → MemErrors) : (d.onErrors u f).crofts = d.crofts := rfl
@[simp] theorem Dev.onErrors_cmds (d : Dev) (u : Nat) (f : MemErrors → MemErrors) : (d.onErrors u f).cmds = d.cmds := rfl
@[simp] theorem Dev.onErrors_nextCmd (d : Dev) (u : Nat) (f : MemErrors → MemErrors) : (d.onErrors u f).nextCmd = d.nextCmd := rfl
@[simp] theorem Dev.onErrors_queues (d : Dev) (u : Nat) (f : MemErrors → MemErrors) : (d.onErrors u f).queues = d.queues := rfl
@[simp] theorem Dev.onErrors_mem (d : Dev) (u : Nat) (f : MemErrors → MemErrors) : (d.onErrors u f).mem = d.mem := rfl
@[simp] theorem Dev.onErrors_memPoison (d : Dev) (u : Nat) (f : MemErrors → MemErrors) : (d.onErrors u f).memPoison = d.memPoison := rfl
@[simp] theorem Dev.onErrors_mesh (d : Dev) (u : Nat) (f : MemErrors → MemErrors) : (d.onErrors u f).mesh = d.mesh := rfl
@[simp] theorem Dev.onErrors_pins (d : Dev) (u : Nat) (f : MemErrors → MemErrors) : (d.onErrors u f).pins = d.pins := rfl
@[simp] theorem Dev.onErrors_power (d : Dev) (u : Nat) (f : MemErrors → MemErrors) : (d.onErrors u f).power = d.power := rfl
@[simp] theorem Dev.onErrors_boot (d : Dev) (u : Nat) (f : MemErrors → MemErrors) : (d.onErrors u f).boot = d.boot := rfl
@[simp] theorem Dev.onErrors_test (d : Dev) (u : Nat) (f : MemErrors → MemErrors) : (d.onErrors u f).test = d.test := rfl
@[simp] theorem Dev.onErrors_well (d : Dev) (u : Nat) (f : MemErrors → MemErrors) : (d.onErrors u f).well = d.well := rfl
@[simp] theorem Dev.onErrors_tap (d : Dev) (u : Nat) (f : MemErrors → MemErrors) : (d.onErrors u f).tap = d.tap := rfl
@[simp] theorem Dev.onErrors_fabric (d : Dev) (u : Nat) (f : MemErrors → MemErrors) : (d.onErrors u f).fabric = d.fabric := rfl
@[simp] theorem Dev.onErrors_hub (d : Dev) (u : Nat) (f : MemErrors → MemErrors) : (d.onErrors u f).hub = d.hub := rfl
@[simp] theorem Dev.onErrors_settings (d : Dev) (u : Nat) (f : MemErrors → MemErrors) : (d.onErrors u f).settings = d.settings := rfl
@[simp] theorem Dev.onErrors_live (d : Dev) (u : Nat) (f : MemErrors → MemErrors) : (d.onErrors u f).live = d.live := rfl
@[simp] theorem Dev.onErrors_shadow (d : Dev) (u : Nat) (f : MemErrors → MemErrors) : (d.onErrors u f).shadow = d.shadow := rfl
@[simp] theorem Dev.onErrors_bars (d : Dev) (u : Nat) (f : MemErrors → MemErrors) : (d.onErrors u f).bars = d.bars := rfl
@[simp] theorem Dev.onErrors_signals (d : Dev) (u : Nat) (f : MemErrors → MemErrors) : (d.onErrors u f).signals = d.signals := rfl
@[simp] theorem Dev.onErrors_sent (d : Dev) (u : Nat) (f : MemErrors → MemErrors) : (d.onErrors u f).sent = d.sent := rfl
@[simp] theorem Dev.onErrors_logs (d : Dev) (u : Nat) (f : MemErrors → MemErrors) : (d.onErrors u f).logs = d.logs := rfl
@[simp] theorem Dev.onErrors_mapGen (d : Dev) (u : Nat) (f : MemErrors → MemErrors) : (d.onErrors u f).mapGen = d.mapGen := rfl
@[simp] theorem Dev.onErrors_irqs (d : Dev) (u : Nat) (f : MemErrors → MemErrors) : (d.onErrors u f).irqs = d.irqs := rfl
@[simp] theorem Dev.onErrors_freeCount (d : Dev) (u : Nat) (f : MemErrors → MemErrors) : (d.onErrors u f).freeCount = d.freeCount := rfl

/-! ## `setQueue` -/

@[simp] theorem Dev.setQueue_fuses (d : Dev) (q : Fin 16384) (v : Queue) : (d.setQueue q v).fuses = d.fuses := rfl
@[simp] theorem Dev.setQueue_time (d : Dev) (q : Fin 16384) (v : Queue) : (d.setQueue q v).time = d.time := rfl
@[simp] theorem Dev.setQueue_slots (d : Dev) (q : Fin 16384) (v : Queue) : (d.setQueue q v).slots = d.slots := rfl
@[simp] theorem Dev.setQueue_jobs (d : Dev) (q : Fin 16384) (v : Queue) : (d.setQueue q v).jobs = d.jobs := rfl
@[simp] theorem Dev.setQueue_crofts (d : Dev) (q : Fin 16384) (v : Queue) : (d.setQueue q v).crofts = d.crofts := rfl
@[simp] theorem Dev.setQueue_cmds (d : Dev) (q : Fin 16384) (v : Queue) : (d.setQueue q v).cmds = d.cmds := rfl
@[simp] theorem Dev.setQueue_nextCmd (d : Dev) (q : Fin 16384) (v : Queue) : (d.setQueue q v).nextCmd = d.nextCmd := rfl
@[simp] theorem Dev.setQueue_mem (d : Dev) (q : Fin 16384) (v : Queue) : (d.setQueue q v).mem = d.mem := rfl
@[simp] theorem Dev.setQueue_memPoison (d : Dev) (q : Fin 16384) (v : Queue) : (d.setQueue q v).memPoison = d.memPoison := rfl
@[simp] theorem Dev.setQueue_units (d : Dev) (q : Fin 16384) (v : Queue) : (d.setQueue q v).units = d.units := rfl
@[simp] theorem Dev.setQueue_mesh (d : Dev) (q : Fin 16384) (v : Queue) : (d.setQueue q v).mesh = d.mesh := rfl
@[simp] theorem Dev.setQueue_pins (d : Dev) (q : Fin 16384) (v : Queue) : (d.setQueue q v).pins = d.pins := rfl
@[simp] theorem Dev.setQueue_power (d : Dev) (q : Fin 16384) (v : Queue) : (d.setQueue q v).power = d.power := rfl
@[simp] theorem Dev.setQueue_boot (d : Dev) (q : Fin 16384) (v : Queue) : (d.setQueue q v).boot = d.boot := rfl
@[simp] theorem Dev.setQueue_test (d : Dev) (q : Fin 16384) (v : Queue) : (d.setQueue q v).test = d.test := rfl
@[simp] theorem Dev.setQueue_well (d : Dev) (q : Fin 16384) (v : Queue) : (d.setQueue q v).well = d.well := rfl
@[simp] theorem Dev.setQueue_tap (d : Dev) (q : Fin 16384) (v : Queue) : (d.setQueue q v).tap = d.tap := rfl
@[simp] theorem Dev.setQueue_fabric (d : Dev) (q : Fin 16384) (v : Queue) : (d.setQueue q v).fabric = d.fabric := rfl
@[simp] theorem Dev.setQueue_hub (d : Dev) (q : Fin 16384) (v : Queue) : (d.setQueue q v).hub = d.hub := rfl
@[simp] theorem Dev.setQueue_settings (d : Dev) (q : Fin 16384) (v : Queue) : (d.setQueue q v).settings = d.settings := rfl
@[simp] theorem Dev.setQueue_live (d : Dev) (q : Fin 16384) (v : Queue) : (d.setQueue q v).live = d.live := rfl
@[simp] theorem Dev.setQueue_shadow (d : Dev) (q : Fin 16384) (v : Queue) : (d.setQueue q v).shadow = d.shadow := rfl
@[simp] theorem Dev.setQueue_bars (d : Dev) (q : Fin 16384) (v : Queue) : (d.setQueue q v).bars = d.bars := rfl
@[simp] theorem Dev.setQueue_signals (d : Dev) (q : Fin 16384) (v : Queue) : (d.setQueue q v).signals = d.signals := rfl
@[simp] theorem Dev.setQueue_sent (d : Dev) (q : Fin 16384) (v : Queue) : (d.setQueue q v).sent = d.sent := rfl
@[simp] theorem Dev.setQueue_logs (d : Dev) (q : Fin 16384) (v : Queue) : (d.setQueue q v).logs = d.logs := rfl
@[simp] theorem Dev.setQueue_mapGen (d : Dev) (q : Fin 16384) (v : Queue) : (d.setQueue q v).mapGen = d.mapGen := rfl
@[simp] theorem Dev.setQueue_irqs (d : Dev) (q : Fin 16384) (v : Queue) : (d.setQueue q v).irqs = d.irqs := rfl
@[simp] theorem Dev.setQueue_freeCount (d : Dev) (q : Fin 16384) (v : Queue) : (d.setQueue q v).freeCount = d.freeCount := rfl

/-! ## `onCmd` -/

@[simp] theorem Dev.onCmd_fuses (d : Dev) (id : Nat) (f : Cmd → Cmd) : (d.onCmd id f).fuses = d.fuses := rfl
@[simp] theorem Dev.onCmd_time (d : Dev) (id : Nat) (f : Cmd → Cmd) : (d.onCmd id f).time = d.time := rfl
@[simp] theorem Dev.onCmd_slots (d : Dev) (id : Nat) (f : Cmd → Cmd) : (d.onCmd id f).slots = d.slots := rfl
@[simp] theorem Dev.onCmd_jobs (d : Dev) (id : Nat) (f : Cmd → Cmd) : (d.onCmd id f).jobs = d.jobs := rfl
@[simp] theorem Dev.onCmd_crofts (d : Dev) (id : Nat) (f : Cmd → Cmd) : (d.onCmd id f).crofts = d.crofts := rfl
@[simp] theorem Dev.onCmd_nextCmd (d : Dev) (id : Nat) (f : Cmd → Cmd) : (d.onCmd id f).nextCmd = d.nextCmd := rfl
@[simp] theorem Dev.onCmd_queues (d : Dev) (id : Nat) (f : Cmd → Cmd) : (d.onCmd id f).queues = d.queues := rfl
@[simp] theorem Dev.onCmd_mem (d : Dev) (id : Nat) (f : Cmd → Cmd) : (d.onCmd id f).mem = d.mem := rfl
@[simp] theorem Dev.onCmd_memPoison (d : Dev) (id : Nat) (f : Cmd → Cmd) : (d.onCmd id f).memPoison = d.memPoison := rfl
@[simp] theorem Dev.onCmd_units (d : Dev) (id : Nat) (f : Cmd → Cmd) : (d.onCmd id f).units = d.units := rfl
@[simp] theorem Dev.onCmd_mesh (d : Dev) (id : Nat) (f : Cmd → Cmd) : (d.onCmd id f).mesh = d.mesh := rfl
@[simp] theorem Dev.onCmd_pins (d : Dev) (id : Nat) (f : Cmd → Cmd) : (d.onCmd id f).pins = d.pins := rfl
@[simp] theorem Dev.onCmd_power (d : Dev) (id : Nat) (f : Cmd → Cmd) : (d.onCmd id f).power = d.power := rfl
@[simp] theorem Dev.onCmd_boot (d : Dev) (id : Nat) (f : Cmd → Cmd) : (d.onCmd id f).boot = d.boot := rfl
@[simp] theorem Dev.onCmd_test (d : Dev) (id : Nat) (f : Cmd → Cmd) : (d.onCmd id f).test = d.test := rfl
@[simp] theorem Dev.onCmd_well (d : Dev) (id : Nat) (f : Cmd → Cmd) : (d.onCmd id f).well = d.well := rfl
@[simp] theorem Dev.onCmd_tap (d : Dev) (id : Nat) (f : Cmd → Cmd) : (d.onCmd id f).tap = d.tap := rfl
@[simp] theorem Dev.onCmd_fabric (d : Dev) (id : Nat) (f : Cmd → Cmd) : (d.onCmd id f).fabric = d.fabric := rfl
@[simp] theorem Dev.onCmd_hub (d : Dev) (id : Nat) (f : Cmd → Cmd) : (d.onCmd id f).hub = d.hub := rfl
@[simp] theorem Dev.onCmd_settings (d : Dev) (id : Nat) (f : Cmd → Cmd) : (d.onCmd id f).settings = d.settings := rfl
@[simp] theorem Dev.onCmd_live (d : Dev) (id : Nat) (f : Cmd → Cmd) : (d.onCmd id f).live = d.live := rfl
@[simp] theorem Dev.onCmd_shadow (d : Dev) (id : Nat) (f : Cmd → Cmd) : (d.onCmd id f).shadow = d.shadow := rfl
@[simp] theorem Dev.onCmd_bars (d : Dev) (id : Nat) (f : Cmd → Cmd) : (d.onCmd id f).bars = d.bars := rfl
@[simp] theorem Dev.onCmd_signals (d : Dev) (id : Nat) (f : Cmd → Cmd) : (d.onCmd id f).signals = d.signals := rfl
@[simp] theorem Dev.onCmd_sent (d : Dev) (id : Nat) (f : Cmd → Cmd) : (d.onCmd id f).sent = d.sent := rfl
@[simp] theorem Dev.onCmd_logs (d : Dev) (id : Nat) (f : Cmd → Cmd) : (d.onCmd id f).logs = d.logs := rfl
@[simp] theorem Dev.onCmd_mapGen (d : Dev) (id : Nat) (f : Cmd → Cmd) : (d.onCmd id f).mapGen = d.mapGen := rfl
@[simp] theorem Dev.onCmd_irqs (d : Dev) (id : Nat) (f : Cmd → Cmd) : (d.onCmd id f).irqs = d.irqs := rfl
@[simp] theorem Dev.onCmd_freeCount (d : Dev) (id : Nat) (f : Cmd → Cmd) : (d.onCmd id f).freeCount = d.freeCount := rfl

/-! ## `onPort` -/

@[simp] theorem Dev.onPort_fuses (d : Dev) (p : Nat) (f : Port → Port) : (d.onPort p f).fuses = d.fuses := rfl
@[simp] theorem Dev.onPort_time (d : Dev) (p : Nat) (f : Port → Port) : (d.onPort p f).time = d.time := rfl
@[simp] theorem Dev.onPort_slots (d : Dev) (p : Nat) (f : Port → Port) : (d.onPort p f).slots = d.slots := rfl
@[simp] theorem Dev.onPort_jobs (d : Dev) (p : Nat) (f : Port → Port) : (d.onPort p f).jobs = d.jobs := rfl
@[simp] theorem Dev.onPort_crofts (d : Dev) (p : Nat) (f : Port → Port) : (d.onPort p f).crofts = d.crofts := rfl
@[simp] theorem Dev.onPort_cmds (d : Dev) (p : Nat) (f : Port → Port) : (d.onPort p f).cmds = d.cmds := rfl
@[simp] theorem Dev.onPort_nextCmd (d : Dev) (p : Nat) (f : Port → Port) : (d.onPort p f).nextCmd = d.nextCmd := rfl
@[simp] theorem Dev.onPort_queues (d : Dev) (p : Nat) (f : Port → Port) : (d.onPort p f).queues = d.queues := rfl
@[simp] theorem Dev.onPort_mem (d : Dev) (p : Nat) (f : Port → Port) : (d.onPort p f).mem = d.mem := rfl
@[simp] theorem Dev.onPort_memPoison (d : Dev) (p : Nat) (f : Port → Port) : (d.onPort p f).memPoison = d.memPoison := rfl
@[simp] theorem Dev.onPort_units (d : Dev) (p : Nat) (f : Port → Port) : (d.onPort p f).units = d.units := rfl
@[simp] theorem Dev.onPort_mesh (d : Dev) (p : Nat) (f : Port → Port) : (d.onPort p f).mesh = d.mesh := rfl
@[simp] theorem Dev.onPort_pins (d : Dev) (p : Nat) (f : Port → Port) : (d.onPort p f).pins = d.pins := rfl
@[simp] theorem Dev.onPort_power (d : Dev) (p : Nat) (f : Port → Port) : (d.onPort p f).power = d.power := rfl
@[simp] theorem Dev.onPort_boot (d : Dev) (p : Nat) (f : Port → Port) : (d.onPort p f).boot = d.boot := rfl
@[simp] theorem Dev.onPort_test (d : Dev) (p : Nat) (f : Port → Port) : (d.onPort p f).test = d.test := rfl
@[simp] theorem Dev.onPort_well (d : Dev) (p : Nat) (f : Port → Port) : (d.onPort p f).well = d.well := rfl
@[simp] theorem Dev.onPort_tap (d : Dev) (p : Nat) (f : Port → Port) : (d.onPort p f).tap = d.tap := rfl
@[simp] theorem Dev.onPort_hub (d : Dev) (p : Nat) (f : Port → Port) : (d.onPort p f).hub = d.hub := rfl
@[simp] theorem Dev.onPort_settings (d : Dev) (p : Nat) (f : Port → Port) : (d.onPort p f).settings = d.settings := rfl
@[simp] theorem Dev.onPort_live (d : Dev) (p : Nat) (f : Port → Port) : (d.onPort p f).live = d.live := rfl
@[simp] theorem Dev.onPort_shadow (d : Dev) (p : Nat) (f : Port → Port) : (d.onPort p f).shadow = d.shadow := rfl
@[simp] theorem Dev.onPort_bars (d : Dev) (p : Nat) (f : Port → Port) : (d.onPort p f).bars = d.bars := rfl
@[simp] theorem Dev.onPort_signals (d : Dev) (p : Nat) (f : Port → Port) : (d.onPort p f).signals = d.signals := rfl
@[simp] theorem Dev.onPort_sent (d : Dev) (p : Nat) (f : Port → Port) : (d.onPort p f).sent = d.sent := rfl
@[simp] theorem Dev.onPort_logs (d : Dev) (p : Nat) (f : Port → Port) : (d.onPort p f).logs = d.logs := rfl
@[simp] theorem Dev.onPort_mapGen (d : Dev) (p : Nat) (f : Port → Port) : (d.onPort p f).mapGen = d.mapGen := rfl
@[simp] theorem Dev.onPort_irqs (d : Dev) (p : Nat) (f : Port → Port) : (d.onPort p f).irqs = d.irqs := rfl
@[simp] theorem Dev.onPort_freeCount (d : Dev) (p : Nat) (f : Port → Port) : (d.onPort p f).freeCount = d.freeCount := rfl

/-! ## `onPower` -/

@[simp] theorem Dev.onPower_fuses (d : Dev) (f : Power → Power) : (d.onPower f).fuses = d.fuses := rfl
@[simp] theorem Dev.onPower_time (d : Dev) (f : Power → Power) : (d.onPower f).time = d.time := rfl
@[simp] theorem Dev.onPower_slots (d : Dev) (f : Power → Power) : (d.onPower f).slots = d.slots := rfl
@[simp] theorem Dev.onPower_jobs (d : Dev) (f : Power → Power) : (d.onPower f).jobs = d.jobs := rfl
@[simp] theorem Dev.onPower_crofts (d : Dev) (f : Power → Power) : (d.onPower f).crofts = d.crofts := rfl
@[simp] theorem Dev.onPower_cmds (d : Dev) (f : Power → Power) : (d.onPower f).cmds = d.cmds := rfl
@[simp] theorem Dev.onPower_nextCmd (d : Dev) (f : Power → Power) : (d.onPower f).nextCmd = d.nextCmd := rfl
@[simp] theorem Dev.onPower_queues (d : Dev) (f : Power → Power) : (d.onPower f).queues = d.queues := rfl
@[simp] theorem Dev.onPower_mem (d : Dev) (f : Power → Power) : (d.onPower f).mem = d.mem := rfl
@[simp] theorem Dev.onPower_memPoison (d : Dev) (f : Power → Power) : (d.onPower f).memPoison = d.memPoison := rfl
@[simp] theorem Dev.onPower_units (d : Dev) (f : Power → Power) : (d.onPower f).units = d.units := rfl
@[simp] theorem Dev.onPower_mesh (d : Dev) (f : Power → Power) : (d.onPower f).mesh = d.mesh := rfl
@[simp] theorem Dev.onPower_pins (d : Dev) (f : Power → Power) : (d.onPower f).pins = d.pins := rfl
@[simp] theorem Dev.onPower_boot (d : Dev) (f : Power → Power) : (d.onPower f).boot = d.boot := rfl
@[simp] theorem Dev.onPower_test (d : Dev) (f : Power → Power) : (d.onPower f).test = d.test := rfl
@[simp] theorem Dev.onPower_well (d : Dev) (f : Power → Power) : (d.onPower f).well = d.well := rfl
@[simp] theorem Dev.onPower_tap (d : Dev) (f : Power → Power) : (d.onPower f).tap = d.tap := rfl
@[simp] theorem Dev.onPower_fabric (d : Dev) (f : Power → Power) : (d.onPower f).fabric = d.fabric := rfl
@[simp] theorem Dev.onPower_hub (d : Dev) (f : Power → Power) : (d.onPower f).hub = d.hub := rfl
@[simp] theorem Dev.onPower_settings (d : Dev) (f : Power → Power) : (d.onPower f).settings = d.settings := rfl
@[simp] theorem Dev.onPower_live (d : Dev) (f : Power → Power) : (d.onPower f).live = d.live := rfl
@[simp] theorem Dev.onPower_shadow (d : Dev) (f : Power → Power) : (d.onPower f).shadow = d.shadow := rfl
@[simp] theorem Dev.onPower_bars (d : Dev) (f : Power → Power) : (d.onPower f).bars = d.bars := rfl
@[simp] theorem Dev.onPower_signals (d : Dev) (f : Power → Power) : (d.onPower f).signals = d.signals := rfl
@[simp] theorem Dev.onPower_sent (d : Dev) (f : Power → Power) : (d.onPower f).sent = d.sent := rfl
@[simp] theorem Dev.onPower_logs (d : Dev) (f : Power → Power) : (d.onPower f).logs = d.logs := rfl
@[simp] theorem Dev.onPower_mapGen (d : Dev) (f : Power → Power) : (d.onPower f).mapGen = d.mapGen := rfl
@[simp] theorem Dev.onPower_irqs (d : Dev) (f : Power → Power) : (d.onPower f).irqs = d.irqs := rfl
@[simp] theorem Dev.onPower_freeCount (d : Dev) (f : Power → Power) : (d.onPower f).freeCount = d.freeCount := rfl

/-! ## `onWell` -/

@[simp] theorem Dev.onWell_fuses (d : Dev) (f : Well → Well) : (d.onWell f).fuses = d.fuses := rfl
@[simp] theorem Dev.onWell_time (d : Dev) (f : Well → Well) : (d.onWell f).time = d.time := rfl
@[simp] theorem Dev.onWell_slots (d : Dev) (f : Well → Well) : (d.onWell f).slots = d.slots := rfl
@[simp] theorem Dev.onWell_jobs (d : Dev) (f : Well → Well) : (d.onWell f).jobs = d.jobs := rfl
@[simp] theorem Dev.onWell_crofts (d : Dev) (f : Well → Well) : (d.onWell f).crofts = d.crofts := rfl
@[simp] theorem Dev.onWell_cmds (d : Dev) (f : Well → Well) : (d.onWell f).cmds = d.cmds := rfl
@[simp] theorem Dev.onWell_nextCmd (d : Dev) (f : Well → Well) : (d.onWell f).nextCmd = d.nextCmd := rfl
@[simp] theorem Dev.onWell_queues (d : Dev) (f : Well → Well) : (d.onWell f).queues = d.queues := rfl
@[simp] theorem Dev.onWell_mem (d : Dev) (f : Well → Well) : (d.onWell f).mem = d.mem := rfl
@[simp] theorem Dev.onWell_memPoison (d : Dev) (f : Well → Well) : (d.onWell f).memPoison = d.memPoison := rfl
@[simp] theorem Dev.onWell_units (d : Dev) (f : Well → Well) : (d.onWell f).units = d.units := rfl
@[simp] theorem Dev.onWell_mesh (d : Dev) (f : Well → Well) : (d.onWell f).mesh = d.mesh := rfl
@[simp] theorem Dev.onWell_pins (d : Dev) (f : Well → Well) : (d.onWell f).pins = d.pins := rfl
@[simp] theorem Dev.onWell_power (d : Dev) (f : Well → Well) : (d.onWell f).power = d.power := rfl
@[simp] theorem Dev.onWell_boot (d : Dev) (f : Well → Well) : (d.onWell f).boot = d.boot := rfl
@[simp] theorem Dev.onWell_test (d : Dev) (f : Well → Well) : (d.onWell f).test = d.test := rfl
@[simp] theorem Dev.onWell_tap (d : Dev) (f : Well → Well) : (d.onWell f).tap = d.tap := rfl
@[simp] theorem Dev.onWell_fabric (d : Dev) (f : Well → Well) : (d.onWell f).fabric = d.fabric := rfl
@[simp] theorem Dev.onWell_hub (d : Dev) (f : Well → Well) : (d.onWell f).hub = d.hub := rfl
@[simp] theorem Dev.onWell_settings (d : Dev) (f : Well → Well) : (d.onWell f).settings = d.settings := rfl
@[simp] theorem Dev.onWell_live (d : Dev) (f : Well → Well) : (d.onWell f).live = d.live := rfl
@[simp] theorem Dev.onWell_shadow (d : Dev) (f : Well → Well) : (d.onWell f).shadow = d.shadow := rfl
@[simp] theorem Dev.onWell_bars (d : Dev) (f : Well → Well) : (d.onWell f).bars = d.bars := rfl
@[simp] theorem Dev.onWell_signals (d : Dev) (f : Well → Well) : (d.onWell f).signals = d.signals := rfl
@[simp] theorem Dev.onWell_sent (d : Dev) (f : Well → Well) : (d.onWell f).sent = d.sent := rfl
@[simp] theorem Dev.onWell_logs (d : Dev) (f : Well → Well) : (d.onWell f).logs = d.logs := rfl
@[simp] theorem Dev.onWell_mapGen (d : Dev) (f : Well → Well) : (d.onWell f).mapGen = d.mapGen := rfl
@[simp] theorem Dev.onWell_irqs (d : Dev) (f : Well → Well) : (d.onWell f).irqs = d.irqs := rfl
@[simp] theorem Dev.onWell_freeCount (d : Dev) (f : Well → Well) : (d.onWell f).freeCount = d.freeCount := rfl

/-! ## `onSettings` -/

@[simp] theorem Dev.onSettings_fuses (d : Dev) (f : Settings → Settings) : (d.onSettings f).fuses = d.fuses := rfl
@[simp] theorem Dev.onSettings_time (d : Dev) (f : Settings → Settings) : (d.onSettings f).time = d.time := rfl
@[simp] theorem Dev.onSettings_slots (d : Dev) (f : Settings → Settings) : (d.onSettings f).slots = d.slots := rfl
@[simp] theorem Dev.onSettings_jobs (d : Dev) (f : Settings → Settings) : (d.onSettings f).jobs = d.jobs := rfl
@[simp] theorem Dev.onSettings_crofts (d : Dev) (f : Settings → Settings) : (d.onSettings f).crofts = d.crofts := rfl
@[simp] theorem Dev.onSettings_cmds (d : Dev) (f : Settings → Settings) : (d.onSettings f).cmds = d.cmds := rfl
@[simp] theorem Dev.onSettings_nextCmd (d : Dev) (f : Settings → Settings) : (d.onSettings f).nextCmd = d.nextCmd := rfl
@[simp] theorem Dev.onSettings_queues (d : Dev) (f : Settings → Settings) : (d.onSettings f).queues = d.queues := rfl
@[simp] theorem Dev.onSettings_mem (d : Dev) (f : Settings → Settings) : (d.onSettings f).mem = d.mem := rfl
@[simp] theorem Dev.onSettings_memPoison (d : Dev) (f : Settings → Settings) : (d.onSettings f).memPoison = d.memPoison := rfl
@[simp] theorem Dev.onSettings_units (d : Dev) (f : Settings → Settings) : (d.onSettings f).units = d.units := rfl
@[simp] theorem Dev.onSettings_mesh (d : Dev) (f : Settings → Settings) : (d.onSettings f).mesh = d.mesh := rfl
@[simp] theorem Dev.onSettings_pins (d : Dev) (f : Settings → Settings) : (d.onSettings f).pins = d.pins := rfl
@[simp] theorem Dev.onSettings_power (d : Dev) (f : Settings → Settings) : (d.onSettings f).power = d.power := rfl
@[simp] theorem Dev.onSettings_boot (d : Dev) (f : Settings → Settings) : (d.onSettings f).boot = d.boot := rfl
@[simp] theorem Dev.onSettings_test (d : Dev) (f : Settings → Settings) : (d.onSettings f).test = d.test := rfl
@[simp] theorem Dev.onSettings_well (d : Dev) (f : Settings → Settings) : (d.onSettings f).well = d.well := rfl
@[simp] theorem Dev.onSettings_tap (d : Dev) (f : Settings → Settings) : (d.onSettings f).tap = d.tap := rfl
@[simp] theorem Dev.onSettings_fabric (d : Dev) (f : Settings → Settings) : (d.onSettings f).fabric = d.fabric := rfl
@[simp] theorem Dev.onSettings_hub (d : Dev) (f : Settings → Settings) : (d.onSettings f).hub = d.hub := rfl
@[simp] theorem Dev.onSettings_live (d : Dev) (f : Settings → Settings) : (d.onSettings f).live = d.live := rfl
@[simp] theorem Dev.onSettings_shadow (d : Dev) (f : Settings → Settings) : (d.onSettings f).shadow = d.shadow := rfl
@[simp] theorem Dev.onSettings_bars (d : Dev) (f : Settings → Settings) : (d.onSettings f).bars = d.bars := rfl
@[simp] theorem Dev.onSettings_signals (d : Dev) (f : Settings → Settings) : (d.onSettings f).signals = d.signals := rfl
@[simp] theorem Dev.onSettings_sent (d : Dev) (f : Settings → Settings) : (d.onSettings f).sent = d.sent := rfl
@[simp] theorem Dev.onSettings_logs (d : Dev) (f : Settings → Settings) : (d.onSettings f).logs = d.logs := rfl
@[simp] theorem Dev.onSettings_mapGen (d : Dev) (f : Settings → Settings) : (d.onSettings f).mapGen = d.mapGen := rfl
@[simp] theorem Dev.onSettings_irqs (d : Dev) (f : Settings → Settings) : (d.onSettings f).irqs = d.irqs := rfl
@[simp] theorem Dev.onSettings_freeCount (d : Dev) (f : Settings → Settings) : (d.onSettings f).freeCount = d.freeCount := rfl

/-! ## `onShadow` -/

@[simp] theorem Dev.onShadow_fuses (d : Dev) (f : Staged → Staged) : (d.onShadow f).fuses = d.fuses := rfl
@[simp] theorem Dev.onShadow_time (d : Dev) (f : Staged → Staged) : (d.onShadow f).time = d.time := rfl
@[simp] theorem Dev.onShadow_slots (d : Dev) (f : Staged → Staged) : (d.onShadow f).slots = d.slots := rfl
@[simp] theorem Dev.onShadow_jobs (d : Dev) (f : Staged → Staged) : (d.onShadow f).jobs = d.jobs := rfl
@[simp] theorem Dev.onShadow_crofts (d : Dev) (f : Staged → Staged) : (d.onShadow f).crofts = d.crofts := rfl
@[simp] theorem Dev.onShadow_cmds (d : Dev) (f : Staged → Staged) : (d.onShadow f).cmds = d.cmds := rfl
@[simp] theorem Dev.onShadow_nextCmd (d : Dev) (f : Staged → Staged) : (d.onShadow f).nextCmd = d.nextCmd := rfl
@[simp] theorem Dev.onShadow_queues (d : Dev) (f : Staged → Staged) : (d.onShadow f).queues = d.queues := rfl
@[simp] theorem Dev.onShadow_mem (d : Dev) (f : Staged → Staged) : (d.onShadow f).mem = d.mem := rfl
@[simp] theorem Dev.onShadow_memPoison (d : Dev) (f : Staged → Staged) : (d.onShadow f).memPoison = d.memPoison := rfl
@[simp] theorem Dev.onShadow_units (d : Dev) (f : Staged → Staged) : (d.onShadow f).units = d.units := rfl
@[simp] theorem Dev.onShadow_mesh (d : Dev) (f : Staged → Staged) : (d.onShadow f).mesh = d.mesh := rfl
@[simp] theorem Dev.onShadow_pins (d : Dev) (f : Staged → Staged) : (d.onShadow f).pins = d.pins := rfl
@[simp] theorem Dev.onShadow_power (d : Dev) (f : Staged → Staged) : (d.onShadow f).power = d.power := rfl
@[simp] theorem Dev.onShadow_boot (d : Dev) (f : Staged → Staged) : (d.onShadow f).boot = d.boot := rfl
@[simp] theorem Dev.onShadow_test (d : Dev) (f : Staged → Staged) : (d.onShadow f).test = d.test := rfl
@[simp] theorem Dev.onShadow_well (d : Dev) (f : Staged → Staged) : (d.onShadow f).well = d.well := rfl
@[simp] theorem Dev.onShadow_tap (d : Dev) (f : Staged → Staged) : (d.onShadow f).tap = d.tap := rfl
@[simp] theorem Dev.onShadow_fabric (d : Dev) (f : Staged → Staged) : (d.onShadow f).fabric = d.fabric := rfl
@[simp] theorem Dev.onShadow_hub (d : Dev) (f : Staged → Staged) : (d.onShadow f).hub = d.hub := rfl
@[simp] theorem Dev.onShadow_settings (d : Dev) (f : Staged → Staged) : (d.onShadow f).settings = d.settings := rfl
@[simp] theorem Dev.onShadow_live (d : Dev) (f : Staged → Staged) : (d.onShadow f).live = d.live := rfl
@[simp] theorem Dev.onShadow_bars (d : Dev) (f : Staged → Staged) : (d.onShadow f).bars = d.bars := rfl
@[simp] theorem Dev.onShadow_signals (d : Dev) (f : Staged → Staged) : (d.onShadow f).signals = d.signals := rfl
@[simp] theorem Dev.onShadow_sent (d : Dev) (f : Staged → Staged) : (d.onShadow f).sent = d.sent := rfl
@[simp] theorem Dev.onShadow_logs (d : Dev) (f : Staged → Staged) : (d.onShadow f).logs = d.logs := rfl
@[simp] theorem Dev.onShadow_mapGen (d : Dev) (f : Staged → Staged) : (d.onShadow f).mapGen = d.mapGen := rfl
@[simp] theorem Dev.onShadow_irqs (d : Dev) (f : Staged → Staged) : (d.onShadow f).irqs = d.irqs := rfl
@[simp] theorem Dev.onShadow_freeCount (d : Dev) (f : Staged → Staged) : (d.onShadow f).freeCount = d.freeCount := rfl

/-! ## `thereAndBack` -/

@[simp] theorem Dev.thereAndBack_fuses (d : Dev) (index sub : Nat) : (d.thereAndBack index sub).fuses = d.fuses := rfl
@[simp] theorem Dev.thereAndBack_time (d : Dev) (index sub : Nat) : (d.thereAndBack index sub).time = d.time := rfl
@[simp] theorem Dev.thereAndBack_slots (d : Dev) (index sub : Nat) : (d.thereAndBack index sub).slots = d.slots := rfl
@[simp] theorem Dev.thereAndBack_jobs (d : Dev) (index sub : Nat) : (d.thereAndBack index sub).jobs = d.jobs := rfl
@[simp] theorem Dev.thereAndBack_crofts (d : Dev) (index sub : Nat) : (d.thereAndBack index sub).crofts = d.crofts := rfl
@[simp] theorem Dev.thereAndBack_cmds (d : Dev) (index sub : Nat) : (d.thereAndBack index sub).cmds = d.cmds := rfl
@[simp] theorem Dev.thereAndBack_nextCmd (d : Dev) (index sub : Nat) : (d.thereAndBack index sub).nextCmd = d.nextCmd := rfl
@[simp] theorem Dev.thereAndBack_queues (d : Dev) (index sub : Nat) : (d.thereAndBack index sub).queues = d.queues := rfl
@[simp] theorem Dev.thereAndBack_mem (d : Dev) (index sub : Nat) : (d.thereAndBack index sub).mem = d.mem := rfl
@[simp] theorem Dev.thereAndBack_memPoison (d : Dev) (index sub : Nat) : (d.thereAndBack index sub).memPoison = d.memPoison := rfl
@[simp] theorem Dev.thereAndBack_units (d : Dev) (index sub : Nat) : (d.thereAndBack index sub).units = d.units := rfl
@[simp] theorem Dev.thereAndBack_mesh (d : Dev) (index sub : Nat) : (d.thereAndBack index sub).mesh = d.mesh := rfl
@[simp] theorem Dev.thereAndBack_pins (d : Dev) (index sub : Nat) : (d.thereAndBack index sub).pins = d.pins := rfl
@[simp] theorem Dev.thereAndBack_power (d : Dev) (index sub : Nat) : (d.thereAndBack index sub).power = d.power := rfl
@[simp] theorem Dev.thereAndBack_boot (d : Dev) (index sub : Nat) : (d.thereAndBack index sub).boot = d.boot := rfl
@[simp] theorem Dev.thereAndBack_test (d : Dev) (index sub : Nat) : (d.thereAndBack index sub).test = d.test := rfl
@[simp] theorem Dev.thereAndBack_well (d : Dev) (index sub : Nat) : (d.thereAndBack index sub).well = d.well := rfl
@[simp] theorem Dev.thereAndBack_tap (d : Dev) (index sub : Nat) : (d.thereAndBack index sub).tap = d.tap := rfl
@[simp] theorem Dev.thereAndBack_fabric (d : Dev) (index sub : Nat) : (d.thereAndBack index sub).fabric = d.fabric := rfl
@[simp] theorem Dev.thereAndBack_settings (d : Dev) (index sub : Nat) : (d.thereAndBack index sub).settings = d.settings := rfl
@[simp] theorem Dev.thereAndBack_live (d : Dev) (index sub : Nat) : (d.thereAndBack index sub).live = d.live := rfl
@[simp] theorem Dev.thereAndBack_shadow (d : Dev) (index sub : Nat) : (d.thereAndBack index sub).shadow = d.shadow := rfl
@[simp] theorem Dev.thereAndBack_bars (d : Dev) (index sub : Nat) : (d.thereAndBack index sub).bars = d.bars := rfl
@[simp] theorem Dev.thereAndBack_signals (d : Dev) (index sub : Nat) : (d.thereAndBack index sub).signals = d.signals := rfl
@[simp] theorem Dev.thereAndBack_sent (d : Dev) (index sub : Nat) : (d.thereAndBack index sub).sent = d.sent := rfl
@[simp] theorem Dev.thereAndBack_logs (d : Dev) (index sub : Nat) : (d.thereAndBack index sub).logs = d.logs := rfl
@[simp] theorem Dev.thereAndBack_mapGen (d : Dev) (index sub : Nat) : (d.thereAndBack index sub).mapGen = d.mapGen := rfl
@[simp] theorem Dev.thereAndBack_irqs (d : Dev) (index sub : Nat) : (d.thereAndBack index sub).irqs = d.irqs := rfl
@[simp] theorem Dev.thereAndBack_freeCount (d : Dev) (index sub : Nat) : (d.thereAndBack index sub).freeCount = d.freeCount := rfl

/-! ## `eventNamedWith` -/

@[simp] theorem Dev.eventNamedWith_fuses (d : Dev) (e : Config.NamedEvent) (kind source : Nat) (detail : Word64) : (d.eventNamedWith e kind source detail).fuses = d.fuses := rfl
@[simp] theorem Dev.eventNamedWith_time (d : Dev) (e : Config.NamedEvent) (kind source : Nat) (detail : Word64) : (d.eventNamedWith e kind source detail).time = d.time := rfl
@[simp] theorem Dev.eventNamedWith_slots (d : Dev) (e : Config.NamedEvent) (kind source : Nat) (detail : Word64) : (d.eventNamedWith e kind source detail).slots = d.slots := rfl
@[simp] theorem Dev.eventNamedWith_jobs (d : Dev) (e : Config.NamedEvent) (kind source : Nat) (detail : Word64) : (d.eventNamedWith e kind source detail).jobs = d.jobs := rfl
@[simp] theorem Dev.eventNamedWith_crofts (d : Dev) (e : Config.NamedEvent) (kind source : Nat) (detail : Word64) : (d.eventNamedWith e kind source detail).crofts = d.crofts := rfl
@[simp] theorem Dev.eventNamedWith_cmds (d : Dev) (e : Config.NamedEvent) (kind source : Nat) (detail : Word64) : (d.eventNamedWith e kind source detail).cmds = d.cmds := rfl
@[simp] theorem Dev.eventNamedWith_nextCmd (d : Dev) (e : Config.NamedEvent) (kind source : Nat) (detail : Word64) : (d.eventNamedWith e kind source detail).nextCmd = d.nextCmd := rfl
@[simp] theorem Dev.eventNamedWith_queues (d : Dev) (e : Config.NamedEvent) (kind source : Nat) (detail : Word64) : (d.eventNamedWith e kind source detail).queues = d.queues := rfl
@[simp] theorem Dev.eventNamedWith_mem (d : Dev) (e : Config.NamedEvent) (kind source : Nat) (detail : Word64) : (d.eventNamedWith e kind source detail).mem = d.mem := rfl
@[simp] theorem Dev.eventNamedWith_memPoison (d : Dev) (e : Config.NamedEvent) (kind source : Nat) (detail : Word64) : (d.eventNamedWith e kind source detail).memPoison = d.memPoison := rfl
@[simp] theorem Dev.eventNamedWith_units (d : Dev) (e : Config.NamedEvent) (kind source : Nat) (detail : Word64) : (d.eventNamedWith e kind source detail).units = d.units := rfl
@[simp] theorem Dev.eventNamedWith_mesh (d : Dev) (e : Config.NamedEvent) (kind source : Nat) (detail : Word64) : (d.eventNamedWith e kind source detail).mesh = d.mesh := rfl
@[simp] theorem Dev.eventNamedWith_pins (d : Dev) (e : Config.NamedEvent) (kind source : Nat) (detail : Word64) : (d.eventNamedWith e kind source detail).pins = d.pins := rfl
@[simp] theorem Dev.eventNamedWith_power (d : Dev) (e : Config.NamedEvent) (kind source : Nat) (detail : Word64) : (d.eventNamedWith e kind source detail).power = d.power := rfl
@[simp] theorem Dev.eventNamedWith_boot (d : Dev) (e : Config.NamedEvent) (kind source : Nat) (detail : Word64) : (d.eventNamedWith e kind source detail).boot = d.boot := rfl
@[simp] theorem Dev.eventNamedWith_test (d : Dev) (e : Config.NamedEvent) (kind source : Nat) (detail : Word64) : (d.eventNamedWith e kind source detail).test = d.test := rfl
@[simp] theorem Dev.eventNamedWith_well (d : Dev) (e : Config.NamedEvent) (kind source : Nat) (detail : Word64) : (d.eventNamedWith e kind source detail).well = d.well := rfl
@[simp] theorem Dev.eventNamedWith_tap (d : Dev) (e : Config.NamedEvent) (kind source : Nat) (detail : Word64) : (d.eventNamedWith e kind source detail).tap = d.tap := rfl
@[simp] theorem Dev.eventNamedWith_fabric (d : Dev) (e : Config.NamedEvent) (kind source : Nat) (detail : Word64) : (d.eventNamedWith e kind source detail).fabric = d.fabric := rfl
@[simp] theorem Dev.eventNamedWith_hub (d : Dev) (e : Config.NamedEvent) (kind source : Nat) (detail : Word64) : (d.eventNamedWith e kind source detail).hub = d.hub := rfl
@[simp] theorem Dev.eventNamedWith_settings (d : Dev) (e : Config.NamedEvent) (kind source : Nat) (detail : Word64) : (d.eventNamedWith e kind source detail).settings = d.settings := rfl
@[simp] theorem Dev.eventNamedWith_live (d : Dev) (e : Config.NamedEvent) (kind source : Nat) (detail : Word64) : (d.eventNamedWith e kind source detail).live = d.live := rfl
@[simp] theorem Dev.eventNamedWith_shadow (d : Dev) (e : Config.NamedEvent) (kind source : Nat) (detail : Word64) : (d.eventNamedWith e kind source detail).shadow = d.shadow := rfl
@[simp] theorem Dev.eventNamedWith_bars (d : Dev) (e : Config.NamedEvent) (kind source : Nat) (detail : Word64) : (d.eventNamedWith e kind source detail).bars = d.bars := rfl
@[simp] theorem Dev.eventNamedWith_signals (d : Dev) (e : Config.NamedEvent) (kind source : Nat) (detail : Word64) : (d.eventNamedWith e kind source detail).signals = d.signals := rfl
@[simp] theorem Dev.eventNamedWith_sent (d : Dev) (e : Config.NamedEvent) (kind source : Nat) (detail : Word64) : (d.eventNamedWith e kind source detail).sent = d.sent := rfl
@[simp] theorem Dev.eventNamedWith_mapGen (d : Dev) (e : Config.NamedEvent) (kind source : Nat) (detail : Word64) : (d.eventNamedWith e kind source detail).mapGen = d.mapGen := rfl
@[simp] theorem Dev.eventNamedWith_irqs (d : Dev) (e : Config.NamedEvent) (kind source : Nat) (detail : Word64) : (d.eventNamedWith e kind source detail).irqs = d.irqs := rfl
@[simp] theorem Dev.eventNamedWith_freeCount (d : Dev) (e : Config.NamedEvent) (kind source : Nat) (detail : Word64) : (d.eventNamedWith e kind source detail).freeCount = d.freeCount := rfl

/-! ## `onEth` -/

@[simp] theorem Dev.onEth_fuses (d : Dev) (p : Nat) (f : EthPort → EthPort) : (d.onEth p f).fuses = d.fuses := rfl
@[simp] theorem Dev.onEth_time (d : Dev) (p : Nat) (f : EthPort → EthPort) : (d.onEth p f).time = d.time := rfl
@[simp] theorem Dev.onEth_slots (d : Dev) (p : Nat) (f : EthPort → EthPort) : (d.onEth p f).slots = d.slots := rfl
@[simp] theorem Dev.onEth_jobs (d : Dev) (p : Nat) (f : EthPort → EthPort) : (d.onEth p f).jobs = d.jobs := rfl
@[simp] theorem Dev.onEth_crofts (d : Dev) (p : Nat) (f : EthPort → EthPort) : (d.onEth p f).crofts = d.crofts := rfl
@[simp] theorem Dev.onEth_cmds (d : Dev) (p : Nat) (f : EthPort → EthPort) : (d.onEth p f).cmds = d.cmds := rfl
@[simp] theorem Dev.onEth_nextCmd (d : Dev) (p : Nat) (f : EthPort → EthPort) : (d.onEth p f).nextCmd = d.nextCmd := rfl
@[simp] theorem Dev.onEth_queues (d : Dev) (p : Nat) (f : EthPort → EthPort) : (d.onEth p f).queues = d.queues := rfl
@[simp] theorem Dev.onEth_mem (d : Dev) (p : Nat) (f : EthPort → EthPort) : (d.onEth p f).mem = d.mem := rfl
@[simp] theorem Dev.onEth_memPoison (d : Dev) (p : Nat) (f : EthPort → EthPort) : (d.onEth p f).memPoison = d.memPoison := rfl
@[simp] theorem Dev.onEth_units (d : Dev) (p : Nat) (f : EthPort → EthPort) : (d.onEth p f).units = d.units := rfl
@[simp] theorem Dev.onEth_mesh (d : Dev) (p : Nat) (f : EthPort → EthPort) : (d.onEth p f).mesh = d.mesh := rfl
@[simp] theorem Dev.onEth_pins (d : Dev) (p : Nat) (f : EthPort → EthPort) : (d.onEth p f).pins = d.pins := rfl
@[simp] theorem Dev.onEth_power (d : Dev) (p : Nat) (f : EthPort → EthPort) : (d.onEth p f).power = d.power := rfl
@[simp] theorem Dev.onEth_boot (d : Dev) (p : Nat) (f : EthPort → EthPort) : (d.onEth p f).boot = d.boot := rfl
@[simp] theorem Dev.onEth_test (d : Dev) (p : Nat) (f : EthPort → EthPort) : (d.onEth p f).test = d.test := rfl
@[simp] theorem Dev.onEth_well (d : Dev) (p : Nat) (f : EthPort → EthPort) : (d.onEth p f).well = d.well := rfl
@[simp] theorem Dev.onEth_tap (d : Dev) (p : Nat) (f : EthPort → EthPort) : (d.onEth p f).tap = d.tap := rfl
@[simp] theorem Dev.onEth_fabric (d : Dev) (p : Nat) (f : EthPort → EthPort) : (d.onEth p f).fabric = d.fabric := rfl
@[simp] theorem Dev.onEth_settings (d : Dev) (p : Nat) (f : EthPort → EthPort) : (d.onEth p f).settings = d.settings := rfl
@[simp] theorem Dev.onEth_live (d : Dev) (p : Nat) (f : EthPort → EthPort) : (d.onEth p f).live = d.live := rfl
@[simp] theorem Dev.onEth_shadow (d : Dev) (p : Nat) (f : EthPort → EthPort) : (d.onEth p f).shadow = d.shadow := rfl
@[simp] theorem Dev.onEth_bars (d : Dev) (p : Nat) (f : EthPort → EthPort) : (d.onEth p f).bars = d.bars := rfl
@[simp] theorem Dev.onEth_signals (d : Dev) (p : Nat) (f : EthPort → EthPort) : (d.onEth p f).signals = d.signals := rfl
@[simp] theorem Dev.onEth_sent (d : Dev) (p : Nat) (f : EthPort → EthPort) : (d.onEth p f).sent = d.sent := rfl
@[simp] theorem Dev.onEth_logs (d : Dev) (p : Nat) (f : EthPort → EthPort) : (d.onEth p f).logs = d.logs := rfl
@[simp] theorem Dev.onEth_mapGen (d : Dev) (p : Nat) (f : EthPort → EthPort) : (d.onEth p f).mapGen = d.mapGen := rfl
@[simp] theorem Dev.onEth_irqs (d : Dev) (p : Nat) (f : EthPort → EthPort) : (d.onEth p f).irqs = d.irqs := rfl
@[simp] theorem Dev.onEth_freeCount (d : Dev) (p : Nat) (f : EthPort → EthPort) : (d.onEth p f).freeCount = d.freeCount := rfl

/-! ## `askWell` -/

@[simp] theorem Dev.askWell_fuses (d : Dev) (r : WellReq) : (d.askWell r).fuses = d.fuses := rfl
@[simp] theorem Dev.askWell_time (d : Dev) (r : WellReq) : (d.askWell r).time = d.time := rfl
@[simp] theorem Dev.askWell_slots (d : Dev) (r : WellReq) : (d.askWell r).slots = d.slots := rfl
@[simp] theorem Dev.askWell_jobs (d : Dev) (r : WellReq) : (d.askWell r).jobs = d.jobs := rfl
@[simp] theorem Dev.askWell_crofts (d : Dev) (r : WellReq) : (d.askWell r).crofts = d.crofts := rfl
@[simp] theorem Dev.askWell_cmds (d : Dev) (r : WellReq) : (d.askWell r).cmds = d.cmds := rfl
@[simp] theorem Dev.askWell_nextCmd (d : Dev) (r : WellReq) : (d.askWell r).nextCmd = d.nextCmd := rfl
@[simp] theorem Dev.askWell_queues (d : Dev) (r : WellReq) : (d.askWell r).queues = d.queues := rfl
@[simp] theorem Dev.askWell_mem (d : Dev) (r : WellReq) : (d.askWell r).mem = d.mem := rfl
@[simp] theorem Dev.askWell_memPoison (d : Dev) (r : WellReq) : (d.askWell r).memPoison = d.memPoison := rfl
@[simp] theorem Dev.askWell_units (d : Dev) (r : WellReq) : (d.askWell r).units = d.units := rfl
@[simp] theorem Dev.askWell_mesh (d : Dev) (r : WellReq) : (d.askWell r).mesh = d.mesh := rfl
@[simp] theorem Dev.askWell_pins (d : Dev) (r : WellReq) : (d.askWell r).pins = d.pins := rfl
@[simp] theorem Dev.askWell_power (d : Dev) (r : WellReq) : (d.askWell r).power = d.power := rfl
@[simp] theorem Dev.askWell_boot (d : Dev) (r : WellReq) : (d.askWell r).boot = d.boot := rfl
@[simp] theorem Dev.askWell_test (d : Dev) (r : WellReq) : (d.askWell r).test = d.test := rfl
@[simp] theorem Dev.askWell_tap (d : Dev) (r : WellReq) : (d.askWell r).tap = d.tap := rfl
@[simp] theorem Dev.askWell_fabric (d : Dev) (r : WellReq) : (d.askWell r).fabric = d.fabric := rfl
@[simp] theorem Dev.askWell_hub (d : Dev) (r : WellReq) : (d.askWell r).hub = d.hub := rfl
@[simp] theorem Dev.askWell_settings (d : Dev) (r : WellReq) : (d.askWell r).settings = d.settings := rfl
@[simp] theorem Dev.askWell_live (d : Dev) (r : WellReq) : (d.askWell r).live = d.live := rfl
@[simp] theorem Dev.askWell_shadow (d : Dev) (r : WellReq) : (d.askWell r).shadow = d.shadow := rfl
@[simp] theorem Dev.askWell_bars (d : Dev) (r : WellReq) : (d.askWell r).bars = d.bars := rfl
@[simp] theorem Dev.askWell_signals (d : Dev) (r : WellReq) : (d.askWell r).signals = d.signals := rfl
@[simp] theorem Dev.askWell_sent (d : Dev) (r : WellReq) : (d.askWell r).sent = d.sent := rfl
@[simp] theorem Dev.askWell_logs (d : Dev) (r : WellReq) : (d.askWell r).logs = d.logs := rfl
@[simp] theorem Dev.askWell_mapGen (d : Dev) (r : WellReq) : (d.askWell r).mapGen = d.mapGen := rfl
@[simp] theorem Dev.askWell_irqs (d : Dev) (r : WellReq) : (d.askWell r).irqs = d.irqs := rfl
@[simp] theorem Dev.askWell_freeCount (d : Dev) (r : WellReq) : (d.askWell r).freeCount = d.freeCount := rfl

/-! ## `traced` -/

@[simp] theorem Dev.traced_fuses (d : Dev) : d.traced.fuses = d.fuses := by unfold Dev.traced; split <;> rfl
@[simp] theorem Dev.traced_time (d : Dev) : d.traced.time = d.time := by unfold Dev.traced; split <;> rfl
@[simp] theorem Dev.traced_slots (d : Dev) : d.traced.slots = d.slots := by unfold Dev.traced; split <;> rfl
@[simp] theorem Dev.traced_jobs (d : Dev) : d.traced.jobs = d.jobs := by unfold Dev.traced; split <;> rfl
@[simp] theorem Dev.traced_crofts (d : Dev) : d.traced.crofts = d.crofts := by unfold Dev.traced; split <;> rfl
@[simp] theorem Dev.traced_cmds (d : Dev) : d.traced.cmds = d.cmds := by unfold Dev.traced; split <;> rfl
@[simp] theorem Dev.traced_nextCmd (d : Dev) : d.traced.nextCmd = d.nextCmd := by unfold Dev.traced; split <;> rfl
@[simp] theorem Dev.traced_queues (d : Dev) : d.traced.queues = d.queues := by unfold Dev.traced; split <;> rfl
@[simp] theorem Dev.traced_mem (d : Dev) : d.traced.mem = d.mem := by unfold Dev.traced; split <;> rfl
@[simp] theorem Dev.traced_memPoison (d : Dev) : d.traced.memPoison = d.memPoison := by unfold Dev.traced; split <;> rfl
@[simp] theorem Dev.traced_units (d : Dev) : d.traced.units = d.units := by unfold Dev.traced; split <;> rfl
@[simp] theorem Dev.traced_mesh (d : Dev) : d.traced.mesh = d.mesh := by unfold Dev.traced; split <;> rfl
@[simp] theorem Dev.traced_pins (d : Dev) : d.traced.pins = d.pins := by unfold Dev.traced; split <;> rfl
@[simp] theorem Dev.traced_power (d : Dev) : d.traced.power = d.power := by unfold Dev.traced; split <;> rfl
@[simp] theorem Dev.traced_boot (d : Dev) : d.traced.boot = d.boot := by unfold Dev.traced; split <;> rfl
@[simp] theorem Dev.traced_test (d : Dev) : d.traced.test = d.test := by unfold Dev.traced; split <;> rfl
@[simp] theorem Dev.traced_well (d : Dev) : d.traced.well = d.well := by unfold Dev.traced; split <;> rfl
@[simp] theorem Dev.traced_tap (d : Dev) : d.traced.tap = d.tap := by unfold Dev.traced; split <;> rfl
@[simp] theorem Dev.traced_fabric (d : Dev) : d.traced.fabric = d.fabric := by unfold Dev.traced; split <;> rfl
@[simp] theorem Dev.traced_hub (d : Dev) : d.traced.hub = d.hub := by unfold Dev.traced; split <;> rfl
@[simp] theorem Dev.traced_settings (d : Dev) : d.traced.settings = d.settings := by unfold Dev.traced; split <;> rfl
@[simp] theorem Dev.traced_live (d : Dev) : d.traced.live = d.live := by unfold Dev.traced; split <;> rfl
@[simp] theorem Dev.traced_shadow (d : Dev) : d.traced.shadow = d.shadow := by unfold Dev.traced; split <;> rfl
@[simp] theorem Dev.traced_bars (d : Dev) : d.traced.bars = d.bars := by unfold Dev.traced; split <;> rfl
@[simp] theorem Dev.traced_signals (d : Dev) : d.traced.signals = d.signals := by unfold Dev.traced; split <;> rfl
@[simp] theorem Dev.traced_sent (d : Dev) : d.traced.sent = d.sent := by unfold Dev.traced; split <;> rfl
@[simp] theorem Dev.traced_mapGen (d : Dev) : d.traced.mapGen = d.mapGen := by unfold Dev.traced; split <;> rfl
@[simp] theorem Dev.traced_irqs (d : Dev) : d.traced.irqs = d.irqs := by unfold Dev.traced; split <;> rfl

/-! ## `bumped` -/

@[simp] theorem Dev.bumped_fuses (d e : Dev) : (d.bumped e).fuses = e.fuses := rfl
@[simp] theorem Dev.bumped_time (d e : Dev) : (d.bumped e).time = e.time := rfl
@[simp] theorem Dev.bumped_slots (d e : Dev) : (d.bumped e).slots = e.slots := rfl
@[simp] theorem Dev.bumped_jobs (d e : Dev) : (d.bumped e).jobs = e.jobs := rfl
@[simp] theorem Dev.bumped_crofts (d e : Dev) : (d.bumped e).crofts = e.crofts := rfl
@[simp] theorem Dev.bumped_cmds (d e : Dev) : (d.bumped e).cmds = e.cmds := rfl
@[simp] theorem Dev.bumped_nextCmd (d e : Dev) : (d.bumped e).nextCmd = e.nextCmd := rfl
@[simp] theorem Dev.bumped_queues (d e : Dev) : (d.bumped e).queues = e.queues := rfl
@[simp] theorem Dev.bumped_mem (d e : Dev) : (d.bumped e).mem = e.mem := rfl
@[simp] theorem Dev.bumped_memPoison (d e : Dev) : (d.bumped e).memPoison = e.memPoison := rfl
@[simp] theorem Dev.bumped_units (d e : Dev) : (d.bumped e).units = e.units := rfl
@[simp] theorem Dev.bumped_mesh (d e : Dev) : (d.bumped e).mesh = e.mesh := rfl
@[simp] theorem Dev.bumped_pins (d e : Dev) : (d.bumped e).pins = e.pins := rfl
@[simp] theorem Dev.bumped_power (d e : Dev) : (d.bumped e).power = e.power := rfl
@[simp] theorem Dev.bumped_boot (d e : Dev) : (d.bumped e).boot = e.boot := rfl
@[simp] theorem Dev.bumped_test (d e : Dev) : (d.bumped e).test = e.test := rfl
@[simp] theorem Dev.bumped_well (d e : Dev) : (d.bumped e).well = e.well := rfl
@[simp] theorem Dev.bumped_tap (d e : Dev) : (d.bumped e).tap = e.tap := rfl
@[simp] theorem Dev.bumped_fabric (d e : Dev) : (d.bumped e).fabric = e.fabric := rfl
@[simp] theorem Dev.bumped_settings (d e : Dev) : (d.bumped e).settings = e.settings := rfl
@[simp] theorem Dev.bumped_live (d e : Dev) : (d.bumped e).live = e.live := rfl
@[simp] theorem Dev.bumped_shadow (d e : Dev) : (d.bumped e).shadow = e.shadow := rfl
@[simp] theorem Dev.bumped_bars (d e : Dev) : (d.bumped e).bars = e.bars := rfl
@[simp] theorem Dev.bumped_signals (d e : Dev) : (d.bumped e).signals = e.signals := rfl
@[simp] theorem Dev.bumped_sent (d e : Dev) : (d.bumped e).sent = e.sent := rfl
@[simp] theorem Dev.bumped_logs (d e : Dev) : (d.bumped e).logs = e.logs := rfl
@[simp] theorem Dev.bumped_mapGen (d e : Dev) : (d.bumped e).mapGen = e.mapGen := rfl
@[simp] theorem Dev.bumped_irqs (d e : Dev) : (d.bumped e).irqs = e.irqs := rfl
@[simp] theorem Dev.bumped_freeCount (d e : Dev) : (d.bumped e).freeCount = e.freeCount := rfl

/-! ## `bare` -/

@[simp] theorem Dev.bare_fuses (d : Dev) : d.bare.fuses = d.fuses := rfl
@[simp] theorem Dev.bare_time (d : Dev) : d.bare.time = d.time := rfl
@[simp] theorem Dev.bare_slots (d : Dev) : d.bare.slots = d.slots := rfl
@[simp] theorem Dev.bare_jobs (d : Dev) : d.bare.jobs = d.jobs := rfl
@[simp] theorem Dev.bare_crofts (d : Dev) : d.bare.crofts = d.crofts := rfl
@[simp] theorem Dev.bare_cmds (d : Dev) : d.bare.cmds = d.cmds := rfl
@[simp] theorem Dev.bare_nextCmd (d : Dev) : d.bare.nextCmd = d.nextCmd := rfl
@[simp] theorem Dev.bare_queues (d : Dev) : d.bare.queues = d.queues := rfl
@[simp] theorem Dev.bare_mem (d : Dev) : d.bare.mem = d.mem := rfl
@[simp] theorem Dev.bare_memPoison (d : Dev) : d.bare.memPoison = d.memPoison := rfl
@[simp] theorem Dev.bare_units (d : Dev) : d.bare.units = d.units := rfl
@[simp] theorem Dev.bare_mesh (d : Dev) : d.bare.mesh = d.mesh := rfl
@[simp] theorem Dev.bare_pins (d : Dev) : d.bare.pins = d.pins := rfl
@[simp] theorem Dev.bare_power (d : Dev) : d.bare.power = d.power := rfl
@[simp] theorem Dev.bare_boot (d : Dev) : d.bare.boot = d.boot := rfl
@[simp] theorem Dev.bare_test (d : Dev) : d.bare.test = d.test := rfl
@[simp] theorem Dev.bare_well (d : Dev) : d.bare.well = d.well := rfl
@[simp] theorem Dev.bare_tap (d : Dev) : d.bare.tap = d.tap := rfl
@[simp] theorem Dev.bare_fabric (d : Dev) : d.bare.fabric = d.fabric := rfl
@[simp] theorem Dev.bare_settings (d : Dev) : d.bare.settings = d.settings := rfl
@[simp] theorem Dev.bare_live (d : Dev) : d.bare.live = d.live := rfl
@[simp] theorem Dev.bare_shadow (d : Dev) : d.bare.shadow = d.shadow := rfl
@[simp] theorem Dev.bare_bars (d : Dev) : d.bare.bars = d.bars := rfl
@[simp] theorem Dev.bare_signals (d : Dev) : d.bare.signals = d.signals := rfl
@[simp] theorem Dev.bare_sent (d : Dev) : d.bare.sent = d.sent := rfl
@[simp] theorem Dev.bare_mapGen (d : Dev) : d.bare.mapGen = d.mapGen := rfl
@[simp] theorem Dev.bare_irqs (d : Dev) : d.bare.irqs = d.irqs := rfl

end Sys2Proof.Machine
end

