-- ==== Sys2Proof/Laws/Effect.lean ====
section
/-!
SUPPORT. What every command does beside its own effect, and that `exec` answers a next state that keeps the queue.
-/

namespace Sys2Proof.Machine

@[simp] theorem Logs.traceOne_bare (l : Logs) (t n : Nat) (v : BitVec 112) : (l.traceOne t n v).bare = l.bare := rfl

/-- A record offered to the trace writer changes only the trace ring. -/
@[simp] theorem Logs.offer_bare (l : Logs) (e t n : Nat) (v : BitVec 112) : (l.offer e t n v).bare = l.bare := by
  unfold Logs.offer
  split <;> rfl

@[simp] theorem Dev.draw_bare (d : Dev) : d.draw.2.bare = d.bare := rfl

@[simp] theorem Dev.bumped_bare (d e : Dev) : (d.bumped e).bare = e.bare := rfl

/-- Tracing changes only the trace ring and the draw counter. -/
@[simp] theorem Dev.traced_bare (d : Dev) : d.traced.bare = d.bare := by
  unfold Dev.traced
  split
  · rfl
  · have hl : ∀ l : Logs, l.bare = d.logs.bare → { d.draw.2 with logs := l }.bare = d.bare := fun l h => by
      show { d with hub := _, logs := l.bare, freeCount := 0 } = _
      rw [h]; rfl
    refine hl _ ?_
    dsimp only
    split <;> split <;> simp

/-- Tracing keeps the event log. -/
@[simp] theorem Dev.traced_logs_bare (d : Dev) : d.traced.logs.bare = d.logs.bare := congrArg Dev.logs d.traced_bare

/-- A command that acts through `effect` answers the device that its function gives, and keeps the queue. -/
theorem effect_answers (f : Dev → Dev) (s : State) :
    ∃ t, effect f s = .next t ∧ t.pending = s.pending ∧ t.dev = s.dev.bumped (f s.dev).traced := ⟨_, rfl, rfl, rfl⟩

/-- The same for `effectKept`. -/
theorem effectKept_answers (f : Dev → Dev) (s : State) :
    ∃ t, effectKept f s = .next t ∧ t.pending = s.pending ∧ t.dev = (f s.dev).traced := ⟨_, rfl, rfl, rfl⟩

/-- Two devices that are bare-equal agree wherever `bare` keeps a field. -/
theorem Dev.bare_congr {d e : Dev} (h : d.bare = e.bare) :
    d.fuses = e.fuses ∧ d.time = e.time ∧ d.slots = e.slots ∧ d.jobs = e.jobs ∧ d.crofts = e.crofts ∧ d.cmds = e.cmds
      ∧ d.queues = e.queues ∧ d.mem = e.mem ∧ d.units = e.units ∧ d.pins = e.pins ∧ d.power = e.power ∧ d.boot = e.boot
      ∧ d.well = e.well ∧ d.fabric = e.fabric ∧ d.settings = e.settings ∧ d.sent = e.sent :=
  ⟨congrArg (·.fuses) h, congrArg (·.time) h, congrArg (·.slots) h, congrArg (·.jobs) h, congrArg (·.crofts) h,
   congrArg (·.cmds) h, congrArg (·.queues) h, congrArg (·.mem) h, congrArg (·.units) h, congrArg (·.pins) h,
   congrArg (·.power) h, congrArg (·.boot) h, congrArg (·.well) h, congrArg (·.fabric) h, congrArg (·.settings) h,
   congrArg (·.sent) h⟩

/-- Powered commands act while the main rails are on. -/
theorem powered_on {f : Dev → Dev} {d : Dev} (h : d.power.main = true) : powered f d = f d := by simp [powered, h]

theorem powered_off {f : Dev → Dev} {d : Dev} (h : d.power.main = false) : powered f d = d := by simp [powered, h]

end Sys2Proof.Machine
end

