-- ==== Sys2Proof/Laws/Memory.lean ====
section
/-!
SUPPORT. The byte memories: a read after a write, and the canonical form, which every memory operation keeps.
-/

namespace Sys2Proof.Machine

/-- Every cell of a memory lies above an address. -/
def Cells.above (m : Cells) (a : Nat) : Prop := ∀ c ∈ m, a < c.1

theorem Cells.wf_nil : Cells.wf [] = true := rfl

theorem Cells.wf_cons (c : Host.Cell) (t : Cells) :
    Cells.wf (c :: t) = true ↔ c.2 ≠ unlisted ∧ Cells.above t c.1 ∧ Cells.wf t = true := by
  obtain ⟨k, v⟩ := c
  simp only [Cells.wf, Cells.above, Bool.and_eq_true, bne_iff_ne, List.all_eq_true, decide_eq_true_eq]
  tauto

/-- A cell of a memory after a write is the written one or one of before. -/
theorem mem_writeByte (m : Cells) (a : Nat) (b : Byte) (c : Host.Cell) (h : c ∈ writeByte m a b) : c = (a, b) ∨ c ∈ m := by
  induction m with
  | nil =>
    simp only [writeByte] at h
    split at h <;> simp_all
  | cons hd t ih =>
    obtain ⟨k, v⟩ := hd
    simp only [writeByte] at h
    split at h
    · split at h <;> simp_all
    · split at h
      · split at h
        · exact Or.inr (List.mem_cons_of_mem _ h)
        · rcases List.mem_cons.mp h with h | h
          · exact Or.inl h
          · exact Or.inr (List.mem_cons_of_mem _ h)
      · rcases List.mem_cons.mp h with h | h
        · exact Or.inr (h ▸ List.mem_cons_self)
        · rcases ih h with h | h
          · exact Or.inl h
          · exact Or.inr (List.mem_cons_of_mem _ h)

/-- A byte write keeps the canonical form. -/
theorem wf_writeByte (m : Cells) (a : Nat) (b : Byte) (h : Cells.wf m = true) : Cells.wf (writeByte m a b) = true := by
  induction m with
  | nil =>
    simp only [writeByte]
    split
    · rfl
    · rename_i hb
      exact (Cells.wf_cons _ _).mpr ⟨hb, by simp [Cells.above], rfl⟩
  | cons hd t ih =>
    obtain ⟨k, v⟩ := hd
    obtain ⟨hv, ha, ht⟩ := (Cells.wf_cons _ _).mp h
    simp only [writeByte]
    split
    · rename_i hk
      split
      · exact h
      · rename_i hb
        refine (Cells.wf_cons _ _).mpr ⟨hb, ?_, h⟩
        intro c hc
        rcases List.mem_cons.mp hc with hc | hc
        · subst hc; exact hk
        · exact Nat.lt_trans hk (ha c hc)
    · split
      · rename_i hk
        split
        · exact ht
        · rename_i hb
          refine (Cells.wf_cons _ _).mpr ⟨hb, ?_, ht⟩
          intro c hc
          have := ha c hc
          simp only at this ⊢
          omega
      · rename_i h1 h2
        refine (Cells.wf_cons _ _).mpr ⟨hv, ?_, ih ht⟩
        intro c hc
        rcases mem_writeByte t a b c hc with hc | hc
        · subst hc
          simp only
          omega
        · exact ha c hc

/-- A write of bytes keeps the canonical form. -/
@[simp] theorem wf_writeBytes (m : Cells) (a : Nat) (bs : List Byte) (h : Cells.wf m = true) :
    Cells.wf (writeBytes m a bs) = true := by
  induction bs generalizing m a with
  | nil => exact h
  | cons b t ih => exact ih _ _ (wf_writeByte m a b h)

/-- Leaving cells out keeps the canonical form. -/
theorem wf_filter (m : Cells) (p : Host.Cell → Bool) (h : Cells.wf m = true) : Cells.wf (m.filter p) = true := by
  induction m with
  | nil => rfl
  | cons c t ih =>
    obtain ⟨hv, ha, ht⟩ := (Cells.wf_cons _ _).mp h
    by_cases hp : p c
    · rw [List.filter_cons_of_pos hp]
      exact (Cells.wf_cons _ _).mpr ⟨hv, fun x hx => ha x (List.mem_of_mem_filter hx), ih ht⟩
    · rw [List.filter_cons_of_neg hp]
      exact ih ht

/-- Zeroing a range keeps the canonical form. -/
@[simp] theorem wf_clearBytes (m : Cells) (a n : Nat) (h : Cells.wf m = true) : Cells.wf (clearBytes m a n) = true :=
  wf_filter m _ h

/-- What an address below every cell reads as. -/
theorem readByte_above (m : Cells) (a k : Nat) (h : Cells.above m k) (ha : a ≤ k) : readByte m a = unlisted := by
  induction m with
  | nil => rfl
  | cons c t ih =>
    obtain ⟨k', v⟩ := c
    have h1 : k < k' := h (k', v) List.mem_cons_self
    have h2 : Cells.above t k := fun x hx => h x (List.mem_cons_of_mem _ hx)
    simp only [readByte]
    rw [if_neg (by omega)]
    exact ih h2

/-- A read after a byte write: the written byte there, the old byte elsewhere. -/
theorem readByte_writeByte (m : Cells) (a : Nat) (b : Byte) (k : Nat) (h : Cells.wf m = true) :
    readByte (writeByte m a b) k = if k = a then b else readByte m k := by
  induction m with
  | nil =>
    simp only [writeByte]
    by_cases hb : b = unlisted
    · rw [if_pos hb]
      by_cases hk : k = a
      · simp [readByte, hk, hb]
      · simp [readByte, hk]
    · rw [if_neg hb]
      simp [readByte]
  | cons hd t ih =>
    obtain ⟨k', v⟩ := hd
    obtain ⟨hv, ha, ht⟩ := (Cells.wf_cons _ _).mp h
    simp only [writeByte]
    by_cases h1 : a < k'
    · rw [if_pos h1]
      by_cases hb : b = unlisted
      · rw [if_pos hb]
        by_cases hk : k = a
        · subst hk
          rw [if_pos rfl, hb]
          refine readByte_above _ _ k ?_ (Nat.le_refl k)
          intro c hc
          rcases List.mem_cons.mp hc with hc | hc
          · subst hc; exact h1
          · exact Nat.lt_trans h1 (ha c hc)
        · rw [if_neg hk]
      · rw [if_neg hb]
        simp only [readByte]
    · rw [if_neg h1]
      by_cases h2 : a = k'
      · rw [if_pos h2]
        subst h2
        by_cases hb : b = unlisted
        · rw [if_pos hb]
          by_cases hk : k = a
          · subst hk
            rw [if_pos rfl, hb]
            exact readByte_above t k k ha (Nat.le_refl k)
          · simp [readByte, hk]
        · rw [if_neg hb]
          by_cases hk : k = a <;> simp [readByte, hk]
      · rw [if_neg h2]
        simp only [readByte]
        by_cases hk : k = k'
        · rw [if_pos hk, if_neg (by omega), if_pos hk]
        · rw [if_neg hk, if_neg hk, ih ht]

/-- A read after a write of bytes. -/
theorem readByte_writeBytes (m : Cells) (a : Nat) (bs : List Byte) (k : Nat) (h : Cells.wf m = true) :
    readByte (writeBytes m a bs) k = if a ≤ k ∧ k < a + bs.length then bs.getD (k - a) 0 else readByte m k := by
  induction bs generalizing m a with
  | nil =>
    simp [writeBytes]
  | cons b t ih =>
    rw [writeBytes, ih _ _ (wf_writeByte m a b h), readByte_writeByte m a b k h]
    by_cases h1 : a + 1 ≤ k ∧ k < a + 1 + t.length
    · rw [if_pos h1, if_pos (by simp only [List.length_cons]; omega)]
      obtain ⟨j, hj⟩ : ∃ j, k - a = j + 1 := ⟨k - a - 1, by omega⟩
      rw [hj, show k - (a + 1) = j by omega]
      rfl
    · rw [if_neg h1]
      by_cases h2 : k = a
      · subst h2
        simp
      · rw [if_neg h2, if_neg (by simp only [List.length_cons]; omega)]

/-- Bytes outside a write read as before. -/
theorem readByte_writeBytes_outside (m : Cells) (a : Nat) (bs : List Byte) (k : Nat) (h : Cells.wf m = true)
    (hk : k < a ∨ a + bs.length ≤ k) : readByte (writeBytes m a bs) k = readByte m k := by
  rw [readByte_writeBytes m a bs k h, if_neg (by omega)]

/-- A read after a range was zeroed. -/
theorem readByte_clearBytes (m : Cells) (a n k : Nat) (h : Cells.wf m = true) :
    readByte (clearBytes m a n) k = if a ≤ k ∧ k < a + n then unlisted else readByte m k := by
  induction m with
  | nil => simp [clearBytes, readByte]
  | cons c t ih =>
    obtain ⟨k', v⟩ := c
    obtain ⟨hv, ha, ht⟩ := (Cells.wf_cons _ _).mp h
    have ih := ih ht
    have hwf : Cells.above (clearBytes t a n) k' := fun x hx => ha x (List.mem_of_mem_filter hx)
    by_cases hp : k' < a ∨ a + n ≤ k'
    · have he : clearBytes ((k', v) :: t) a n = (k', v) :: clearBytes t a n := by
        simp [clearBytes, hp]
      rw [he]
      simp only [readByte]
      by_cases hk : k = k'
      · rw [if_pos hk, if_pos hk, if_neg (by omega)]
      · rw [if_neg hk, if_neg hk, ih]
    · have he : clearBytes ((k', v) :: t) a n = clearBytes t a n := by
        unfold clearBytes
        rw [List.filter_cons_of_neg]
        simpa using hp
      rw [he]
      simp only [readByte]
      by_cases hk : k = k'
      · rw [if_pos hk, if_pos (by omega)]
        exact readByte_above _ _ k' hwf (by omega)
      · rw [if_neg hk, ih]

end Sys2Proof.Machine
end

