-- ==== Sys2Proof/Laws/Ops.lean ====
section
/-!
SUPPORT. What the shared operations over crofts, jobs, slots and lists do.
-/

namespace Sys2Proof.Machine

@[simp] theorem modifyAt_length {α : Type} (l : List α) (i : Nat) (f : α → α) : (modifyAt l i f).length = l.length := by
  induction l generalizing i with
  | nil => rfl
  | cons a t ih => cases i <;> simp [modifyAt, ih]

/-- The element that is mapped, and every other element. -/
theorem modifyAt_getElem? {α : Type} (l : List α) (i k : Nat) (f : α → α) :
    (modifyAt l i f)[k]? = if k = i then (l[k]?).map f else l[k]? := by
  induction l generalizing i k with
  | nil => simp [modifyAt]
  | cons a t ih =>
    cases i with
    | zero => cases k <;> simp [modifyAt]
    | succ i => cases k <;> simp [modifyAt, ih]

theorem modifyAt_mem {α : Type} {l : List α} {i : Nat} {f : α → α} {x : α} (h : x ∈ modifyAt l i f) :
    x ∈ l ∨ ∃ y ∈ l, x = f y := by
  induction l generalizing i with
  | nil => simp [modifyAt] at h
  | cons a t ih =>
    cases i with
    | zero =>
      rcases List.mem_cons.mp h with h | h
      · exact Or.inr ⟨a, List.mem_cons_self, h⟩
      · exact Or.inl (List.mem_cons_of_mem _ h)
    | succ i =>
      rcases List.mem_cons.mp h with h | h
      · exact Or.inl (h ▸ List.mem_cons_self)
      · rcases ih h with h | ⟨y, hy, h⟩
        · exact Or.inl (List.mem_cons_of_mem _ h)
        · exact Or.inr ⟨y, List.mem_cons_of_mem _ hy, h⟩

/-- The croft found has the reference's job and number. -/
theorem Dev.croft_ref {d : Dev} {c : CroftRef} {x : Croft} (h : d.croft c = some x) : x.job = c.job ∧ x.n = c.n := by
  have := List.find?_some h
  simpa using this

theorem Dev.croft_mem {d : Dev} {c : CroftRef} {x : Croft} (h : d.croft c = some x) : x ∈ d.crofts :=
  List.mem_of_find?_eq_some h

theorem find?_map_same {α : Type} (p : α → Bool) (f : α → α) (h : ∀ y, p y = true → p (f y) = true)
    (h' : ∀ y, p y = false → p (f y) = false) (l : List α) : (l.map f).find? p = (l.find? p).map f := by
  induction l with
  | nil => rfl
  | cons a t ih =>
    by_cases ha : p a = true
    · simp [h a ha, ha]
    · simp only [Bool.not_eq_true] at ha
      simp [h' a ha, ha, ih]

/-- The croft that was set is the croft found. -/
@[simp] theorem Dev.croft_setCroft {d : Dev} {c : CroftRef} {x y : Croft} (h : d.croft c = some x) (hj : y.job = c.job)
    (hn : y.n = c.n) : (d.setCroft y).croft c = some y := by
  have hx : (d.setCroft y).croft c = (d.croft c).map fun z => if z.job == y.job && z.n == y.n then y else z := by
    refine find?_map_same _ _ ?_ ?_ d.crofts
    · intro z hz
      simp only [Bool.and_eq_true, beq_iff_eq] at hz
      simp [hz.1, hz.2, hj, hn]
    · intro z hz
      by_cases hc : (z.job == y.job && z.n == y.n) = true
      · simp only [Bool.and_eq_true, beq_iff_eq] at hc
        rw [hc.1, hc.2, hj, hn] at hz
        simp at hz
      · rw [if_neg hc]
        exact hz
  rw [hx, h]
  obtain ⟨h1, h2⟩ := Dev.croft_ref h
  simp [h1, h2, hj, hn]

/-- Another croft than the one set is found as before. -/
theorem Dev.croft_setCroft_other {d : Dev} {c : CroftRef} {y : Croft} (h : y.job ≠ c.job ∨ y.n ≠ c.n) :
    (d.setCroft y).croft c = d.croft c := by
  show ((d.crofts.map _).find? _) = d.crofts.find? _
  induction d.crofts with
  | nil => rfl
  | cons a t ih =>
    simp only [List.map_cons, List.find?_cons]
    by_cases ha : (a.job == y.job && a.n == y.n) = true
    · rw [if_pos ha]
      simp only [Bool.and_eq_true, beq_iff_eq] at ha
      have h1 : (y.job == c.job && y.n == c.n) = false := by
        rcases h with h | h <;> simp [h]
      have h2 : (a.job == c.job && a.n == c.n) = false := by
        rw [ha.1, ha.2]; exact h1
      simp only [h1, h2]
      exact ih
    · rw [if_neg ha]
      split
      · rfl
      · exact ih

/-- The job that was mapped, and every other job. -/
theorem Dev.job_onJob (d : Dev) (j k : Fin 64) (f : Job → Job) :
    (d.onJob j f).job k = if k = j then (d.job k).map f else d.job k := by
  simp only [Dev.job, Dev.onJob, modifyAt_getElem?]
  by_cases h : k = j
  · subst h
    simp only [if_true]
    cases d.jobs[k.val]? with
    | none => rfl
    | some o => cases o <;> rfl
  · have h' : k.val ≠ j.val := fun e => h (Fin.ext e)
    simp [h, h']

/-- The slot that was mapped, and every other slot. -/
theorem Dev.slot_onSlot (d : Dev) (s k : Fin 80) (f : Slot → Slot) :
    (d.onSlot s f).slot k = if k = s then (d.slot k).map f else d.slot k := by
  simp only [Dev.slot, Dev.onSlot, modifyAt_getElem?]
  by_cases h : k = s
  · subst h; simp
  · have h' : k.val ≠ s.val := fun e => h (Fin.ext e)
    simp [h, h']

/-- The port that was mapped, and every other port. -/
theorem Dev.port_onPort (d : Dev) (p k : Nat) (f : Port → Port) :
    (d.onPort p f).port k = if k = p then (d.port k).map f else d.port k := by
  simp only [Dev.port, Dev.onPort, modifyAt_getElem?]

/-- What an event at a croft comes to: the croft set, or a fault of the croft. -/
theorem Dev.apply_cases (d : Dev) (c : CroftRef) (r : Did) :
    (∃ x, r = .ok x ∧ d.apply c r = d.setCroft x) ∨ ∃ code i, r = .fault code i ∧ d.apply c r = d.croftFault c code i := by
  cases r with
  | ok x => exact Or.inl ⟨x, rfl, rfl⟩
  | fault code i => exact Or.inr ⟨code, i, rfl, rfl⟩

/-- A semaphore after an addition. -/
theorem Croft.sem_addSem (x : Croft) (s n k : Nat) (own : Bool) (hk : k < x.seq.sems.length) :
    (x.addSem s n own).sem k = if s = k then min (x.sem k + n) 65535 else x.sem k := by
  simp only [Croft.sem, Croft.addSem, List.getD_eq_getElem?_getD, List.getElem?_set]
  by_cases h : s = k
  · subst h
    simp only [if_true, hk, Option.getD_some, BitVec.toNat_ofNat]
    omega
  · simp [h]

/-- A semaphore after a subtraction. -/
theorem Croft.sem_subSem (x : Croft) (s n k : Nat) (own : Bool) (hk : k < x.seq.sems.length) :
    (x.subSem s n own).sem k = if s = k then x.sem k - n else x.sem k := by
  simp only [Croft.sem, Croft.subSem, List.getD_eq_getElem?_getD, List.getElem?_set]
  by_cases h : s = k
  · subst h
    have := (x.seq.sems[s]'hk).isLt
    simp only [if_true, hk, Option.getD_some, BitVec.toNat_ofNat, List.getElem?_eq_getElem]
    omega
  · simp [h]

@[simp] theorem Croft.addSem_length (x : Croft) (s n : Nat) (own : Bool) :
    (x.addSem s n own).seq.sems.length = x.seq.sems.length := by simp [Croft.addSem]

@[simp] theorem Croft.subSem_length (x : Croft) (s n : Nat) (own : Bool) :
    (x.subSem s n own).seq.sems.length = x.seq.sems.length := by simp [Croft.subSem]

/-- The front element of `lowest` decides whether a list of codes is empty. -/
theorem lowest_eq_none {l : List Nat} : lowest l = none ↔ l = [] := by
  cases l with
  | nil => simp [lowest]
  | cons a t =>
    simp only [lowest]
    split <;> simp

end Sys2Proof.Machine
end

