-- ==== Sys2Proof/Laws/Sequencer.lean ====
section
/-!
SUPPORT. What the instructions that the sequencer executes itself come to (07_croft_instruction_set.md R199, R207 to R211).
-/

namespace Sys2Proof.Machine

/-- What holds of every device that agrees with the effect apart from what every command may touch holds after the command. -/
theorem Dev.bare_of_effect (f : Dev → Dev) (s : State) (P : Dev → Prop)
    (h : ∀ t : Dev, t.bare = (f s.dev).bare → t.crofts = (f s.dev).crofts → P t) :
    ∃ t, effect f s = .next t ∧ t.pending = s.pending ∧ P t.dev :=
  ⟨_, rfl, rfl, h _ (by simp) (by simp)⟩

/-- A row of the sequencer acts on an issue that meets its conditions as the operation does, with the header wait taken. -/
theorem issueRow_issues {d : Dev} {c : CroftRef} {x : Croft} {job : Job} {w : InstrWord} {op : Op} (h : d.Issues c x job w)
    (ho : InstrWord.operation w = some op) : Dev.issueRow op d c = d.issueOp c (x.claim w) w op job := by
  obtain ⟨h1, h2, h3, h4, hu, h5, hw, h6, h7, h8⟩ := h
  subst h6
  simp only [Dev.issueRow, h1, h3, bne_self_eq_false, Bool.false_eq_true, if_false, Nat.not_le.mpr h5, ho, true_or, if_true]
  simp only [Dev.issue, h1, h2, h3, h4, hu, hw, bne_self_eq_false, Bool.not_true, Bool.or_self, Bool.false_eq_true, if_false, Nat.not_le.mpr h5,
    h7, lowest, ho]
  rw [if_neg]
  · rfl
  · intro hc
    simp only [Bool.and_eq_true, beq_iff_eq, Bool.not_eq_true', Option.isNone_iff_eq_none] at hc
    obtain ⟨⟨⟨a, b⟩, e⟩, f⟩ := hc
    rcases h8 with h8 | h8 | h8 | h8 <;> simp_all

/-- Taking a header wait changes the semaphores and the mark that it is taken, and nothing else. -/
theorem claim_eq (x : Croft) (w : InstrWord) : x.claim w = { x with seq := { x.seq with
    claimed := (x.claim w).seq.claimed, sems := (x.claim w).seq.sems, semOwn := (x.claim w).seq.semOwn } } := by
  unfold Croft.claim
  by_cases h : (InstrWord.waitEn w && (InstrWord.queue w).isNone && !x.seq.claimed) = true
  · simp only [h, if_true]; rfl
  · simp only [h]; rfl

/-- Taking a header wait keeps the number of semaphores. -/
theorem claim_length (x : Croft) (w : InstrWord) : (x.claim w).seq.sems.length = x.seq.sems.length := by
  unfold Croft.claim
  by_cases h : (InstrWord.waitEn w && (InstrWord.queue w).isNone && !x.seq.claimed) = true
  · simp only [h, if_true]; simp
  · simp only [h]; rfl

/-- The semaphores once a header wait is taken. -/
theorem semClaimed_claim (x : Croft) (w : InstrWord) (hq : InstrWord.queue w = none) (k : Nat) :
    (x.claim w).sem k = x.semClaimed w k := by
  by_cases hk : k < x.seq.sems.length
  · unfold Croft.claim Croft.semClaimed
    simp only [hq, Option.isNone_none, Bool.and_true]
    by_cases hw : (InstrWord.waitEn w && !x.seq.claimed) = true
    · simp only [hw, if_true, Bool.true_and]
      show (x.subSem (InstrWord.waitSem w) 1 true).sem k = _
      rw [Croft.sem_subSem _ _ _ _ _ hk]
      by_cases he : InstrWord.waitSem w = k <;> simp [he]
    · simp only [Bool.not_eq_true] at hw
      simp only [hw, Bool.false_and, Bool.false_eq_true, if_false]
      rfl
  · have h1 : (x.claim w).sem k = 0 := by
      unfold Croft.sem
      rw [List.getD_eq_default]
      · rfl
      · rw [claim_length]; omega
    have h2 : x.sem k = 0 := by
      unfold Croft.sem
      rw [List.getD_eq_default]
      · rfl
      · omega
    rw [h1]
    unfold Croft.semClaimed
    omega

/-- What a completed instruction of the sequencer leaves, when its signal fits. -/
theorem done_ok (y : Croft) (w : InstrWord) (next : Nat) (hs : InstrWord.sigEn w = true → y.sem (InstrWord.sigSem w) + 1 ≤ 65535) :
    ∃ z : Croft, y.done w next = .ok z ∧ z = { y with seq := { y.seq with
        pc := next, held := false, claimed := false, inStep := y.seq.inStep + 1, nextSeq := y.seq.nextSeq + 1
        sems := z.seq.sems, semOwn := z.seq.semOwn } } ∧ z.seq.sems.length = y.seq.sems.length ∧
      ∀ k < y.seq.sems.length, z.sem k = y.sem k + signalTo w k := by
  unfold Croft.done Croft.signal signalTo
  by_cases hw : InstrWord.sigEn w = true
  · have := hs hw
    simp only [hw, if_true, Bool.true_and]
    have hn : (y.advance next).semOverflows (InstrWord.sigSem w) 1 = false := by
      simp only [Croft.semOverflows, decide_eq_false_iff_not]
      show ¬ 65535 < y.sem _ + 1
      omega
    rw [hn]
    refine ⟨_, rfl, rfl, by simp [Croft.advance], ?_⟩
    intro k hk
    have hk' : k < (y.advance next).seq.sems.length := hk
    rw [Croft.sem_addSem _ _ _ _ _ hk']
    show (if _ then min (y.sem k + 1) 65535 else y.sem k) = _
    by_cases he : InstrWord.sigSem w = k
    · subst he
      simp
      omega
    · simp [he]
  · simp only [Bool.not_eq_true] at hw
    simp only [hw, Bool.false_eq_true, if_false, Bool.false_and]
    exact ⟨_, rfl, rfl, rfl, fun k _ => rfl⟩

/-- A croft that completes an instruction of the sequencer is as `Dev.Executed` says. -/
theorem executed_of {d : Dev} {c : CroftRef} {x x' : Croft} {job : Job} {w : InstrWord} {next : Nat}
    {areg : List AddrReg} {cnt : List Word32} {sem : Nat → Nat} (y : Croft) (h : d.Issues c x job w)
    (hf : signalFits w sem) (hl : y.seq.sems.length = x.seq.sems.length)
    (hs : ∀ k < x.seq.sems.length, y.sem k + signalTo w k = sem k)
    (h' : x'.seq.sems.length = x.seq.sems.length) (hj : x'.job = x.job ∧ x'.n = x.n)
    (ha : y.seq.areg = areg) (hn : y.seq.cnt = cnt)
    (hx : y = { x' with seq := { x'.seq with
      areg := y.seq.areg, cnt := y.seq.cnt, sems := y.seq.sems, semOwn := y.seq.semOwn, claimed := y.seq.claimed } }) :
    ∀ t : Dev, t.bare = (d.apply c (y.done w next)).bare → t.crofts = (d.apply c (y.done w next)).crofts →
      d.Executed c x' next areg cnt sem t := by
  subst ha hn
  intro t ht hc
  obtain ⟨z, hz, hz1, hz2, hz3⟩ := done_ok y w next (by
    intro hw
    by_cases hk : InstrWord.sigSem w < x.seq.sems.length
    · have := hs _ hk
      have h2 := hf hw
      simp only [signalTo, hw, Bool.true_and, beq_self_eq_true, if_true] at this
      omega
    · have : y.sem (InstrWord.sigSem w) = 0 := by
        unfold Croft.sem
        rw [List.getD_eq_default]
        · rfl
        · omega
      omega)
  rw [hz] at ht hc
  have hj1 : z.job = c.job ∧ z.n = c.n := by
    have := Dev.croft_ref h.isCroft
    rw [hz1, hx]
    exact ⟨hj.1.trans this.1, hj.2.trans this.2⟩
  refine ⟨z, ?_, ht, ?_, ?_, ?_⟩
  · show t.crofts.find? _ = _
    rw [hc]
    exact Dev.croft_setCroft h.isCroft hj1.1 hj1.2
  · rw [hz1, hx]
  · omega
  · intro k hk
    rw [hz3 k (by omega)]
    exact hs k (by omega)

/-- The sequencer executes these operations itself. -/
theorem op_queue {w : InstrWord} {op : Op} (ho : InstrWord.operation w = some op)
    (h : op ∈ [Op.nop, .seta, .adda, .setc, .addc, .loop, .jump, .cinit, .csave, .crest, .end_, .chk, .wait, .sig, .fence, .bar]) :
    InstrWord.queue w = none := by
  unfold InstrWord.operation at ho
  unfold InstrWord.queue
  revert ho h
  generalize InstrWord.cls w = a
  generalize InstrWord.op w = b
  intro ho h
  split at ho <;> first | rfl | (cases ho; simp at h) | skip
  all_goals simp at ho

/-- Taking a header wait keeps position, registers and pending signals. -/
theorem claim_seq (x : Croft) (w : InstrWord) : (x.claim w).seq.pc = x.seq.pc ∧ (x.claim w).seq.areg = x.seq.areg
    ∧ (x.claim w).seq.cnt = x.seq.cnt ∧ (x.claim w).seq.signals = x.seq.signals := by
  rw [claim_eq]; exact ⟨rfl, rfl, rfl, rfl⟩

/-- The sum of CTRL.ADDA, formed in 64 bits, is the sum modulo 2^26. -/
theorem adda_base (b : BitVec 26) (m : Int) :
    BitVec.ofNat 26 (wrapInt 26 (b.toNat + signedOf 64 (wrapInt 64 m))) = b + BitVec.ofInt 26 m := by
  apply BitVec.eq_of_toNat_eq
  simp only [BitVec.toNat_ofNat, BitVec.toNat_add, BitVec.toNat_ofInt]
  have h1 : ∃ q : Int, signedOf 64 (wrapInt 64 m) = m + q * 2 ^ 26 := by
    unfold signedOf wrapInt
    have : ((m % 2 ^ 64).toNat : Int) = m % 2 ^ 64 := Int.toNat_of_nonneg (Int.emod_nonneg _ (by norm_num))
    have hlt : (m % 2 ^ 64).toNat < 2 ^ 64 := by
      have := Int.emod_lt_of_pos m (show (0:Int) < 2 ^ 64 by norm_num)
      omega
    rw [Nat.mod_eq_of_lt hlt]
    have hd := Int.emod_add_mul_ediv m (2 ^ 64)
    simp only
    split
    · refine ⟨(-(m / 2 ^ 64) - 1) * 2 ^ 38, ?_⟩
      rw [this]; push_cast; omega
    · refine ⟨(-(m / 2 ^ 64)) * 2 ^ 38, ?_⟩
      rw [this]; omega
  obtain ⟨q, hq⟩ := h1
  rw [hq]
  have hb := b.isLt
  unfold wrapInt
  have h3 : ((b.toNat : Int) + (m + q * 2 ^ 26)) % 2 ^ 26 = ((b.toNat : Int) + m) % 2 ^ 26 := by
    rw [← add_assoc, Int.add_mul_emod_self_right]
  rw [h3]
  omega

/-- A croft held at its instruction is as `Dev.Held` says. -/
theorem held_of {d : Dev} {c : CroftRef} {x : Croft} {job : Job} {w : InstrWord} (h : d.Issues c x job w) (hq : InstrWord.queue w = none) :
    ∀ t : Dev, t.bare = (d.setCroft (x.claim w).hold).bare → t.crofts = (d.setCroft (x.claim w).hold).crofts → d.Held c x w t := by
  intro t ht hc
  have hr := Dev.croft_ref h.isCroft
  refine ⟨(x.claim w).hold, ?_, ht, ?_, claim_length x w, ?_⟩
  · show t.crofts.find? _ = _
    rw [hc]
    refine Dev.croft_setCroft h.isCroft ?_ ?_ <;> rw [claim_eq]
    · exact hr.1
    · exact hr.2
  · unfold Croft.hold
    rw [claim_eq]
  · intro k hk
    exact semClaimed_claim x w hq k

/-- Taking a header wait changes nothing that SYNC.FENCE waits for. -/
theorem fenceBusy_claim (x : Croft) (w : InstrWord) (m : Nat) : (x.claim w).fenceBusy m = x.fenceBusy m := by
  rw [claim_eq]; rfl

end Sys2Proof.Machine
end

