-- ==== Sys2Proof/Tests/Slice0.lean ====
section
/-!
SUPPORT. Small states that meet the premises of each statement of Certificates/Slice0/Obligations.lean (`witness_<Name>`
meets those of `Obligations.<Name>`), and tests of single commands and functions (`test_<what>`).
-/

open Sys2Proof Sys2Proof.Machine
namespace Sys2Proof.Tests

-- One test at a time, which bounds the memory the checks take.
set_option Elab.async false

/-! ## Small devices -/

/-- A job of one device and four crofts, at position 0. -/
def tJob : Job where
  params := ⟨1, [], 0, 1, 7, false, false, false, false, 0, 0, 4, 1, true, false, 0x300, 0⟩
  collKey := List.replicate 32 0
  devs := [0x7FFF]
  closing := false
  fault := none
  ledger := Ledger.new []
  colls := []
  standing := []
  bound := true
  devLists := []
  remaps := 0

def tRef : CroftRef := ⟨0, 0⟩

/-- A word from its CLASS, OP and other bits. -/
def tWord (cls op rest : Nat) : InstrWord := BitVec.ofNat 128 (cls * 2 ^ 124 + op * 2 ^ 120 + rest)

/-- A word that waits on semaphore 4 and signals semaphore 3. -/
def tBoth (cls op rest : Nat) : InstrWord := tWord cls op (2 ^ 117 + 4 * 2 ^ 112 + 2 ^ 111 + 3 * 2 ^ 106 + rest)

/-- A croft on slot 0 at the second of three instructions, each the word `w`; semaphore 3 is one below its greatest value,
semaphore 4 at 1, semaphore 5 at 2 and counter 2 at 1. -/
def tCroft (w : InstrWord) : Croft :=
  let x := Croft.first 0 0 tJob
  { x with
    slot := some 0
    granary := writeBytes [] 0 ((List.replicate 3 (leBytes 16 w.toNat)).flatten)
    lanes := List.replicate 5 ⟨0, false, 0, 0, [], true⟩
    seq := { x.seq with
      state := .running, count := 3, pc := 1, cnt := x.seq.cnt.set 2 1
      sems := ((x.seq.sems.set 3 65534).set 4 1).set 5 2 } }

/-- A powered device past its boot, with every stack backed, slot 0 in Run, and the crofts and job given. -/
def tDevOf (job : Job) (xs : List Croft) : Dev := { Dev.reset with
  power := { Power.factory with main := true }
  boot := { Boot.factory with step := 8, genKat := 1 }
  pins := ⟨false, false, true, false, false, false, 0⟩
  units := { MemUnits.factory with hbmPresent := 0xFFF, hbmBacked := List.replicate 12 (2 ^ 36) }
  slots := Dev.reset.slots.set 0 { Slot.factory with spare := .active, island := .run }
  jobs := Dev.reset.jobs.set 0 (some job)
  crofts := xs }

def tDev (x : Croft) : Dev := tDevOf tJob [x]

/-! ## Issue -/

/-- The sequencer of `x` issues `w` in `d`. -/
def tIssues (d : Dev) (x : Croft) (job : Job) (w : InstrWord) : Bool :=
  decide (d.croft tRef = some x ∧ d.job 0 = some job ∧ x.seq.state = .running ∧ d.resident x = true ∧ d.stepHeld x = false
    ∧ x.seq.pc < x.seq.count ∧ x.wordLost = false ∧ x.wordAt x.seq.pc = w ∧ x.issueFaults w job = []
    ∧ (InstrWord.waitEn w = false ∨ (InstrWord.queue w).isSome = true ∨ x.seq.claimed = true ∨ x.sem (InstrWord.waitSem w) ≠ 0))

theorem issues_of {d : Dev} {x : Croft} {job : Job} {w : InstrWord} (h : tIssues d x job w = true) : d.Issues tRef x job w := by
  obtain ⟨a, b, c, e, f, g, i, k, l, m⟩ := of_decide_eq_true h
  exact ⟨a, b, c, e, f, g, i, k, l, m⟩

theorem witness_AddressRegisterInstructions :
    (∀ p ∈ [(tBoth 0 1 (15 * 2 ^ 100), Op.seta), (tBoth 0 2 (15 * 2 ^ 100 + 2 ^ 96), .adda), (tBoth 0 2 0, .adda)],
      tIssues (tDev (tCroft p.1)) (tCroft p.1) tJob p.1 = true ∧ InstrWord.operation p.1 = some p.2
      ∧ (tCroft p.1).semAfter p.1 (InstrWord.sigSem p.1) = 65535) := by decide +kernel

theorem witness_CountRegistersAndBranches :
    (∀ p ∈ [(tBoth 0 3 (2 * 2 ^ 97), Op.setc), (tBoth 0 4 (7 * 2 ^ 97), .addc), (tBoth 0 5 (2 * 2 ^ 97), .loop), (tBoth 0 5 0, .loop),
        (tBoth 0 5 (0xFFFF * 2 ^ 80), .loop), (tBoth 0 0 0, .nop), (tBoth 0 6 (0xFFFFF * 2 ^ 76), .jump), (tBoth 0 6 (2 ^ 76), .jump)],
      tIssues (tDev (tCroft p.1)) (tCroft p.1) tJob p.1 = true ∧ InstrWord.operation p.1 = some p.2
      ∧ (tCroft p.1).semAfter p.1 (InstrWord.sigSem p.1) = 65535 ∧ bitsOf p.1.toNat 97 3 < (tCroft p.1).seq.cnt.length) := by
  decide +kernel


/-- The issue of a croft with no queued instruction holds nothing back, and one with a MOVE.ZERO queued holds a fence on its
queue. -/
def tQueued (w : InstrWord) (q : Nat) (l : List Issued) : Croft :=
  let x := tCroft w
  { x with units := { x.units with queues := x.units.queues.set q l } }

def tZero : InstrWord := tWord 6 1 (0x1000 * 2 ^ 78)

theorem witness_SemaphoreInstructions :
    (let w := tBoth 1 1 (5 * 2 ^ 99 + 2 * 2 ^ 68); let x := tCroft w
      tIssues (tDev x) x tJob w = true ∧ InstrWord.operation w = some .wait ∧ 2 ≤ x.semClaimed w 5 ∧ x.semAfter w 3 = 65535)
    ∧ (let w := tBoth 1 1 (5 * 2 ^ 99 + 3 * 2 ^ 68); let x := tCroft w
      tIssues (tDev x) x tJob w = true ∧ InstrWord.operation w = some .wait ∧ x.semClaimed w 5 < 3 ∧ 5 < x.seq.sems.length)
    ∧ (let w := tBoth 1 2 (5 * 2 ^ 99 + 65533 * 2 ^ 68); let x := tCroft w
      tIssues (tDev x) x tJob w = true ∧ InstrWord.operation w = some .sig ∧ w.getLsbD 98 = false
      ∧ x.semClaimed w 5 + 65533 = 65535 ∧ x.semAfter w 3 = 65535)
    ∧ (let w := tBoth 1 2 (5 * 2 ^ 99 + 2 ^ 98 + 65533 * 2 ^ 68 + 3 * 2 ^ 60); let x := tCroft w
      tIssues (tDev x) x tJob w = true ∧ InstrWord.operation w = some .sig ∧ w.getLsbD 98 = true ∧ x.semAfter w 3 = 65535)
    ∧ (let w := tBoth 1 3 (2 ^ 84); let x := tCroft w
      tIssues (tDev x) x tJob w = true ∧ InstrWord.operation w = some .fence ∧ x.fenceBusy (bitsOf w.toNat 84 9) = false
      ∧ x.semAfter w 3 = 65535)
    ∧ (let w := tBoth 1 3 (128 * 2 ^ 84); let x := tQueued w 7 [⟨0, 0, tZero, [], none⟩]
      tIssues (tDev x) x tJob w = true ∧ InstrWord.operation w = some .fence ∧ x.fenceBusy (bitsOf w.toNat 84 9) = true) := by
  decide +kernel

theorem witness_ContextInitialise : ∀ p ∈ [(0, 64), (63, 1), (0, 1)],
    let w := tBoth 0 7 (p.1 * 2 ^ 98 + p.2 * 2 ^ 91); let x := tCroft w
    tIssues (tDev x) x tJob w = true ∧ InstrWord.operation w = some .cinit ∧ bitsOf w.toNat 98 6 + bitsOf w.toNat 91 7 ≤ 64
    ∧ 1 ≤ bitsOf w.toNat 91 7 ∧ x.ctxBusy p.1 p.2 = false ∧ x.semAfter w 3 = 65535 := by decide +kernel

/-- A device with the image of a context bound to row set 1 at 2,048. -/
def tSaved (x : Croft) : Dev :=
  let bytes := leBytes 8 (GenBlock.ctrl ⟨true, false, 1, 1, 7, 5, 64⟩) ++ leBytes 8 7 ++ leBytes 8 5 ++ leBytes 8 64
  { tDev x with mem := writeBytes [] (2048 + 0x100) bytes }

theorem witness_ContextSaveAndRestore :
    (∀ p ∈ [(0, 64), (63, 1)], let w := tBoth 0 8 (p.1 * 2 ^ 98 + p.2 * 2 ^ 91 + 2 ^ 32); let x := tCroft w; let d := tDev x
      tIssues d x tJob w = true ∧ InstrWord.operation w = some .csave ∧ (∀ y ∈ d.crofts, Cells.wf y.granary = true)
      ∧ (∀ t ∈ d.slots, Cells.wf t.view = true) ∧ Cells.wf d.mem = true ∧ x.ctxBusy p.1 p.2 = false
      ∧ (boundSets ((x.ctxs.drop p.1).take p.2)).any x.setBusy = false ∧ outsideTiers 2048 (2048 * p.2) = false
      ∧ d.units.unbackedIn 2048 (2048 * p.2) = false ∧ d.mesh.broken = false ∧ x.ctxLost p.1 p.2 = false ∧ x.semAfter w 3 = 65535)
    ∧ (∀ p ∈ [(63, 1), (62, 2)], let w := tBoth 0 9 (p.1 * 2 ^ 98 + p.2 * 2 ^ 91 + 2 ^ 32); let x := tCroft w; let d := tSaved x
      tIssues d x tJob w = true ∧ InstrWord.operation w = some .crest ∧ x.ctxBusy p.1 p.2 = false
      ∧ outsideTiers 2048 (2048 * p.2) = false ∧ d.units.unbackedIn 2048 (2048 * p.2) = false ∧ d.mesh.broken = false
      ∧ meetsPoison d.memPoison 2048 (2048 * p.2) = false
      ∧ (∀ i < p.2, genBlockBad (readBytes d.mem (2048 + 2048 * i) 2048) = false)
      ∧ (∀ k < 5, x.setBusy k = false) ∧ x.semAfter w 3 = 65535
      ∧ (ctxOfImage (readBytes d.mem 2048 2048)).gen.bound = true ∧ p.1 < x.ctxs.length) := by decide +kernel

theorem witness_StepBoundaries : ∀ p ∈ [(0xF, 0, Op.end_), (0, 1, .chk), (4, 1, .bar)],
    let w := tBoth p.2.1 p.1 (2 * 2 ^ 21); let x := tCroft w; let y := tQueued w 7 [⟨0, 0, tZero, [], none⟩]
    tIssues (tDev x) x tJob w = true ∧ InstrWord.operation w = some p.2.2 ∧ x.semAfter w 3 = 65535
    ∧ x.drained (p.2.2 == .end_) = true ∧ tIssues (tDev y) y tJob w = true ∧ y.drained (p.2.2 == .end_) = false := by
  decide +kernel

/-- The words of the rows that go to a unit's queue, with their queue. -/
def tUnitWords : List (InstrWord × Nat × Op) :=
  [(tWord 2 0 (3 * 2 ^ 118), 3, .mm), (tWord 3 0 (0x1000 * 2 ^ 78), 4, .red), (tWord 3 1 0, 4, .emit), (tWord 4 0 0, 5, .bern),
   (tWord 4 1 0, 5, .gibbs), (tWord 4 2 0, 5, .gumb), (tWord 4 3 0, 5, .take), (tWord 4 4 0, 5, .mask), (tWord 4 5 0, 5, .fill),
   (tWord 5 0 0, 6, .load), (tWord 5 1 0, 6, .sweep), (tWord 5 2 0, 6, .snap), (tWord 5 3 0, 6, .read), (tWord 6 0 0, 7, .dma),
   (tWord 6 1 0, 7, .zero), (tWord 7 0 0, 8, .put), (tWord 7 1 0, 8, .mcast)]

theorem witness_QueuedIssue : ∀ p ∈ tUnitWords,
    let one : Issued := ⟨0, 0, p.1, [], none⟩
    let x := tQueued p.1 p.2.1 (List.replicate (queueDepth p.2.1 - 1) one); let y := tQueued p.1 p.2.1 (List.replicate (queueDepth p.2.1) one)
    tIssues (tDev x) x tJob p.1 = true ∧ tIssues (tDev y) y tJob p.1 = true ∧ InstrWord.queue p.1 = some p.2.1
    ∧ InstrWord.operation p.1 = some p.2.2 ∧ x.seq.fieldSkip = 0 ∧ x.units.queues.length = 9
    ∧ (x.units.queues.getD p.2.1 []).length < queueDepth p.2.1 ∧ (y.units.queues.getD p.2.1 []).length ≥ queueDepth p.2.1 := by
  decide +kernel

theorem witness_IssueFaultHaltsJob : ∀ p ∈ [(tWord 15 15 0, 0x201, none), (tWord 0 6 (2 * 2 ^ 76), 0x203, some Op.jump)],
    let x := tCroft p.1; let d := tDev x
    d.croft tRef = some x ∧ d.job tRef.job = some tJob ∧ x.seq.state = .running ∧ d.resident x = true
    ∧ d.stepHeld x = false ∧ x.seq.pc < x.seq.count ∧ x.wordLost = false ∧ x.wordAt x.seq.pc = p.1 ∧ lowest (x.issueFaults p.1 tJob) = some p.2.1 ∧ tJob.fault = none
    ∧ InstrWord.operation p.1 = p.2.2 := by decide +kernel

/-! ## Units and the Field -/

/-- The sizes of a croft's stores, as a check. -/
def tSizes (x : Croft) : Bool :=
  [x.ctxs.length, x.seq.areg.length, x.seq.cnt.length, x.seq.sems.length, x.units.queues.length, x.units.mill.length,
    x.units.drain.length, x.units.row.length, x.banks.length, x.hand.length, x.lanes.length, x.record.areg.length,
    x.record.cnt.length, x.record.lanes.length, x.record.ctxs.length, x.record.banks.length, x.record.hand.length]
    = [64, 16, 8, 32, 9, 4, 4, 4, 4, 4, 5, 16, 8, 5, 64, 4, 4]

theorem shaped_of {x : Croft} (h : tSizes x = true) : x.Shaped := by
  have e := of_decide_eq_true h
  simp only [List.cons.injEq, and_true] at e
  obtain ⟨a, b, c, d, e, f, g, i, j, k, l, m, n, o, p, q, r⟩ := e
  exact ⟨a, b, c, d, e, f, g, i, j, k, l, m, n, o, p, q, r⟩

/-- The head `i` of queue `q` may start in `d`. -/
def tStarts (d : Dev) (x : Croft) (j : Job) (q : QueueId) (i : Issued) (rest : List Issued) (op : Op) (r : Running) : Bool :=
  decide (d.croft tRef = some x ∧ d.job 0 = some j ∧ d.resident x = true ∧ x.units.queues.getD (QueueId.index q) [] = i :: rest
    ∧ InstrWord.operation i.word = some op ∧ r = ⟨i, if op = .mm then [] else x.peek i, false⟩
    ∧ x.running (InstrWord.unitOf i.word) = none ∧ (InstrWord.waitEn i.word = false ∨ x.sem (InstrWord.waitSem i.word) ≠ 0)
    ∧ x.outranked (QueueId.index q) i.word = false ∧ x.interlocked r = false ∧ descReadable i.word op = true ∧ d.transferHolds tRef op r.desc j = false
    ∧ d.startFaults tRef (x.taken q i.word) j r ++ (x.taken q i.word).storeFaults r = []
    ∧ (x.taken q i.word).descPoisoned i.word op = false)

theorem starts_of {d : Dev} {x : Croft} {j : Job} {q : QueueId} {i : Issued} {rest : List Issued} {op : Op} {r : Running}
    (h : tStarts d x j q i rest op r = true) : d.Starts tRef x j q i rest op r := by
  obtain ⟨a, b, c, e, f, g, i, k, l, m, n, o, p, q⟩ := of_decide_eq_true h
  exact ⟨a, b, c, e, f, g, i, k, l, m, n, o, p, q⟩

/-- A croft with a MOVE descriptor at 0x1000 for one row of 32 bytes at 0x2000 of its own Granary. -/
def tMove (x : Croft) : Croft :=
  { x with granary := writeBytes x.granary 0x1000 (leBytes 8 (2 ^ 62 + 0x2000) ++ leBytes 8 (2 ^ 62 + 0x2000) ++ leBytes 4 32 ++ leBytes 4 1) }

/-- A queued word of the Field: FIELD.SWEEP of one sweep with its descriptor at 0x3000. -/
def tSweep : InstrWord := tBoth 5 1 (0x3000 * 2 ^ 78)

/-- A croft with the Field loaded, its north edge towards croft 1, in sweep 5 at the given phase. -/
def tField (w : InstrWord) (phase : Nat) (synced : Bool) : Croft :=
  let x := tQueued w 6 []
  let h : Handshake := ⟨haloSource 0 1 2, 5, 0, 0, 0⟩
  { x with
    ctxs := x.ctxs.set 0 { Ctx.init true 3 0 1 with sweeps := 5 }
    granary := writeBytes x.granary 0x3008 [1]
    field := { FieldSt.empty with
      loaded := true, image := #[0x80, 0, 0, 0x80], sched := [1], phase := phase, target := 6, synced := synced, snapAddr := 0x8000
      handshakes := [some h, none, none, none], wh := 5 } }

/-- The instruction `w` runs on the Field of `x` with the descriptor given. -/
def tRunsField (x : Croft) (w : InstrWord) : Croft :=
  { x with units := { x.units with field := some ⟨⟨0, 0, w, [], none⟩, leBytes 16 (2 ^ 64), false⟩ } }

theorem witness_InstructionStart :
    (let i : Issued := ⟨7, 0, tBoth 6 1 (0x1000 * 2 ^ 78), [], none⟩; let x := tMove (tQueued 0 7 [i])
      tStarts (tDev x) x tJob .move i [] .zero ⟨i, x.peek i, false⟩ = true ∧ tSizes x = true ∧ x.seq.held = false
      ∧ InstrWord.waitEn i.word = true)
    ∧ (let i : Issued := ⟨7, 0, tSweep, [], none⟩; let x := { tField 0 0 true with units := (tQueued 0 6 [i]).units }
      tStarts (tDev x) x tJob .field i [] .sweep ⟨i, x.peek i, false⟩ = true ∧ tSizes x = true ∧ x.seq.held = false
      ∧ x.field.synced = true)
    ∧ (let i : Issued := ⟨7, 0, tSweep, [], none⟩; let x := { tField 0 0 false with units := (tQueued 0 6 [i]).units }
      tStarts (tDev x) x tJob .field i [] .sweep ⟨i, x.peek i, false⟩ = true ∧ tSizes x = true ∧ x.seq.held = false
      ∧ x.field.synced = false ∧ x.field.handshakesIn = false)
    ∧ (let i : Issued := ⟨7, 0, tWord 5 0 (0x3000 * 2 ^ 78), [], none⟩; let y := { tField 0 0 true with units := (tQueued 0 6 [i]).units }
      let x := { y with granary := writeBytes y.granary 0x3000 (List.replicate 32 0) }
      tStarts (tDev x) x tJob .field i [] .load ⟨i, x.peek i, false⟩ = true ∧ tSizes x = true ∧ x.seq.held = false) := by
  decide +kernel

/-- The instruction `i` runs on the move unit. -/
def tMoves (x : Croft) (i : Issued) (landed : Bool) : Croft :=
  { x with units := { x.units with move := some ⟨i, (tMove x).read 0x1000 32, landed⟩ } }

theorem witness_InstructionCompletion :
    (∀ landed : Bool, let i : Issued := ⟨7, 0, tBoth 6 1 0, [], none⟩; let x := tMoves (tCroft 0) i landed; let d := tDev x
      d.croft tRef = some x ∧ d.job 0 = some tJob ∧ x.running .move = some ⟨i, (tMove x).read 0x1000 32, landed⟩ ∧ tSizes x = true
      ∧ x.seq.held = false ∧ InstrWord.sigEn i.word = true ∧ x.sem (InstrWord.sigSem i.word) + 1 = 65535
      ∧ x.seq.state ≠ .reeve ∧ InstrWord.operation i.word = some .zero ∧ (moveDesc ((tMove x).read 0x1000 32)).dst.isOwn = true
      ∧ Cells.wf x.granary = true)
    ∧ (let i : Issued := ⟨7, 0, tBoth 2 0 (64 * 2 ^ 64 + 64 * 2 ^ 32 + 3 * 2 ^ 27), [], none⟩
      let t : Tile := ⟨3, 16, true, false, 1, List.replicate 4 ⟨0, none, true⟩, 0, 0, ⟨false, false, false, false⟩⟩
      let y := tCroft 0
      let x := { y with banks := y.banks.set 0 [t], units := { y.units with mill := y.units.mill.set 0 (some ⟨i, [], false⟩) } }
      let d := tDev x
      d.croft tRef = some x ∧ x.running (.mill 0) = some ⟨i, [], false⟩ ∧ tSizes x = true ∧ InstrWord.operation i.word = some .mm
      ∧ findTile (x.banks.getD (millOp i).unit []) (millOp i).m (millOp i).tile = some t) := by decide +kernel

/-- A finite group, one with an infinity times zero, one with infinities of both signs; and a pass of 64 pairs before another. -/
theorem witness_MillPasses :
    (∀ p ∈ [(Fval.fin false 3 0, Fval.fin true 5 (-2)), (.fin false 0 0, .fin true 1 0)], p.1.isFinite = true ∧ p.2.isFinite = true)
    ∧ (Fval.inf false).mulInvalid (.fin false 0 0) = true ∧ (Fval.inf false).mul (.fin true 1 0) = .inf true
    ∧ (Fval.inf false).mul (.fin false 1 0) = .inf false
    ∧ (let o := millOp ⟨0, 0, tWord 2 0 (64 * 2 ^ 64), [], none⟩; 0 < o.kPass
      ∧ (List.replicate o.kPass (Fval.fin false 1 0, Fval.fin true 1 0)).length = o.kPass
      ∧ (List.replicate (2 * o.kPass) (Fval.fin false 1 0, Fval.fin true 1 0)).length % o.kPass = 0) := by decide +kernel

/-- `x` with the instruction `w` and its descriptor running on unit `u`. -/
def tUnit (x : Croft) (u : UnitId) (w : InstrWord) (desc : List Byte) (landed : Bool) : Croft :=
  x.setRunning u (some ⟨⟨7, 0, w, [], none⟩, desc, landed⟩)

/-- What the premises of every clause of InstructionCompletion ask of a croft with `op` running on unit `u`. -/
def tCompletes (x : Croft) (u : UnitId) (op : Op) : Bool :=
  let d := tDev x
  decide (d.croft tRef = some x ∧ d.job 0 = some tJob ∧ tSizes x = true ∧ x.seq.held = false ∧ x.seq.state ≠ .reeve
    ∧ Cells.wf x.granary = true) && match x.running u with
  | some r => decide (InstrWord.operation r.ins.word = some op
      ∧ (InstrWord.sigEn r.ins.word = true → x.sem (InstrWord.sigSem r.ins.word) + 1 ≤ 65535))
  | none => false

/-- A drain descriptor of zeros but for its control word, DST_STRIDE and CTX0. -/
def tDrainDesc (control stride ctx0 : Nat) : List Byte :=
  List.replicate 0x208 0 ++ leBytes 4 control ++ leBytes 4 0 ++ leBytes 4 0x4000 ++ leBytes 4 stride ++ leBytes 4 0 ++ leBytes 4 ctx0

/-- A sampler descriptor with OUT, SEG and SPAN. -/
def tSampDesc (out seg span : Nat) : List Byte :=
  leBytes 4 (out * 2 ^ 28 + seg * 2 ^ 25) ++ List.replicate 0x40 0 ++ leBytes 4 span

theorem witness_UnitCompletions :
    (tCompletes (tMoves (tCroft 0) ⟨7, 0, tBoth 6 0 0, [], none⟩ false) .move .dma = true
      ∧ (moveDesc ((tMove (tCroft 0)).read 0x1000 32)).dst.isOwn = true)
    ∧ (∀ p ∈ [(tBoth 3 0 (2 ^ 70), 0), (tBoth 3 0 (3 * 2 ^ 71), 2 ^ 18), (tBoth 3 0 0, 2 ^ 19)],
      let t : Tile := ⟨0, InstrWord.rows p.1, true, false, 1, List.replicate 4 ⟨0, none, true⟩, 0, 0, ⟨false, false, false, false⟩⟩
      let y := tUnit (tCroft 0) (.drain 0) p.1 (tDrainDesc p.2 64 0) false
      let x := { y with banks := y.banks.set 0 [t] }
      tCompletes x (.drain 0) .red = true ∧ InstrWord.unit p.1 = 0
      ∧ findTile (x.banks.getD 0 []) (InstrWord.rows p.1) (InstrWord.drainTile p.1) = some t ∧ (x.lanes[0]?).isSome = true
      ∧ (x.running (.drain 0)).map x.handRoom = some true)
    ∧ (let y := tUnit (tCroft 0) (.drain 0) (tBoth 3 0 0) (tDrainDesc (2 ^ 18) 64 0) false
      let x := { y with hand := y.hand.set 0 ⟨none, [⟨3, 0, List.replicate 113 []⟩]⟩ }
      tCompletes x (.drain 0) .red = true ∧ (x.running (.drain 0)).map x.handRoom = some false)
    ∧ (let x := tUnit (tCroft 0) (.drain 0) (tBoth 3 1 0) (tDrainDesc 0 32 48) false
      tCompletes x (.drain 0) .emit = true ∧ 32 ≤ (drainDesc (tDrainDesc 0 32 48)).dstStride
      ∧ (drainDesc (tDrainDesc 0 32 48)).ctx0 + InstrWord.rows (tBoth 3 1 0) ≤ 64)
    ∧ (∀ p ∈ [(0, Op.bern, 2, 0, 0), (1, .gibbs, 2, 1, 0), (2, .gumb, 2, 1, 1), (3, .take, 0, 2, 0), (4, .mask, 0, 0, 0), (5, .fill, 0, 3, 0)],
      let w := tBoth 4 p.1 (p.2.2.1 * 2 ^ 68)
      let desc := tSampDesc p.2.2.2.1 p.2.2.2.2 64
      let x := tUnit (tCroft 0) (.row 0) w desc false
      tCompletes x (.row 0) p.2.1 = true ∧ InstrWord.unit w = 0 ∧ InstrWord.src w = p.2.2.1 ∧ (x.lanes[0]?).isSome = true
      ∧ ((x.running (.row 0)).bind fun r => x.sampRows r (sampDesc desc)).isSome = true
      ∧ sampFormatBad p.2.1 (InstrWord.src w) (sampDesc desc) = false)
    ∧ (let y := tUnit (tField 0 0 true) .field tSweep [] false
      let x := { y with field := { y.field with target := 5 } }
      tCompletes x .field .sweep = true ∧ x.field.phase = 0 ∧ x.field.target ≤ x.runSweeps ∧ x.field.pending = [])
    ∧ (∀ p ∈ [(0, Op.load), (2, .snap), (3, .read)],
      let x := tUnit (tField 0 0 true) .field (tBoth 5 p.1 0) (leBytes 8 1 ++ leBytes 4 0x9000) false
      tCompletes x .field p.2 = true ∧ x.field.synced = true ∧ x.field.edgePresent x.runSweeps = true ∧ x.runSweeps = 5)
    ∧ (let x := tUnit (tCroft 0) .mesh (tBoth 7 1 0) [] true
      tCompletes x .mesh .mcast = true ∧ (x.running .mesh).map (·.landed) = some true) := by decide +kernel

theorem witness_FieldSweepEvents :
    (∀ p < 3, let x := tRunsField (tField 0 p true) tSweep; let d := tDev x
      d.croft tRef = some x ∧ d.job 0 = some tJob ∧ tSizes x = true ∧ x.field.ctx < 64 ∧ d.sweeping x = true ∧ x.seq.state ≠ .halted
      ∧ x.runSweeps < x.field.target ∧ haloPresent x.field.image (x.field.phaseRecords 0 5 (min p 1)) = (p = 0))
    ∧ (let y := tRunsField (tField 0 1 true) tSweep
      let x := { y with field := { y.field with store := [⟨0, false, 5, 0⟩] } }
      x.field.phase < 2 ∧ haloPresent x.field.image (x.field.phaseRecords 0 5 1) = true ∧ (tDev x).sweeping x = true) := by
  decide +kernel

/-- A synchronised Field with one snapshot latched at sweep 5, of energy `e`, and `c` committed. -/
def tLatched (c : Option SnapRegs) (e : Int) : Croft :=
  let y := tField 0 0 true
  { y with field := { y.field with committed := c, pending := [⟨5, #[], e, 0, #[], 0, 0⟩] } }

theorem tField_history : ((tField 0 0 true).field.snapHistory 0 5).isSome = true ∧ Cells.wf (tField 0 0 true).granary = true
    ∧ (4096 + (((tField 0 0 true).field.snapHistory 0 5).getD []).length ≤ snapBytes (tField 0 0 true).field.image 0) := by
  decide +kernel

/-- With the energy that the audit finds, and with another. -/
theorem witness_SnapshotCommit (c : Option SnapRegs) : ∃ e e' : Int, ∀ k ∈ [e, e'], let x := tLatched c k; let d := tDev x
    d.croft tRef = some x ∧ d.job 0 = some tJob ∧ x.field.synced = true ∧ (x.field.snapHistory 0 5).isSome = true
    ∧ Cells.wf x.granary = true ∧ 4096 + ((x.field.snapHistory 0 5).getD []).length ≤ snapBytes x.field.image 0
    ∧ ∃ p, x.field.pending = [p] ∧ p.sweep = 5 ∧ (energyInt x.field.image p.states = p.eInt ↔ k = e) := by
  let img := (tField 0 0 true).field.image
  refine ⟨energyInt img #[], energyInt img #[] + 1, ?_⟩
  intro k _
  exact ⟨rfl, rfl, rfl, tField_history.1, tField_history.2.1, tField_history.2.2, ⟨5, #[], k, 0, #[], 0, 0⟩, rfl, rfl, eq_comm⟩

theorem witness_HaloArrivals :
    (let y := tField 0 0 true; let x := { y with field := { y.field with store := [⟨0, false, 7, 0⟩] } }; let d := tDev x
      d.croft tRef = some x ∧ d.job 0 = some tJob ∧ haloEdgeOf x.field.image (haloSource 0 1 2) = some 0
      ∧ haloEdgeOf x.field.image (haloSource 0 1 1) = none ∧ (∃ h ∈ x.field.store, h.edge = 0 ∧ h.cls = false ∧ h.sweep = 7)
      ∧ ¬ (∃ h ∈ x.field.store, h.edge = 0 ∧ h.cls = false ∧ h.sweep = 8) ∧ x.units.field = none) := by decide +kernel

/-- A croft whose Field waits for the handshake of croft 1 and has received it. -/
def tHandshaken (h : Handshake) : Croft :=
  let y := tRunsField (tField 0 0 false) tSweep
  { y with field := { y.field with incoming := y.field.incoming.set 0 (some h) } }

theorem witness_HaloHandshake : ∃ h : Handshake, InstrWord.operation tSweep ≠ some .load ∧ (tHandshaken h).field.synced = false
    ∧ (tHandshaken h).field.handshakesIn = true ∧ haloEdges (tHandshaken h).field.image = [0]
    ∧ (tHandshaken h).field.incoming.getD 0 none = some h ∧ (tHandshaken h).handshakeOk 0 0 h = true := by
  let h : Handshake := ⟨haloSource 0 1 2, 5, 0, crc32 (edgeBonds #[0x80, 0, 0, 0x80] 0), 0⟩
  have e : edgeMode (tHandshaken h).field.image 0 = .halo 0 1 := by decide +kernel
  have r : (tHandshaken h).runSweeps = 5 := by decide +kernel
  have c : (tHandshaken h).field.image = #[0x80, 0, 0, 0x80] := rfl
  refine ⟨h, by decide, rfl, by decide +kernel, by decide +kernel, rfl, ?_⟩
  rw [Croft.handshakeOk, e, r, c]
  simp only [Bool.and_eq_true, beq_iff_eq]
  exact ⟨⟨⟨by decide, rfl⟩, rfl⟩, rfl⟩

theorem witness_WaitsPastTheirLimit :
    (let x := tRunsField (tField 0 1 true) tSweep; let d := tDev x
      d.croft tRef = some x ∧ d.job 0 = some tJob ∧ tJob.fault = none ∧ d.limitsHeld 0 = false ∧ x.units.field.isSome = true
      ∧ d.resident x = true ∧ x.fieldWaits 0 = true ∧ d.awaitsAway x tJob = false)
    ∧ (let y := tCroft (tWord 1 1 (2 * 2 ^ 99 + 2 ^ 68)); let x := { y with seq := { y.seq with held := true } }
      x.waitingAt = some 1 ∧ (tDev x).resident x = true ∧ (tDev x).waitPauses x tJob = false)
    ∧ (∀ mesh, let i : Issued := ⟨0, 0, tZero, [], none⟩; let y := tMoves (tCroft 0) i false
      let x := { y with units := { y.units with mesh := y.units.move } }
      (x.transfer mesh).map (·.landed) = some false)
    ∧ (let d := tDev (tCroft 0); let e := { d with power := { d.power with emThermal := true } }
      e.limitsHeld 0 = true) := by decide +kernel

/-! ## Recovery, signals, barriers, islands and slots -/

theorem witness_CheckErrorReplay : let x := { tCroft 0 with failures := 1 }; let d := tDev x
    d.croft tRef = some x ∧ d.job 0 = some tJob ∧ x.slot = some 0 ∧ (d.slot 0).isSome = true ∧ x.seq.state = .running
    ∧ tJob.fault = none ∧ x.lost = [] ∧ x.failures + 1 < 3 ∧ tSizes x = true
    ∧ (∀ l ∈ [[], [5]], let y := { x with failures := 2, fencedBy := l }; let e := tDev y
      e.croft tRef = some y ∧ e.job 0 = some tJob ∧ y.slot = some 0 ∧ (e.slot 0).map (·.spare) = some .active
      ∧ y.seq.state = .running ∧ y.lost = [] ∧ 3 ≤ y.failures + 1 ∧ tSizes y = true ∧ (0 : Fin 80) ∉ y.fencedBy)
    ∧ (∀ k < 32, x.seq.semOwn.getD k 0 = 0) := by decide +kernel

theorem witness_FieldErrorRollback : let y := tRunsField (tField 0 1 true) tSweep
    let x := { y with field := { y.field with errors := 1, committed := some ⟨1, 4, 32, -9, #[], 0, 0⟩ } }
    let d := tDev x
    d.croft tRef = some x ∧ d.job 0 = some tJob ∧ x.slot = some 0 ∧ (d.slot 0).isSome = true ∧ tJob.fault = none
    ∧ x.field.loaded = true ∧ x.sweepRuns = true ∧ x.field.errors + 1 < 3 ∧ x.field.committed.isSome = true ∧ tSizes x = true
    ∧ x.field.ctx < 64 := by decide +kernel

theorem witness_RemoteSignalArrival : let x := tCroft 0
    let there : RemoteSig := ⟨0, 1, 2, 0, 0, 3, 1⟩
    let here : RemoteSig := ⟨0, 0, 2, 0, 0, 3, 1⟩
    let d := { tDev x with signals := [{ here with tgtCroft := 1 }, here, here] }
    d.job there.job = some tJob ∧ d.croft ⟨there.job, there.tgtCroft⟩ = some x ∧ there.tgtDev = tJob.params.ldev
    ∧ x.seq.held = false ∧ tSizes x = true ∧ x.sem there.sem.val + there.count.toNat = 65535 ∧ there.srcDev ≠ tJob.params.ldev
    ∧ here.srcDev = tJob.params.ldev ∧ d.signals = [{ here with tgtCroft := 1 }] ++ here :: [here]
    ∧ ¬ (({ here with tgtCroft := 1 } : RemoteSig).tgtCroft = here.tgtCroft)
    ∧ d.emergency = false ∧ (let e : Dev := { d with power := { d.power with emThermal := true } }; e.emergency = true
      ∧ e.job there.job = some tJob ∧ e.croft ⟨there.job, there.tgtCroft⟩ = some x) := by decide +kernel

/-- A croft at barrier 2 of the device, with two parties. -/
def tAtBar (arrived : Bool) : Croft := { tCroft 0 with seq := { (tCroft 0).seq with state := .barrier false 2 2 arrived } }

theorem witness_Barriers :
    (let d := tDev (tAtBar false); let e := { d with bars := [⟨false, 0, false, 2, 0, [], 1, 2, [], [3], none⟩] };
      d.job 0 = some tJob ∧ tJob.params.devices = 1 ∧ tJob.params.ldev = 0 ∧ d.croft ⟨0, 0⟩ = some (tAtBar false)
      ∧ (tAtBar false).seq.state = .barrier false (2 : Fin 16).val 2 false
      ∧ (d.openBar false 0 false 2 2).parties = 2 ∧ (d.openBar false 0 false 2 2).count + 1 < 2
      ∧ (e.openBar false 0 false 2 2).parties = 2 ∧ (e.openBar false 0 false 2 2).count + 1 = 2)
    ∧ (let y : Croft := { tAtBar true with n := 1, slot := none }
      let b : Bar := ⟨false, 0, false, 2, 0, [], 1, 3, [], [1], none⟩
      let d : Dev := { tDevOf tJob [tAtBar false, y] with bars := [b] }
      d.job 0 = some tJob ∧ tJob.fault = none ∧ d.croft ⟨0, 0⟩ = some (tAtBar false) ∧ (d.openBar false 0 false 2 2).parties = 3
      ∧ (∀ i ∈ [(0 : Fin 256), 1], (d.croft ⟨0, i⟩).isSome = true) ∧ (tAtBar false).seq.pc = 0 + 1)
    ∧ (let b : Bar := ⟨false, 0, false, 2, 0, [], 2, 2, [], [0], some 200⟩; let d := { tDev (tAtBar true) with bars := [b] }
      d.bars.find? (fun q => q.job == (0 : Fin 64) && q.jobScope == false && q.num == 2 && q.release.isSome) = some b
      ∧ d.croft ⟨0, 0⟩ = some (tAtBar true) ∧ (tAtBar true).seq.held = false ∧ tSizes (tAtBar true) = true
      ∧ InstrWord.sigEn ((tAtBar true).wordAt ((tAtBar true).seq.pc - 1)) = false
      ∧ (∀ n ∈ b.waiting, n = 0) ∧ (tAtBar true).seq.state = .barrier false (2 : Fin 16).val 2 true)
    ∧ (let job := { tJob with params := { tJob.params with ldev := 1, devices := 2 } }
      let b : Bar := ⟨false, 0, true, 2, 0, [], 1, 2, [0], [], none⟩; let d := { tDevOf job [] with bars := [b] }
      d.job 0 = some job ∧ job.params.ldev ≠ 0 ∧ 0 < b.count
      ∧ (d.bars.filter fun q => q.job == (0 : Fin 64) && q.jobScope && q.num == 2 && q.release.isNone) = [b]) := by decide +kernel

/-- A powered device with slots 0 and 1 as given. -/
def tSlots (d : Dev) (a b : Slot) : Dev := { d with slots := (d.slots.set 0 a).set 1 b }

def tRun : Slot := { Slot.factory with spare := .active, island := .run, checked := true }

theorem witness_LanesAndIslands :
    (let y := tCroft 0; let l : LaneSet := ⟨7, false, 1024, 4, [], false⟩; let x := { y with lanes := y.lanes.set 4 l }; let d := tDev x
      d.croft tRef = some x ∧ d.job 0 = some tJob ∧ x.lanes[4]? = some l ∧ l.ready = false ∧ x.seq.held = false
      ∧ tJob.params.laneFree = false)
    ∧ (let d := tSlots (tDev (tCroft 0)) { tRun with island := .idle } tRun
      d.slot 1 = some tRun ∧ tRun.island = .run ∧ d.carried 1 = none ∧ d.carried 0 = some (tCroft 0)
      ∧ d.croft ⟨(tCroft 0).job, (tCroft 0).n⟩ = some (tCroft 0) ∧ (tCroft 0).seq.state = .running ∧ d.activationHolds = false
      ∧ (d.slot 0).map (·.island) = some .idle ∧ (tCroft 0).seq.held = false)
    ∧ (let d := tDev (tCroft 0)
      (d.slot 0).map (·.island) = some .run ∧ d.carried 0 = some (tCroft 0) ∧ d.activationHolds = false) := by decide +kernel

/-- A croft at its step boundary without a slot. -/
def tOff (n : Fin 256) : Croft := { tCroft 0 with n := n, slot := none }

theorem witness_MapChange :
    (let d := tSlots (tDevOf tJob [tOff 0, tOff 1]) tRun tRun; let binds : List (Fin 256 × Fin 80) := [(0, 1), (1, 0)];
      d.job 0 = some tJob ∧ binds ≠ [] ∧ d.bindable 0 0 binds = true ∧ (binds.map (·.1)).Nodup ∧ (binds.map (·.2)).Nodup
      ∧ d.slots.length = 80) := by decide +kernel

theorem witness_SwitchAndMove :
    (let d := tSlots (tDevOf tJob [tOff 0]) tRun tRun;
      d.croft ⟨0, 0⟩ = some (tOff 0) ∧ d.job 0 = some tJob ∧ (tOff 0).slot = none ∧ (tOff 0).paused = false
      ∧ d.slotIs (1 : Fin 80).val .active = true ∧ d.slots.length = 80 ∧ d.carried 1 = none ∧ d.bindReady (1 : Fin 80).val = true
      ∧ d.targeted ⟨0, 0⟩ tJob.params.ldev = false)
    ∧ (let job := { tJob with params := { tJob.params with crofts := 256 } }
      let d := tSlots (tDevOf job [tCroft 0, tOff 1]) tRun tRun
      d.croft ⟨0, 1⟩ = some (tOff 1) ∧ d.carried 0 = some (tCroft 0) ∧ d.croft ⟨0, 0⟩ = some (tCroft 0)
      ∧ d.slotIs (0 : Fin 80).val .active = true ∧ d.movable (tCroft 0) 0 = true ∧ d.bindReady (0 : Fin 80).val = true
      ∧ d.shares 0 (tCroft 0) (tOff 1) job = true ∧ d.job 0 = some job ∧ d.targeted ⟨0, 1⟩ job.params.ldev = false)
    ∧ (∀ free : Bool, let d : Dev := tSlots (tDevOf tJob [tCroft 0]) { tRun with spare := .fenced } tRun
      let e : Dev := { d with slots := d.slots.map fun t => if free then { t with checked := true } else { t with spare := .fenced } }
      e.croft ⟨0, 0⟩ = some (tCroft 0) ∧ (tCroft 0).slot = some 0 ∧ (tCroft 0).lost = [] ∧ e.slotIs (0 : Fin 80).val .active = false
      ∧ e.leavable (tCroft 0) 0 = true ∧ e.replaceable 0 = true ∧ e.slots.length = 80 ∧ tJob.params.laneFree = false
      ∧ (e.nearestSpare 0).isSome = free) := by decide +kernel

theorem witness_SlotChecksAndAgeing :
    (let d := tSlots (tDevOf tJob []) { tRun with island := .idle } { tRun with marked := true };
      d.power.main = true ∧ d.boot.act = .idle ∧ d.boot.genKat ≠ 0 ∧ d.carried 0 = none ∧ (d.slot 0).map (·.island) = some .idle
      ∧ (d.slot 0).map (·.spare) = some .active ∧ (d.slot 10).map (·.spare) = some .spare ∧ d.carried 10 = none ∧ d.crofts = []
      ∧ (d.slot 1).map (·.marked) = some true ∧ (d.slot 1).map (·.spare) = some .active ∧ d.carried 1 = none
      ∧ (d.nearestSpare 1).isSome = true)
    ∧ (let d := tSlots (tDevOf tJob []) tRun { tRun with marked := true }
      let e : Dev := { d with slots := d.slots.map fun t => { t with spare := if t.spare = .spare then .retired else t.spare } }
      (e.slot 1).map (·.marked) = some true ∧ (e.slot 1).map (·.spare) = some .active ∧ e.nearestSpare 1 = none
      ∧ e.settings.ageLimit + 100 = 350)
    ∧ (let d := tSlots (tDevOf tJob [tCroft 0]) { tRun with marked := true } tRun
      let e : Dev := { d with slots := d.slots.map fun t => { t with checked := true } }
      (e.slot 0).map (·.marked) = some true ∧ (e.slot 0).map (·.spare) = some .active ∧ e.carried 0 = some (tCroft 0)
      ∧ e.croft ⟨(tCroft 0).job, (tCroft 0).n⟩ = some (tCroft 0) ∧ e.job (tCroft 0).job = some tJob ∧ tJob.params.laneFree = false
      ∧ (e.nearestSpare (0 : Fin 80).val).isSome = true ∧ e.replaceable 0 = true ∧ e.movable (tCroft 0) tJob.params.ldev = true
      ∧ (tCroft 0).lost = [] ∧ e.slots.length = 80)
    ∧ (let d := tSlots (tDevOf tJob [tCroft 0]) { tRun with marked := true, drift := 350 } tRun
      let e : Dev := { d with slots := d.slots.map fun t => { t with spare := if t.spare = .spare then .retired else t.spare } }
      (e.slot 0).map (fun t => (t.marked, t.spare)) = some (true, .active) ∧ e.carried 0 = some (tCroft 0)
      ∧ e.croft ⟨(tCroft 0).job, (tCroft 0).n⟩ = some (tCroft 0) ∧ e.job (tCroft 0).job = some tJob
      ∧ e.nearestSpare (0 : Fin 80).val = none ∧ (e.slot 0).any (fun t => decide (e.settings.ageLimit + 100 ≤ t.drift)) = true
      ∧ e.movable (tCroft 0) tJob.params.ldev = true ∧ (tCroft 0).lost = [] ∧ e.slots.length = 80) := by decide +kernel

theorem witness_MemoryCare :
    (let d := tSlots (tDevOf tJob []) { tRun with rows := List.replicate 31 (0, 0) } tRun;
      d.power.main = true ∧ (d.slot 0).map (·.island) = some .run
      ∧ (d.slot 0).map (fun t => (t.rows.filter fun r => r.1 == 0).length) = some 31
      ∧ d.carried 0 = none ∧ d.units.errors[(35 : Fin 36).val]? = some ⟨0, 0, 0, 0⟩)
    ∧ (let d := tDev (tCroft 0); d.carried 0 = some (tCroft 0) ∧ d.croft ⟨(tCroft 0).job, (tCroft 0).n⟩ = some (tCroft 0))
    ∧ (∀ u ∈ [(0 : Fin 36), 12], ∀ left ∈ [0, 1], let d := tDevOf tJob []
      let e : Dev := { d with units := { d.units with errors := d.units.errors.set u.val ⟨0, 0, 0, left⟩ } }
      e.power.main = true ∧ e.units.errors[u.val]? = some ⟨0, 0, 0, left⟩ ∧ RepairKind.row ≠ .lane)
    ∧ (let d := tDevOf tJob []
      memUnit (2 ^ 36 - 1) = 0 ∧ d.units.backed (2 ^ 36 - 1) = true ∧ (2 ^ 36 - 1) / 8 * 8 ∉ d.memPoison
      ∧ memUnit ((2 ^ 36 - 1) / 8 * 8) = (0 : Fin 36).val ∧ memUnit (11 * 2 ^ 36) = 11 ∧ d.units.backed (11 * 2 ^ 36) = true) := by
  decide +kernel

theorem witness_RouterFailureAndUnfit :
    (∀ p ∈ [((1, 1), (0 : Fin 80)), ((10, 8), 79), ((2, 2), 11), ((9, 7), 68)], let d := tDevOf tJob []
      d.power.main = true ∧ d.mesh.failed = [] ∧ d.mesh.regions = [] ∧ d.mesh.broken = false ∧ slotXY p.2.val = p.1 ∧ (d.slot p.2).isSome = true ∧ d.slots.length = 80)
    ∧ (let d := { Dev.reset with power := { Power.factory with main := true }, units := { MemUnits.factory with unfitDue := true } }
      d.power.main = true ∧ d.unfitNow = true ∧ d.noJob = true ∧ d.units.unfit = false ∧ d.jobs.length = 64
      ∧ d.fabric.ports.length = 12)
    ∧ (let d := tDevOf tJob []
      let e : Dev := { d with
        mesh := { d.mesh with broken := true }, fabric := { d.fabric with ports := d.fabric.ports.set 3 { Port.reset with state := .up } } }
      e.power.main = true ∧ e.unfitNow = true ∧ e.units.unfit = false ∧ e.jobs.length = 64 ∧ e.fabric.ports.length = 12
      ∧ e.portUp 3 = true ∧ e.job 0 = some tJob ∧ tJob.fault = none) := by decide +kernel

/-- A croft with a MESH instruction running: 32 bytes from 0x100 to 0x200 of croft 1, or of the crofts 1 and 2. -/
def tMeshing (op : Nat) : Croft :=
  let desc := leBytes 4 0x100 ++ leBytes 4 0x200 ++ leBytes 4 32 ++ leBytes 4 (2 ^ 7) ++ List.replicate 16 0 ++ leBytes 32 6
    ++ leBytes 32 6
  let x := tCroft 0
  { x with units := { x.units with mesh := some ⟨⟨0, 0, tWord 7 op 0, [], none⟩, desc, false⟩ } }

theorem witness_MeshDelivery : ∀ p ∈ [(0, Op.put), (1, .mcast)],
    let x := tMeshing p.1; let d := tDevOf tJob [x, tOff 1, tOff 2]
    d.croft tRef = some x ∧ d.job 0 = some tJob ∧ (x.units.mesh).map (·.landed) = some false ∧ Cells.wf d.mem = true
    ∧ (∀ y ∈ d.crofts, Cells.wf y.granary = true) ∧ (∀ t ∈ d.slots, Cells.wf t.view = true)
    ∧ (x.units.mesh).bind (fun r => InstrWord.operation r.ins.word) = some p.2
    ∧ (x.units.mesh).map (fun r => ((meshDesc r.desc).dev, (meshDesc r.desc).croft)) = some (0, 1)
    ∧ (p.2 = .mcast → (x.units.mesh).map (fun r => d.deliverable 0 (((meshDesc r.desc).targets 0).filter fun k =>
        bitOf (leAt r.desc 64 32) k.val)) = some [1, 2])
    ∧ (∀ k ∈ [(1 : Fin 256), 2], d.reached (d.unitMap x true) ⟨0, k⟩ = ⟨0, k⟩) ∧ (⟨0, 1⟩ : CroftRef) ≠ tRef := by decide +kernel

/-! ## Queues and commands -/

/-- A queue with two entries pending in a ring of 256 whose indices are about to wrap. -/
def tQueue : Queue := { Queue.reset with
  enable := true, sqBase := 0x1000, cqBase := 0x20000, sqLog2 := 8, cqLog2 := 8, sqHead := 0xFFFFFFFF, sqTail := 1, cqTail := 1
  cqHead := 0xFFFFFFFF }

def tQueues (d : Dev) (v : Queue) : Dev := { d with queues := [(5, v)] }

theorem witness_Doorbells : let d := tQueues (tDevOf tJob []) tQueue
    d.power.main = true ∧ d.queue 5 = tQueue ∧ tQueue.error = false ∧ tQueue.sqLog2.toNat ≤ 16
    ∧ (tQueue.sqTail - tQueue.sqHead).toNat = 2 ∧ 2 + 254 ≤ 2 ^ tQueue.sqLog2.toNat
    ∧ (255 : Word32) = tQueue.sqTail + BitVec.ofNat 32 254 ∧ (∀ k < 255, (256 : Word32) ≠ tQueue.sqTail + BitVec.ofNat 32 k)
    ∧ (tQueue.cqTail - tQueue.cqHead).toNat = 2 ∧ (1 : Word32) = tQueue.cqHead + BitVec.ofNat 32 2
    ∧ (∀ k < 3, (2 : Word32) ≠ tQueue.cqHead + BitVec.ofNat 32 k) ∧ (d.queue 6).enable = false := by decide +kernel

theorem witness_QueueEnableAndDisable :
    (let u := { tQueue with enable := false, irqVector := 7 }; let d := tQueues (tDevOf tJob []) u; let w : Word32 := 0x91000000
      w.getLsbD 31 = true ∧ (d.queue 5).enable = false ∧ (d.queue 5).draining = false ∧ w.extractLsb' 28 2 ≠ 3
      ∧ (w.extractLsb' 19 5).toNat ≤ 16 ∧ u.sqBase.toNat % 4096 = 0 ∧ u.sqBase.toNat + 128 ≤ 12 * 2 ^ 36
      ∧ d.units.unbackedIn u.sqBase.toNat 128 = false ∧ u.cqBase.toNat % 4096 = 0 ∧ d.units.unbackedIn u.cqBase.toNat 32 = false
      ∧ w.getLsbD 24 = true ∧ u.irqVector.toNat % 2 ^ 11 ≠ 0)
    ∧ (let u := { tQueue with enable := false, sqBase := 32 }; let d := tQueues (tDevOf tJob []) u
      (d.queue 5).enable = false ∧ (d.queue 5).draining = false ∧ ¬ u.sqBase.toNat % 4096 = 0)
    ∧ (let d := tQueues (tDevOf tJob []) { tQueue with enable := false, draining := true }
      (d.queue 5).draining = true)
    ∧ (let d := tQueues (tDevOf tJob []) tQueue; (d.queue 5).enable = true ∧ (0x10000000#32).getLsbD 31 = false) := by decide +kernel

theorem witness_RegisterWrites : let d := tDevOf tJob []
    d.power.main = true ∧ (∀ a ∈ [0, 2 ^ 36 - 8], a % 8 = 0 ∧ inTiers a = true ∧ inTiers (a + 7) = true ∧ d.units.unbackedIn a 8 = false)
    ∧ Cells.wf d.mem = true ∧ d.crofts = [] ∧ (∀ t ∈ d.slots, Cells.wf t.view = true) ∧ (4 : Nat) % 8 ≠ 0 ∧ d.mesh.broken = false
    ∧ 3 * 2 ^ 36 - 8 + 8 ≤ 3 * 2 ^ 36
    ∧ (0x500001FFFD0 : Word64).toNat = 0x50000100010 + 64 * (16383 : Fin 16384).val
    ∧ (0x50004FFF000 : Word64).toNat = 0x50001000000 + 4096 * (16383 : Fin 16384).val
    ∧ (0x50004FFF008 : Word64).toNat = 0x50001000008 + 4096 * (16383 : Fin 16384).val := by decide +kernel

/-- A submission entry: OPCODE, TAG 42, job handle 1, the parameter block's address, and operand bytes. -/
def tEntry (op param : Nat) (args : List Byte) : List Byte :=
  leBytes 4 op ++ leBytes 4 42 ++ leBytes 4 1 ++ leBytes 4 0 ++ leBytes 8 param ++ leBytes 8 0 ++ args
    ++ List.replicate (96 - args.length) 0

/-- A command in flight under the job at position 0. -/
def tCmd (op : Nat) (args : List Byte) (st : CmdState) : Cmd :=
  ⟨3, 5, tEntry op 0 args, some 0, st, false, 0, false, 9, 0, 0, 0, 0⟩

/-- A device with the one command in flight. -/
def tWith (d : Dev) (c : Cmd) : Dev := { tQueues d tQueue with cmds := [c] }

/-- A device with a submission entry at the head of queue 5. -/
def tFetch (job : Option Job) (entry : List Byte) : Dev :=
  let d := tQueues (tDevOf tJob []) { tQueue with sqHead := 0, sqTail := 1, cqHead := 0, cqTail := 0, cls := 1 }
  { d with jobs := d.jobs.set 0 job, mem := writeBytes (writeBytes [] 0x400 (leBytes 8 7 ++ List.replicate 32 0 ++ leBytes 2 4 ++ leBytes 2 1)) 0x1000 entry }

theorem witness_CommandLife :
    (let d := tFetch (some tJob) (tEntry 8 0 []); let u := d.queue 5; let e := readBytes d.mem u.sqBase.toNat 128
      let c : Cmd := { tCmd 8 [] .waiting with entry := e }
      d.power.main = true ∧ d.fetches 5 = true ∧ d.yields 5 = false ∧ d.boot.genKat = 1 ∧ c.formatFaults = [] ∧ d.jobOf (leAt e 8 4) = some 0
      ∧ d.job 0 = some tJob ∧ leAt e 16 8 = 0 ∧ tJob.closing = false ∧ tJob.params.cls = u.cls ∧ leAt e 0 1 ≠ 9)
    ∧ (let d := tFetch none (tEntry 8 0x400 []); let u := d.queue 5; let e := readBytes d.mem u.sqBase.toNat 128
      let c : Cmd := { tCmd 8 [] .waiting with entry := e }
      d.fetches 5 = true ∧ c.formatFaults = [] ∧ d.jobOf (leAt e 8 4) = none ∧ leAt e 16 8 ≠ 0 ∧ d.blockFaults (leAt e 16 8) (leAt e 0 1) = []
      ∧ d.job 0 = none ∧ d.power.standbyDue = false ∧ d.jobs.length = 64)
    ∧ (let d := tFetch none (tEntry 8 0 []); let u := d.queue 5; let e := readBytes d.mem u.sqBase.toNat 128
      let c : Cmd := { tCmd 8 [] .waiting with entry := e }
      d.fetches 5 = true ∧ lowest (c.formatFaults ++ d.jobFaults c u.cls) = some 0x103)
    ∧ (let c := tCmd 1 (leBytes 8 0x400 ++ leBytes 8 0 ++ leBytes 32 1) .waiting; let d := tWith (tSlots (tDevOf tJob []) tRun tRun) c
      d.cmd 3 = some c ∧ c.launches = true ∧ d.job 0 = some tJob ∧ d.orderedBehind c = false ∧ d.emergency = false
      ∧ d.namesBusy c 0 = false ∧ d.givesWay c = false ∧ d.activationHolds = false ∧ d.canBind c 0 tJob = true)
    ∧ (∀ v ∈ [tQueue, { tQueue with irqEn := true, irqVector := 7 }, { tQueue with irqEn := true, irqVector := 7, irqSent := true }],
      let c := tCmd 8 [] .finished; let d := { tWith (tDevOf tJob []) c with queues := [(5, v)] }
      d.cmd 3 = some c ∧ d.job 0 = some tJob ∧ c.opcode ≠ 9 ∧ Cells.wf d.mem = true ∧ d.crofts = [] ∧ d.launchRuns c = false
      ∧ (∀ t ∈ d.slots, Cells.wf t.view = true) ∧ c.entry.length = 128 ∧ d.queue c.queue = v
      ∧ v.irqVector.toNat % 2 ^ 11 = (if v.irqEn then 7 else 0))
    ∧ (let x := tMoves (tCroft 0) ⟨7, 0, tZero, [], none⟩ false
      let c := { tCmd 1 (leBytes 16 0 ++ leBytes 32 1) .finished with begun := true }
      let d := tWith (tDev x) c
      d.cmd 3 = some c ∧ d.launchRuns c = true) := by decide +kernel

/-- Device memory with a program image of two CTRL.NOP at 0x400, loaded at 0x40. -/
def tProgram : Cells :=
  writeBytes [] 0x400 (leBytes 4 0x4C455650 ++ leBytes 4 3 ++ leBytes 4 2 ++ leBytes 4 0x40 ++ leBytes 4 1)

theorem witness_Launches :
    (∀ x ∈ [[], [tCroft 0]],
      let c := tCmd 1 (leBytes 8 0x400 ++ leBytes 8 0 ++ leBytes 32 1) .running
      let d := { tWith (tSlots (tDevOf tJob x) tRun tRun) c with mem := tProgram }
      d.started 3 1 = some (c, 0, tJob) ∧ tJob.params.devices = 1 ∧ tJob.params.laneFree = false
      ∧ lowest (d.launchFaults c 0 tJob) = none ∧ d.bindsNow c 0 tJob = true ∧ Cells.wf d.mem = true
      ∧ (∀ y ∈ d.crofts, Cells.wf y.granary = true) ∧ (∀ t ∈ d.slots, Cells.wf t.view = true)
      ∧ bitOf (leAt c.entry 0x30 32) 0 = true ∧ (∀ y ∈ d.crofts, y.seq.state ≠ .halted)
      ∧ (d.croft tRef = none ↔ x = []))
    ∧ (let c := tCmd 6 (leBytes 4 0 ++ leBytes 4 1 ++ leBytes 8 0x400 ++ leBytes 8 0x40000 ++ leBytes 8 0 ++ leBytes 8 0x50000) .running
      let d := tWith (tSlots (tDevOf tJob [tCroft 0]) tRun tRun) c
      d.started 3 6 = some (c, 0, tJob) ∧ lowest (d.runFaults c 0 tJob) = none ∧ d.bindsNow c 0 tJob = true
      ∧ d.croft tRef = some (tCroft 0) ∧ (tCroft 0).seq.state ≠ .halted ∧ tSizes (tCroft 0) = true) := by decide +kernel

/-- Launches of a job of two devices, on device 0 with the last and with the first arrival and on device 1; and the end of a
FIELD_RUN. -/
theorem witness_LaunchesOfSeveral :
    (∀ p ∈ [(0, [9, 7], true), (0, [9, 7], false), (1, [7, 9], false)],
      let c := tCmd 1 (leBytes 8 0x400 ++ leBytes 8 0 ++ leBytes 32 1) .running
      let job := { tJob with params := { tJob.params with devices := 2, ldev := p.1, laneFree := true, det := false }, devs := p.2.1 }
      let b : Bar := ⟨true, 0, true, 0, 0, [(1, 1)], 1, 2, [], [], none⟩
      let d := tWith (tSlots (tDevOf job [tCroft 0]) tRun tRun) c
      let e : Dev := { d with
        mem := tProgram, bars := if p.2.2 then [b] else [], live := { d.live with fabricAddr := 9 }
        fabric := { d.fabric with routes := [⟨7, 3, [], 1⟩] } }
      e.started 3 1 = some (c, 0, job) ∧ lowest (e.launchFaults c 0 job) = none ∧ e.bindsNow c 0 job = true
      ∧ Cells.wf e.mem = true ∧ (e.implicitBar 0 2 p.1 p.1).parties = 2
      ∧ ((e.implicitBar 0 2 p.1 p.1).count + 1 = 2 ↔ p.2.2 = true))
    ∧ (let q := { tCmd 6 (leBytes 4 0 ++ leBytes 4 1 ++ leBytes 8 0x400 ++ leBytes 8 0x40000 ++ leBytes 8 0 ++ leBytes 8 0x50000) .running with
        begun := true }
      let y := tUnit (tField 0 0 true) .field (tWord 5 3 0) (leBytes 8 0 ++ leBytes 4 0x3FB0000) false
      let x := { y with seq := { y.seq with state := .reeve } }
      let d := tWith (tDev x) q
      d.croft tRef = some x ∧ d.job 0 = some tJob ∧ (d.commandOf tRef).map (·.id) = some q.id ∧ x.inFlight.length = 1
      ∧ x.units.field.isSome = true ∧ (x.units.field.bind fun r => x.finishField 0 r).isSome = true ∧ x.seq.held = false) := by decide +kernel

theorem witness_DataCommands :
    (∀ dst ∈ [2 ^ 63 + 0x200, 0x800], let c := tCmd 2 (leBytes 8 0x400 ++ leBytes 8 dst ++ leBytes 4 32 ++ leBytes 4 2 ++ leBytes 4 32 ++ leBytes 4 64) .running
      let d := tWith (tDevOf tJob [tCroft 0]) c
      d.started 3 2 = some (c, 0, tJob) ∧ lowest (d.copyFaults 0 tJob c.copyDesc) = none ∧ (d.croft ⟨0, 0⟩).isSome = true
      ∧ d.reached d.hub.map ⟨0, 0⟩ = ⟨0, 0⟩ ∧ c.copyDesc.rows = 2 ∧ Cells.wf d.mem = true
      ∧ (c.copyDesc.dst = .croft 0 0x200 ∨ c.copyDesc.dst = .device 0x800))
    ∧ (let c := tCmd 3 (leBytes 8 0x400 ++ leBytes 4 0x200 ++ leBytes 4 32 ++ leBytes 32 3 ++ leBytes 8 0x800) .running
      let d := tWith (tDevOf tJob [tCroft 0]) c
      let asked := (List.finRange 256).filter fun k => bitOf (leAt c.entry 0x30 32) k.val
      d.started 3 3 = some (c, 0, tJob) ∧ setBad asked tJob.params.crofts = false ∧ d.hubRange (leAt c.entry 0x20 8) 32 = []
      ∧ d.hubRange (leAt c.entry 0x50 8) 32 = [] ∧ d.mesh.broken = false ∧ meetsPoison d.memPoison (leAt c.entry 0x20 8) 32 = false
      ∧ (∀ x ∈ d.crofts, x.progMeets ⟨0x200, 32, 0, 1⟩ = false) ∧ maskOf (d.deliverable 0 asked) ≠ leAt c.entry 0x30 32
      ∧ (∀ k ∈ d.deliverable 0 asked, d.reached d.hub.map ⟨0, k⟩ = ⟨0, k⟩)) := by
  decide +kernel

theorem witness_FenceAndTimestamp :
    (∀ scope ∈ [0, 1], let c := tCmd 7 [BitVec.ofNat 8 scope] .running; let d := tWith (tDevOf tJob []) c
      d.started 3 7 = some (c, 0, tJob) ∧ leAt c.entry 0x20 1 = scope ∧ d.cmds.all (fun q => q.id == c.id) = true)
    ∧ (∀ scope ∈ [0, 1], let c := tCmd 7 [BitVec.ofNat 8 scope] .running; let b := { c with id := 2 }
      let d : Dev := { tWith (tDevOf tJob []) c with cmds := [b, c] }
      d.started 3 7 = some (c, 0, tJob) ∧ b.id < c.id ∧ b.job = some 0 ∧ b.queue = c.queue)
    ∧ (let c := tCmd 8 [] .running; (tWith (tDevOf tJob []) c).started 3 8 = some (c, 0, tJob)) := by decide +kernel

theorem witness_ModelAndLedger :
    (let c := tCmd 5 (leBytes 8 0x400) .running; let d := tWith (tDevOf tJob []) c
      let e : Dev := { d with mem := writeBytes [] 0x400 (leBytes 4 1 ++ leBytes 2 2) }
      e.started 3 5 = some (c, 0, tJob)
      ∧ (match e.checkModel 0x400 with
        | .ok p => decide (p.1 = ⟨false, 0, none⟩)
        | .error _ => false) = true
      ∧ (modelHead (readBytes e.mem 0x400 64)).nClasses = 0)
    ∧ (let c := tCmd 9 (leBytes 8 0x400 ++ leBytes 4 0x1000) .running; let d := tWith (tDevOf tJob []) c; let n := d.ledgerLength 0 tJob
      d.started 3 9 = some (c, 0, tJob) ∧ (∀ q ∈ d.cmds, q.job = some 0 → q.id = c.id) ∧ Cells.wf d.mem = true
      ∧ (∀ t ∈ d.slots, Cells.wf t.view = true) ∧ d.crofts = [] ∧ d.hubRange 0x400 (max 64 n) = []
      ∧ meetsPoison d.memPoison 0x400 64 = false ∧ n ≤ leAt c.entry 0x28 4
      ∧ (∀ i < 16, readByte d.mem (0x400 + 48 + i) = 0)) := by decide +kernel

/-! ## Collectives -/

/-- A job of two devices, of which this one is device 0, with the collectives given. -/
def tPair (ks : List Coll) : Job :=
  { tJob with params := { tJob.params with devices := 2 }, devs := [9, 7], colls := ks }

/-- An all-reduce of two U32 elements on the ring. -/
def tColl (held : List Frag) : Coll :=
  ⟨3, 0, 0, 2, 0, 77, 2, 0, 0x800, [[1, 0, 0, 0], [2, 0, 0, 0]], 0, [], held, 0, 0⟩

/-- The header of a contribution of device 1 for a step. -/
def tHeader (step attempt : Nat) : List Byte :=
  leBytes 4 77 ++ leBytes 4 step ++ leBytes 2 1 ++ leBytes 2 0 ++ leBytes 4 (if step = 0 then 0 else 1) ++ leBytes 4 0 ++ leBytes 4 4
    ++ leBytes 4 (2 * 65536) ++ leBytes 1 attempt ++ leBytes 3 0

theorem leBytes_leNat (l : List Byte) : leBytes l.length (leNat l) = l := by
  induction l with
  | nil => rfl
  | cons b t ih =>
    have h := b.isLt
    simp only [List.length_cons, leNat, leBytes]
    have e : (b.toNat + 256 * leNat t) / 256 = leNat t := by omega
    rw [e, ih]
    congr 1
    apply BitVec.eq_of_toNat_eq
    simp only [BitVec.toNat_ofNat]
    omega

theorem leNat_lt (l : List Byte) : leNat l < 256 ^ l.length := by
  induction l with
  | nil => simp [leNat]
  | cons b t ih =>
    have h := b.isLt
    simp only [List.length_cons, leNat, Nat.pow_succ]
    omega

theorem leBytes_length (n v : Nat) : (leBytes n v).length = n := by
  induction n generalizing v with
  | zero => rfl
  | succ n ih => simp [leBytes, ih]

/-- Every contribution has a digest that verifies and one that does not. -/
theorem witness_CollectiveDigests (key header data : List Byte) :
    ∃ good bad : BitVec 128, collDigest key header data = bytesOf good ∧ collDigest key header data ≠ bytesOf bad := by
  have hl : (collDigest key header data).length = 16 := by simp [collDigest, beBytes, leBytes_length]
  have hr : ∀ l : List Byte, l.length = 16 → bytesOf (BitVec.ofNat 128 (leNat l)) = l := by
    intro l h
    have hb := leNat_lt l
    rw [h] at hb
    have e : (BitVec.ofNat 128 (leNat l)).toNat = leNat l := by
      rw [BitVec.toNat_ofNat, Nat.mod_eq_of_lt]
      exact hb
    have := leBytes_leNat l
    rw [h] at this
    simpa [bytesOf, e] using this
  refine ⟨_, ?_, (hr _ hl).symm, ?_⟩
  · exact if collDigest key header data = bytesOf (0 : BitVec 128) then 1 else 0
  · split
    · rename_i h
      rw [h]
      decide
    · assumption

theorem witness_Collectives :
    (let c := tCmd 4 ([0, 0, 2, 0] ++ leBytes 4 77 ++ leBytes 8 2 ++ leBytes 8 0 ++ leBytes 8 0x400 ++ leBytes 8 0x800) .running
      let d := tWith (tDevOf tJob []) c; let e := tWith (tDevOf (tPair []) []) c
      d.started 3 4 = some (c, 0, tJob) ∧ lowest (d.collFaults c.coll (leAt c.entry 0x38 8) tJob) = none ∧ c.coll.kind = 0
      ∧ c.coll.ty = 2 ∧ tJob.params.devices = 1 ∧ tJob.params.ldev = 0 ∧ c.coll.elems = 2
      ∧ e.started 3 4 = some (c, 0, tPair []) ∧ lowest (e.collFaults c.coll (leAt c.entry 0x38 8) (tPair [])) = none
      ∧ 2 ≤ (tPair []).params.devices ∧ (tPair []).colls = [])
    ∧ (∀ p ∈ [(0, 0), (0, 2), (1, 0)], let k := tColl []; let job := tPair [k]; let h := tHeader p.1 p.2
      (tDevOf job []).job 0 = some job ∧ bytesOf (BitVec.ofNat 256 (leNat h)) = h ∧ k.collId.toNat = leAt h 0 4
      ∧ k.step ≤ leAt h 4 4 ∧ leAt h 4 4 < k.steps 2 ∧ leAt h 0xA 2 = 0
      ∧ (k.hopOf 2 0 (leAt h 4 4) (leAt h 8 2) (leAt h 0xC 4)).isSome = true ∧ k.received = [] ∧ leAt h 0x1C 1 < 3
      ∧ leAt h 0x18 4 = k.codes ∧ leAt h 0x10 4 < k.segs 2 (leAt h 4 4) (leAt h 0xC 4) ∧ leAt h 0x14 4 = 4
      ∧ 4 = k.segBytes 2 (leAt h 4 4) (leAt h 0xC 4) (leAt h 0x10 4) ∧ (k.step < leAt h 4 4 ↔ p.1 = 1)
      ∧ k.stepDone 2 0 k.step = false)
    ∧ (∀ attempt : Fin 4, let f : Frag := ⟨1, 0, 1, 0, attempt.val, [2, 0, 0, 0]⟩; let k := tColl [f]; let job := tPair [k]
      (tDevOf job []).job 0 = some job ∧ k.held = [f] ∧ job.fault = none ∧ k.step < k.steps job.params.devices
      ∧ (tDevOf job []).limitsHeld 0 = false
      ∧ (tDevOf { job with standing := [1] } []).limitsHeld 0 = true) := by decide +kernel

/-- A collective of one device by KIND and TYPE. -/
theorem witness_CollectiveKinds : ∀ p ∈ [([0, 0, 0, 0], false), ([0, 2, 1, 0], true), ([0, 0, 3, 0], false), ([3, 3, 1, 0], false)],
    let c := tCmd 4 (p.1 ++ leBytes 4 77 ++ leBytes 8 2 ++ leBytes 8 0 ++ leBytes 8 0x400 ++ leBytes 8 0x800) .running
    let d := tWith (tDevOf tJob []) c
    d.started 3 4 = some (c, 0, tJob) ∧ lowest (d.collFaults c.coll (leAt c.entry 0x38 8) tJob) = none ∧ c.coll.wide = p.2 := by
  decide +kernel

/-- The contribution that completes a step, before the last and at it. -/
theorem witness_CollectiveSteps : ∀ step ∈ [0, 1], let k := { tColl [] with step := step }; let h := tHeader step 0
    let f : Frag := ⟨leAt h 8 2, leAt h 4 4, leAt h 0xC 4, leAt h 0x10 4, 0, [2, 0, 0, 0]⟩
    let kept := { k with received := k.received ++ [f] }
    let next := kept.nextStep 2 0
    k.step ≤ leAt h 4 4 ∧ kept.stepDone 2 0 k.step = true
    ∧ (step = 0 → next.step < k.steps 2 ∧ next.stepDone 2 0 next.step = false) ∧ (step = 1 → next.step = k.steps 2) := by
  decide +kernel

/-- A wrong TYPE, a partial and a result that are entered, and devices of the hops. -/
theorem witness_CollectiveHops :
    (∀ step ∈ [0, 1], let k := tColl []; let h := tHeader step 0
      leAt h 0x18 4 ≠ ({ k with ty := 1 } : Coll).codes ∧ (k.hopOf 2 0 (leAt h 4 4) (leAt h 8 2) (leAt h 0xC 4)).isSome = true
      ∧ leAt h 0xC 4 < k.vals.length ∧ (step = 0 → k.partials 2 (leAt h 4 4) = true) ∧ k.op < 3 ∧ k.ty ≤ 3
      ∧ 4 = (k.vals.getD (leAt h 0xC 4) []).length ∧ k.width ∣ 4)
    ∧ (2 ≤ 3 ∧ 2 < 3 ∧ 1 + 1 < 3) ∧ (4 % 2 ^ (0 + 1) = 0 ∧ 4 + 2 ^ 0 < 6) := by decide +kernel

/-! ## Fohal -/

/-- The CRC register after a byte string is taken in pieces, each with the register's value after it. -/
def tChain (c : Nat) : List (List Byte × Nat) → Bool
  | [] => true
  | (l, v) :: t => l.foldl crc32Byte c == v && tChain v t

theorem tChain_foldl (c : Nat) (l : List (List Byte × Nat)) (h : tChain c l = true) :
    (l.flatMap (·.1)).foldl crc32Byte c = l.foldl (fun _ p => p.2) c := by
  induction l generalizing c with
  | nil => rfl
  | cons p t ih =>
    simp only [tChain, Bool.and_eq_true, beq_iff_eq] at h
    rw [List.flatMap_cons, List.foldl_append, h.1, ih _ h.2, List.foldl_cons]

/-- The first 28 bytes of a flit of 32 data bytes for offset 0x200 + `off` of croft 0, with SEQ 5. -/
def tFlitHead (type : Byte) (off : Nat := 0x20) : List Byte :=
  [5, 0, 0, 0, type, 3, 1, 2, 9, 0, 7, 0, 1, 0, 0, 0] ++ leBytes 8 (2 ^ 63 + 0x200) ++ leBytes 4 off

def tFlit (type : Byte) (crc : Nat) (off : Nat := 0x20) : BitVec 2048 :=
  flitOf (tFlitHead type off ++ List.replicate 224 0 ++ leBytes 4 crc)

/-- The pieces of the CRC of a flit with 224 bytes of zero after its head. -/
def tPieces (type : Byte) (vs : List Nat) (off : Nat := 0x20) : List (List Byte × Nat) :=
  (vs.zipIdx).map fun p => (if p.2 = 0 then tFlitHead type off else List.replicate 28 0, p.1)

def tCrc0 : List Nat := [61214099, 3641961901, 875233254, 2532247432, 255988634, 290359367, 1718817468, 215524650, 2881210139]
def tCrc1 : List Nat := [2189650100, 2967409056, 671967219, 1353041712, 805518304, 148629660, 1059036989, 3672306572, 1122489706]
def tCrc2 : List Nat := [3667771804, 176821687, 207998924, 3238756537, 1908425582, 576997873, 3567913406, 2078084647, 2725438904]
def tCrc3 : List Nat := [2546349464, 3019023011, 3346332564, 2079726138, 2759746828, 2012010580, 732384849, 133571453, 121227820]

theorem flit_good (type : Byte) (vs : List Nat) (crc off : Nat)
    (h : tChain 0xFFFFFFFF (tPieces type vs off) = true)
    (hb : (flitBytes (tFlit type crc off)).take 252 = (tPieces type vs off).flatMap (·.1))
    (hc : (BitVec.ofNat 32 ((tPieces type vs off).foldl (fun _ p => p.2) 0xFFFFFFFF ^^^ 0xFFFFFFFF)).toNat
      = flitAt (tFlit type crc off) 0xFC 4) :
    flitCrcOk (tFlit type crc off) = true := by
  rw [flitCrcOk, hb, crc32, tChain_foldl _ _ h, hc]
  exact beq_self_eq_true _

theorem flit_control : flitCrcOk (tFlit 0 1413757156) = true :=
  flit_good 0 tCrc0 _ _ (by decide +kernel) (by decide +kernel) (by decide +kernel)

theorem flit_data : flitCrcOk (tFlit 1 3172477589) = true :=
  flit_good 1 tCrc1 _ _ (by decide +kernel) (by decide +kernel) (by decide +kernel)

theorem flit_past : flitCrcOk (tFlit 1 4173739475 0x3FFFE00) = true :=
  flit_good 1 tCrc3 _ _ (by decide +kernel) (by decide +kernel) (by decide +kernel)

def tCrc4 : List Nat := [1140837113, 96897774, 4285961413, 3540430190, 4167058639, 3841955318, 867467998, 1742860974, 3703991050]

theorem flit_last : flitCrcOk (tFlit 1 590976245 0x3FFFDE0) = true :=
  flit_good 1 tCrc4 _ _ (by decide +kernel) (by decide +kernel) (by decide +kernel)

theorem flit_nak : flitCrcOk (tFlit 2 1569528391) = true :=
  flit_good 2 tCrc2 _ _ (by decide +kernel) (by decide +kernel) (by decide +kernel)

theorem test_seq_of_flit : flitSeq (tFlit 0 1413757156) = 5 ∧ flitAt (tFlit 0 1413757156) 4 1 = 0 := by decide +kernel

/-- A device whose port 3 is in a state, at fabric address 9, with croft 0 of the pair's job. -/
def tPort (q : Port) : Dev :=
  let d := tDevOf (tPair []) [tCroft 0]
  { d with fabric := { d.fabric with ports := d.fabric.ports.set 3 q }, live := { d.live with fabricAddr := 9 } }

def tUp : Port := { Port.reset with state := .up, expectSeq := 5, nakSeq := 2, nakCount := 6, lanes := 0xFF, width := 8 }

theorem witness_LinkRetry : let d := tPort tUp
    d.power.main = true ∧ d.port (3 : Fin 12).val = some tUp ∧ tUp.state = .up ∧ flitSeq (tFlit 0 1413757156) = tUp.expectSeq
    ∧ flitAt (tFlit 0 1413757156) 4 1 ≠ 1 ∧ (5 : BitVec 16) = (4 : BitVec 16) + BitVec.ofNat 16 1
    ∧ (5 : BitVec 16) = (0xF006 : BitVec 16) + BitVec.ofNat 16 4095 ∧ tUp.nakCount + 1 < 8 ∧ 8 ≤ (tUp.nakCount + 1) + 1
    ∧ tUp.nakSent = false ∧ tUp.replay.length < 4096 ∧ flitSeq (tFlit 2 1569528391) = tUp.expectSeq
    ∧ flitAt (tFlit 2 1569528391) 4 1 = 2 ∧ flitSeq (tFlit 0 1413757156) = (4 : BitVec 16) + BitVec.ofNat 16 1
    ∧ (let q := { tUp with nakSent := true, rtt := 5 }
      64 * d.time.elapsed < 64 * q.nakAt + q.rtt * unitsPerNs ∧ 64 * q.nakAt + 0 * unitsPerNs ≤ 64 * d.time.elapsed) := by
  decide +kernel

/-- A device of the pair's job with 32 bytes of device 7's message with tag 1 there. -/
def tLanding : Dev :=
  let d := tPort tUp
  { d with fabric := { d.fabric with partials := [⟨7, 1, 32, none, []⟩] } }

/-- A payload in the Granary, one at its very end and one just past it, for the job at position 0; and a job without device 7. -/
theorem witness_PayloadLands :
    flitCrcOk (tFlit 1 3172477589) = true ∧ flitCrcOk (tFlit 1 590976245 0x3FFFDE0) = true
    ∧ flitCrcOk (tFlit 1 4173739475 0x3FFFE00) = true
    ∧ (∀ p ∈ [(tFlit 1 3172477589, 0x220), (tFlit 1 590976245 0x3FFFDE0, 2 ^ 26 - 32), (tFlit 1 4173739475 0x3FFFE00, 2 ^ 26)], let d := tLanding; let f := p.1
      let e : FlitArrival := ⟨f, [], 0, some 0, false⟩
      d.power.main = true ∧ d.port (3 : Fin 12).val = some tUp ∧ tUp.state = .up ∧ flitSeq f = tUp.expectSeq
      ∧ flitAt f 4 1 = 1 ∧ flitAt f 8 2 % 2 ^ 15 = d.live.fabricAddr ∧ flitAt f 5 1 % 4 = 3 ∧ memRef (flitAt f 0x10 8) = .croft 0 0x200
      ∧ e.job = some 0 ∧ d.job 0 = some (tPair []) ∧ flitAt f 0xA 2 % 2 ^ 15 ∈ (tPair []).devs
      ∧ d.croft ⟨0, Fin.ofNat 256 0⟩ = some (tCroft 0) ∧ Cells.wf (tCroft 0).granary = true ∧ 0x200 + flitAt f 0x18 4 = p.2
      ∧ 32 * (flitAt f 6 1 % 8) = 32 ∧ (p.2 + 32 ≤ 2 ^ 26 ∨ 2 ^ 26 < p.2 + 32)
      ∧ bitOf (flitAt f 7 1) 2 = false ∧ bitOf (flitAt f 7 1) 1 = true
      ∧ (d.fabric.partials.find? fun k => k.src == flitAt f 0xA 2 % 2 ^ 15 && k.tag == flitAt f 0xC 4) = some ⟨7, 1, 32, none, []⟩)
    ∧ flitAt (tFlit 1 3172477589) 0x18 4 + 32 = 32 + 32
    ∧ 7 ∉ ({ tPair [] with devs := [9, 8] } : Job).devs :=
  ⟨flit_data, flit_last, flit_past, by decide +kernel, by decide +kernel, by decide⟩

theorem witness_PortStates :
    (∀ st ∈ [PortState.down, .detect, .train, .measure, .exchange, .up, .retrain], let q := { tUp with state := st, replay := [0] }; let d := tPort q
      d.power.main = true ∧ d.port (3 : Fin 12).val = some q ∧ d.settings.portEnable.getD (3 : Fin 12).val false = true
      ∧ d.units.unfit = false ∧ d.job 0 = some (tPair []) ∧ q.replay.length = 1
      ∧ (tPair []).fault = none)
    ∧ (let q := { tUp with partner := List.replicate 8 0 ++ leBytes 2 7 }; leAt q.partner 8 2 % 2 ^ 15 ∈ (tPair []).devs)
    ∧ (let d := tPort Port.reset; let e := { d with settings := { d.settings with portEnable := List.replicate 12 false } }
      e.port (3 : Fin 12).val = some Port.reset ∧ e.settings.portEnable.getD (3 : Fin 12).val false = false) := by decide +kernel

theorem witness_PartnersAndLanes :
    (let q := { tUp with state := .exchange }; let d := tPort q
      let r : BitVec 512 := BitVec.ofNat 512 (7 * 2 ^ 64 + 0 * 2 ^ 112)
      let b := leBytes 64 r.toNat
      d.port (3 : Fin 12).val = some q ∧ leAt b 0xE 2 / 256 = d.boot.bundle / 256 ∧ leAt b 8 2 % 2 ^ 15 = 7 ∧ d.live.fabricAddr ≠ 0x7FFF
      ∧ d.live.fabricAddr ≠ 7 ∧ d.fabric.topo = []
      ∧ leAt (leBytes 64 (BitVec.ofNat 512 (9 * 2 ^ 64)).toNat) 8 2 % 2 ^ 15 = d.live.fabricAddr)
    ∧ (∀ q ∈ [tUp, { tUp with spare := true }, { tUp with spare := true, width := 4 }],
      (tPort q).port (3 : Fin 12).val = some q ∧ q.state = .up ∧ q.lanes.getLsbD (7 : Fin 9).val = true) := by decide +kernel

theorem witness_RoutesAndTime :
    (let d := tPort tUp; let r : LinkState := ⟨2, 7, 4, [(5, 0)], [], false⟩
      let e := { d with fabric := { d.fabric with topo := [{ r with generation := 3 }] } }
      let f := { d with fabric := { d.fabric with topo := [r] } }
      d.power.main = true ∧ r.deviceId ≠ d.fuses.deviceId ∧ r.lost = [] ∧ d.fabric.topo = []
      ∧ (∀ q ∈ e.fabric.topo, q.deviceId = r.deviceId → q.generation < r.generation)
      ∧ f.fabric.topo.find? (fun q => q.deviceId == r.deviceId) = some r ∧ r.generation ≤ r.generation
      ∧ r.address ∉ d.fabric.lost ∧ (∃ e ∈ r.ports, e.1 = 5) ∧ d.live.fabricAddr ∈ (tPair []).devs ∧ (tPair []).fault = none)
    ∧ (let d := tPort tUp
      d.job 0 = some (tPair []) ∧ 7 ∈ (tPair []).devs ∧ 7 ≠ d.live.fabricAddr ∧ (tPair []).fault = none)
    ∧ (let d := tPort tUp
      let m : OwnMsg := ⟨5, [bareFlit 1], false⟩; let r : Route := ⟨0, 3, [], 1⟩
      let e : Dev := { d with
        fabric := { d.fabric with messages := [m], routes := [r] }, live := { d.live with fabricAddr := 9, topology := 1 } }
      e.power.main = true ∧ e.fabric.messages.find? (fun k => k.tag == (5 : Word32).toNat) = some m ∧ m.adaptive = false
      ∧ e.routesTorus = false ∧ e.port r.primary = some tUp
      ∧ e.fabric.routes.find? (fun q => q.dest == flitAt (restartFlit (bareFlit 1)) 8 2 % 2 ^ 15) = some r)
    ∧ (∀ p ∈ [(TimePhase.syncing, false, false), (.synced, false, false), (.master, true, true), (.master, true, false), (.master, false, false)],
      let d := tPort tUp; let e : Dev := { d with fabric := { d.fabric with timeState := p.1, ptpValid := p.2.1, stepDue := p.2.2 } }
      e.power.main = true ∧ e.fabric.timeState = p.1 ∧ e.fabric.ptpValid = p.2.1 ∧ e.fabric.stepDue = p.2.2
      ∧ 1000000 < (-1000001 : Int).natAbs ∧ (1000000 : Int).natAbs ≤ 1000000) := by decide +kernel

/-! ## The dictionary and the doors -/

/-- A message of the dictionary: TYPE, INDEX, SUBINDEX, OFFSET, COUNT and data. -/
def tMsg (kind index sub off count : Nat) (data : List Byte) : List Byte :=
  leBytes 1 1 ++ leBytes 1 kind ++ leBytes 2 0 ++ leBytes 4 99 ++ leBytes 2 index ++ leBytes 1 sub ++ leBytes 1 0 ++ leBytes 4 off
    ++ leBytes 2 count ++ leBytes 14 0 ++ data

def tWriteMsg (index sub : Nat) (data : List Byte) : List Byte := tMsg 2 index sub 0 data.length data

/-- A device with an owner's session, whose mailbox holds a request. -/
def tOpen (m : List Byte) : Dev :=
  let d := tDevOf tJob []
  { d with
    settings := { d.settings with roleEntries := d.settings.roleEntries.set 0 (List.replicate 47 0 ++ [1] ++ leBytes 2 3), mailboxRole := 3 }
    hub := { d.hub with
      mgmtLink := true, sessions := d.hub.sessions.set 0 (some ⟨1, 0, [], Spdm.reset, 0⟩)
      mailbox := { d.hub.mailbox with busy := true, reqLen := BitVec.ofNat 32 m.length, request := m } } }

/-- A door executes a request with the owner's role. -/
def tExecutes (d : Dev) (door : Door) (m : List Byte) : Bool :=
  decide (d.takes door m = true ∧ d.keptReply door (BitVec.ofNat 32 (leAt m 4 4)) = none ∧ d.doorRole door = some 3 ∧ formatBad m = false)

theorem executes_of {d : Dev} {door : Door} {m : List Byte} (h : tExecutes d door m = true) : d.Executes door m 3 := by
  obtain ⟨a, b, c, e⟩ := of_decide_eq_true h
  exact ⟨a, b, c, e⟩

/-- `m` writes `bytes` to an entry. -/
def tWrites (m : List Byte) (index sub : Nat) (bytes : List Byte) : Bool :=
  decide (msgKind m = 2 ∧ (msgIndex m = index ∧ msgSub m = sub) ∧ msgOffset m = 0 ∧ leAt m 0x14 4 = 0 ∧ m.drop 32 = bytes)

theorem writes_of {m : List Byte} {i s : Nat} {b : List Byte} (h : tWrites m i s b = true) : Writes m i s b := by
  obtain ⟨a, b, c, e, f⟩ := of_decide_eq_true h
  exact ⟨a, b, c, e, f⟩

theorem witness_DictionaryReads :
    (∀ door ∈ [Door.session 0, .mailbox],
      -- READ of 0x1000:1 (8 bytes) at its end and beyond it; INFO of it; a READ of a free address.
      (∀ off ∈ [8, 9], let m := tMsg 1 0x1000 1 off 4 []; let d := tOpen m
        tExecutes d door m = true ∧ msgShadow m = false ∧ (odFind 0x1000 1).isSome = true
        ∧ (match odFind 0x1000 1 with
          | some r => decide (r.access ≠ 2 ∧ d.unavailable r 1 false = false ∧ r.index = 0x1000 ∧ d.sizeFor door r (1 - r.lo) = 8
              ∧ (r.get d (1 - r.lo)).length = 8)
          | none => false) = true)
      ∧ (let m := tMsg 3 0x1000 1 0 0 []; tExecutes (tOpen m) door m = true ∧ msgNext m = false)
      ∧ (∀ kind ∈ [1, 2, 3], let m := tMsg kind 0x0FFF 1 0 0 []; tExecutes (tOpen m) door m = true ∧ odFind 0x0FFF 1 = none
        ∧ msgNext m = false))
    ∧ (match odFind 0x8001 1, odFind 0x1000 1, odFind 0x9010 1 with
      | some a, some b, some c => decide (a.access = 2 ∧ b.access = 0 ∧ c.access ≠ 0 ∧ 2 < c.role)
      | _, _, _ => false) = true := by decide +kernel


theorem witness_DictionaryWrites :
    (∀ door ∈ [Door.session 0, .mailbox],
      (∀ p ∈ [(0x2010, 2, leBytes 4 1000), (0x2010, 2, leBytes 4 3000), (0x2010, 2, leBytes 4 999), (0x2010, 2, leBytes 4 3001),
          (0xB000, 1, leBytes 1 1), (0x7811, 1, leBytes 2 100), (0x7811, 1, leBytes 2 500), (0x7811, 1, leBytes 2 99),
          (0x7811, 1, leBytes 2 501), (0x4800, 2, leBytes 2 0x7FFF), (0x4800, 2, leBytes 2 0x8000), (0x7000, 1, leBytes 1 1),
          (0x1020, 2, leBytes 1 1), (0x4800, 5, leBytes 1 1), (0x5042, 1, leBytes 1 1), (0x6010, 4, leBytes 1 1), (0x7000, 2, leBytes 1 0),
          (0x9010, 32, List.replicate 48 0 ++ leBytes 2 3), (0x6010, 2, leBytes 1 0), (0x6010, 2, leBytes 1 1), (0x3004, 1, leBytes 1 0),
          (0x3004, 1, leBytes 1 1)],
        let m := tWriteMsg p.1 p.2.1 p.2.2
        tExecutes (tOpen m) door m = true ∧ tWrites m p.1 p.2.1 p.2.2 = true)
      ∧ (let m := tWriteMsg 0xB000 1 (leBytes 1 1)
        let d := tOpen m
        d.fuses.debugPolicy ≠ 1 ∧ tExecutes { d with fuses := { d.fuses with debugPolicy := 1 } } door m = true)
      ∧ (let m := tWriteMsg 0x2010 2 (leBytes 4 1000)
        let d := tOpen m; let e : Dev := { d with power := { d.power with emPower := true } }
        d.emergency = false ∧ e.emergency = true ∧ tExecutes e door m = true))
    ∧ (let d := tOpen [];
      d.power.main = true ∧ d.fuses.grade ≠ 2 ∧ (d.settings.roleEntries.getD 31 []).length = 50
      ∧ d.well.phase = .disabled ∧ (∃ c ∈ d.well.cells, c.state = .active)
      ∧ (∀ ph ∈ [WellPhase.starting, .ready], ({ d with well := { d.well with phase := ph } } : Dev).well.requests = [])
      ∧ (d.hub.sessions.getD 0 none).map (·.entry) = some 0) := by decide +kernel

/-- A record that revokes key slot 1 of device 1, signed under key slot 0. -/
def tRevoke : List Byte := [1, 0] ++ factoryKey
  ++ beBytes 48 0x8D999057BA3D2D969260045C55B97F089025959A6F434D651D207D19FB96E9E4FE0E86EBE0E64F85B96A9C75295DF61
  ++ beBytes 48 0x95C3481CAA22456ABFBF9848BE5FEF63F86253401808060F8AF2ECECB17144555D8C22F1CF6B9BB8685D1626C7807B8F

/-- A device with a second key, whose loaded Dremos image has ROLLBACK 1. -/
def tFuses (d : Dev) : Dev := { d with
  fuses := { d.fuses with rootKeyHash := [factoryKeyHash, 1, 0, 0] }
  boot := { d.boot with dremos := some (List.replicate 14 0 ++ leBytes 2 1) } }

theorem witness_FuseRequests : (tFuses (tOpen [])).revokeBad tRevoke = false ∧ tRevoke.length = 194
    ∧ (let d := tFuses (tOpen [])
      d.boot.revoke = none ∧ d.boot.confirm = none ∧ d.fusesOpen = true
      ∧ (d.boot.inUse 6).map imageRollback = some 1 ∧ d.fuses.rollback.getD 6 0 = 0
      ∧ (∀ run ∈ [(⟨1, false⟩ : FuseRun), ⟨0, false⟩, ⟨0, true⟩], (1 ≤ 0 + run.bits ↔ run.bits = 1) ∧ (0 + run.bits < 1 ↔ run.bits = 0)))
    ∧ (let d := tFuses (tOpen []); let e : Dev := { d with
        boot := { d.boot with revoke := some (tRevoke, 0, ⟨0, false⟩), confirm := some (6, 0, ⟨0, false⟩) }
        power := { d.power with readyAsked := true } }
      e.boot.revoke.isSome = true ∧ e.boot.confirm.isSome = true ∧ e.power.readyAsked = true ∧ d.power.readyAsked = false)
    ∧ (∀ asked : Bool, let m := tWriteMsg 0x2031 1 (leBytes 2 2); let d := tOpen m
      let e : Dev := { d with power := { d.power with main := false, readyAsked := asked } }
      tExecutes e (.session 0) m = true ∧ tWrites m 0x2031 1 (leBytes 2 2) = true ∧ e.power.standbyDue = false) := by
  refine ⟨?_, by decide +kernel, by decide +kernel, by decide +kernel, by decide +kernel⟩
  decide +kernel

theorem witness_DictionaryCommandsAndCommits :
    (∀ door ∈ [Door.session 0, .mailbox],
      (∀ p ∈ [(0x7800, 1, leBytes 1 79 ++ leBytes 1 3), (0x8002, 1, leBytes 1 5), (0x8006, 1, leBytes 1 6), (0x2031, 1, leBytes 2 1),
          (0x2031, 1, leBytes 2 2), (0x8001, 6, List.replicate 16 7), (0x9004, 1, tRevoke)],
        let m := tWriteMsg p.1 p.2.1 p.2.2
        tExecutes (tOpen m) door m = true ∧ tWrites m p.1 p.2.1 p.2.2 = true))
    ∧ (let d := tOpen [];
      d.power.main = true ∧ d.testable 79 = true ∧ d.test.state = .idle ∧ d.boot.act = .idle ∧ d.boot.confirm = none
      ∧ d.boot.revoke = none ∧ d.fusesOpen = true ∧ d.power.standbyDue = false ∧ stagedWhole (List.replicate 16 7) = false
      ∧ d.boot.flash.length = 2 ∧ ({ d with power := { d.power with level := 1 } } : Dev).fusesOpen = false)
    ∧ (let d := tOpen []
      let e : Dev := { d with boot := { d.boot with dremos := some (List.replicate 14 0 ++ leBytes 2 1), act := .queued }
                              test := { d.test with state := .waiting } }
      e.boot.inUse 6 = some (List.replicate 14 0 ++ leBytes 2 1) ∧ e.fuses.rollback.getD 6 0 < imageRollback (List.replicate 14 0 ++ leBytes 2 1)
      ∧ e.boot.act ≠ .idle ∧ e.test.state ≠ .idle)
    ∧ (∀ b ∈ [Block.management, .fabric, .ethernet, .well, .determinism], let d := tDevOf tJob []
      let p := { Staged.factory with fabricAddr := 3 }
      let e : Dev := { d with hub := { d.hub with commits := d.hub.commits.set (blockCode b) (some p) } }
      let f : Dev := { e with jobs := e.jobs.set 0 none }
      e.hub.commits.getD (blockCode b) none = some p ∧ e.noJob = false ∧ f.noJob = true ∧ f.power.aux = true ∧ f.pins.resetIn = false
      ∧ ({ e with pins := { e.pins with resetIn := true } } : Dev).pins.resetIn = true ∧ f.hub.commits.getD (blockCode b) none = some p) := by decide +kernel

theorem witness_Doors :
    (let d := tOpen [];
      d.power.aux = true ∧ d.pins.resetIn = false ∧ 2 ≤ d.boot.step ∧ d.hub.mgmtLink = true ∧ d.owned = true ∧ d.roleFor 1 = some 3
      ∧ d.roleFor 2 = none ∧ (d.hub.sessions.filter Option.isSome).length + d.handshakes < 16 ∧ d.well.phase = .disabled
      ∧ (d.hub.sessions.getD (0 : Fin 16).val none).isSome = true ∧ d.elapsedNs < 0 + 300000000000
      ∧ (let o : DtlsOffer := ⟨true, true, BitVec.ofNat 128 (0xFE80 * 2 ^ 112 + 1), 4747, [0x1301, 0x1302], [24], [0x0503]⟩
        d.reachesBirsiler o = true ∧ o.dest.extractLsb' 118 10 = 0x3FA ∧ (0x1302 : BitVec 16) ∈ o.suites ∧ (24 : BitVec 16) ∈ o.groups
        ∧ (0x0503 : BitVec 16) ∈ o.signatures ∧ d.reachesBirsiler { o with port := 4748 } = false
        ∧ ¬ (24 : BitVec 16) ∈ ({ o with groups := [23] } : DtlsOffer).groups)
      ∧ odFind 0x0FFF 1 = none ∧ (odFind 0x8001 1).any (fun r => r.access == 2) = true
      ∧ (odFind 0x2010 2).any (fun r => r.access != 2) = true ∧ (0x2010, 2) ∉ [(0x2010, 1)]
      ∧ ({ d with settings := { d.settings with roleEntries := d.settings.roleEntries.set 0 (List.replicate 47 0 ++ [1] ++ leBytes 2 2) } } : Dev).owned = false
      ∧ (∀ addr ∈ [(0x58 : BitVec 7), 0x5B], (addr.toNat = 0x58 + d.pins.straps.val ↔ addr = 0x58)))
    ∧ (let d := tOpen []; let e : Dev := { d with time := ⟨300000000000 * 36756720, 0⟩, well := { d.well with phase := .starting } };
      0 + 300000000000 ≤ e.elapsedNs ∧ e.well.phase = .starting)
    ∧ (∀ n ∈ [32, 1056], let d := tOpen []; let box := { d.hub.mailbox with busy := false, reqLen := BitVec.ofNat 32 n }
      let e : Dev := { d with hub := { d.hub with mailbox := box } }
      e.power.main = true ∧ (1 : Word32).getLsbD 0 = true ∧ e.hub.mailbox.busy = false ∧ 32 ≤ e.hub.mailbox.reqLen.toNat
      ∧ e.hub.mailbox.reqLen.toNat ≤ 1056)
    ∧ (∀ n ∈ [31, 1057], (BitVec.ofNat 32 n).toNat < 32 ∨ 1056 < (BitVec.ofNat 32 n).toNat)
    ∧ (4 : Word32).getLsbD 2 = true ∧ (4 : Word32).getLsbD 0 = false := by decide +kernel

/-! ## Test, activation and attestation -/

theorem witness_SlotTests :
    (∀ st ∈ [TestState.waiting, .running, .idle], let d := tDevOf tJob []
      let e : Dev := { d with test := { d.test with state := st, slot := 79 } }
      let f : Dev := { e with power := { e.power with level := 1 } }
      e.test.slot < 80 ∧ e.slots.length = 80 ∧ e.test.state = st ∧ e.power.main = true ∧ e.testable (79 : Fin 80).val = true
      ∧ e.powerState ≠ 4 ∧ f.powerState = 4 ∧ e.carried 79 = none ∧ e.crofts = [])
    ∧ (∀ xs ∈ [[], [{ tOff 0 with paused := true, vacated := some 79 }]], let d := tDevOf tJob xs
      let e : Dev := { d with
        boot := { d.boot with running := d.boot.running.set 5 (some ⟨false, []⟩) }
        test := { d.test with state := .running, slot := 79 }
        slots := d.slots.set 79 { Slot.factory with spare := .underTest, island := .idle } }
      (e.boot.inUse 5).isSome = true ∧ e.test.state = .running ∧ e.slots.length = 80
      ∧ (e.slots.getD (Fin.ofNat 80 e.test.slot).val Slot.factory).spare = .underTest
      ∧ ((∀ x ∈ e.crofts, x.paused = false) ∨ ∃ x ∈ e.crofts, x.paused = true ∧ x.vacated = some 79)) := by decide +kernel

theorem witness_Activation :
    (∀ p ∈ [(0, 0), (1, 0), (2, 0), (3, 0), (3, 18), (3, 19), (4, 0), (5, 0)], let d := tDevOf tJob []
      let e : Dev := { d with boot := { d.boot with act := .queued, actClass := p.1, switched := p.2 }, slots := List.replicate 80 Slot.factory }
      let cores := if p.1 = 3 then 20 else 1
      e.power.main = true ∧ e.boot.actClass ≤ 5 ∧ e.boot.running.length = 6 ∧ e.boot.act ≠ .idle ∧ e.emergency = false
      ∧ e.boot.switched < cores ∧ e.test.state ≠ .running ∧ (∀ t ∈ e.slots, t.island ≠ .run) ∧ e.boot.confirm = none
      ∧ e.boot.revoke = none ∧ (e.boot.governing.map (·.active.length)) = some 6 ∧ (p.2 = 0 → e.boot.switched = 0)
      ∧ e.boot.cores.length = 23 ∧ e.boot.current.length = 6 ∧ e.power.tjMax ≤ 1000 ∧ 10 * e.power.package ≤ 9 * (1000 * e.power.limit)
      ∧ e.pins.resetIn = false ∧ e.power.aux = true
      ∧ (let u : Dev := { e with power := { e.power with tjMax := 1001 } }; ¬ u.power.tjMax ≤ 1000))
    ∧ (let d := tDevOf tJob []; let e : Dev := { d with boot := { d.boot with confirm := some (5, 0, ⟨0, false⟩) } };
      e.boot.act = .idle ∧ e.boot.confirm = some (5, 0, ⟨0, false⟩) ∧ e.boot.revoke = none ∧ e.pins.resetIn = false ∧ e.power.aux = true)
    ∧ (let d := tDevOf tJob []; let e : Dev := { d with boot := { d.boot with released := true } }
      let bytes := List.replicate 512 (0 : Byte)
      e.boot.released = true ∧ e.boot.dremos = none ∧ e.boot.actClass ≤ 5 ∧ bytes.length = imageBody bytes + 512
      ∧ ([] : List Byte).length < imageBody [] + 512 ∧ e.verifyImage false 6 false bytes = some 0xB01)
    ∧ (let d : Dev := { State.reset.dev with pins := { State.reset.dev.pins with resetIn := true } }; d.pins.resetIn = true) := by
  decide +kernel

/-- A Dremos image of four bytes with BUNDLE 3.0, signed under key slot 0. -/
def tDremos : List Byte := factoryHeader 6 ++ beBytes 48 factorySigR
  ++ beBytes 48 0x39116B141FB7468C63944BFC9FA20DB8D1B2ABF0E9C1D1FA00FEB79DB6343C5B8EB9E34FC83BA7D9A366BC6F58444E23
  ++ List.replicate 160 0 ++ List.replicate 4 0

theorem witness_DremosVerifies : tDremos.length = imageBody tDremos + 512
    ∧ (let d := tDevOf tJob []
      let e : Dev := { d with boot := { d.boot with released := true, running := [some ⟨false, factoryImage 0⟩, none, none, none, none, none] } }
      e.boot.dremos = none ∧ e.verifyImage false 6 false tDremos = none) := by
  refine ⟨by decide +kernel, by decide +kernel, ?_⟩
  decide +kernel

/-- The requests of the responder, each with the phase in which it is answered. -/
def tSpdmRequests : List (List Byte × Nat) :=
  [([0x10, 0x84, 0, 0], 0), ([0x13, 0xE1, 0, 0] ++ List.replicate 16 0, 1),
   ([0x13, 0xE3, 1, 0, 32, 0, 1, 0, 0x80, 0, 0, 0, 2, 0, 0, 0] ++ List.replicate 16 0, 2), ([0x13, 0x81, 0, 0], 3),
   ([0x13, 0x83, 0, 0] ++ List.replicate 40 0, 3), ([0x13, 0xE0, 1, 0xFF] ++ List.replicate 41 0, 3),
   ([0x13, 0xE0, 0, 0] ++ List.replicate 8 0, 3), ([0x13, 0xFE, 0, 0], 0)]

theorem witness_Attestation : ∀ door ∈ [Door.session 0, .mailbox], ∀ p ∈ tSpdmRequests,
    let d := (tOpen []).onSpdm door fun x => { x with phase := p.2 }
    let x : Spdm := { Spdm.reset with phase := p.2 }
    let code := (p.1.getD 1 0).toNat
    d.power.aux = true ∧ d.power.main = true ∧ d.pins.resetIn = false ∧ 2 ≤ d.boot.step ∧ (d.doorRole door).isSome = true
    ∧ d.spdm door = some x ∧ d.spdmWaits door = false ∧ 4 ≤ p.1.length ∧ p.1.length ≤ 1024 ∧ d.well.phase = .disabled
    ∧ (code = 0xE3 → negotiateBad p.1 = false) ∧ (code = 0x83 → challengeBad p.1 = false)
    ∧ (code = 0xE0 → d.measuresBad p.1 = false ∧ measuresSigned p.1 = (p.1.getD 2 0 == 1)) := by decide +kernel

/-! ## Outside ports and the Well -/

/-- An Ethernet port whose rings of number 63 hold one descriptor at 0x1000, for a buffer of 128 bytes at 0x2000. -/
def tEth (p q : Ring) : Dev :=
  let d := tDevOf tJob []
  let e : EthPort := ⟨1, (List.replicate 64 Ring.reset).set 63 p, (List.replicate 64 Ring.reset).set 63 q, List.replicate 16 0⟩
  { d with
    hub := { d.hub with eth := d.hub.eth.set 3 e, pcie := { d.hub.pcie with rate := 32, windows := [(0x1000, 0x3000)] } }
    mem := writeBytes [] 0x1000 (leBytes 8 0x2000 ++ leBytes 2 128 ++ leBytes 2 3) }

def tRing : Ring := ⟨0x1000, 2, 0xFFFFFFFC, 0xFFFFFFFD, true, false, 0⟩

theorem witness_OutsidePorts :
    (let d := tEth tRing tRing; let desc := readBytes d.mem 0x1000 32;
      d.power.main = true ∧ d.hub.eth.length = 4 ∧ Cells.wf d.mem = true ∧ d.crofts = [] ∧ (∀ t ∈ d.slots, Cells.wf t.view = true)
      ∧ (d.hub.eth[(3 : Fin 4).val]?).map (·.link) = some 1 ∧ d.ring 3 true 63 = tRing ∧ d.ring 3 false 63 = tRing
      ∧ d.owned_ tRing = [desc] ∧ leAt desc 8 2 = 128 ∧ leAt desc 0 8 = 0x2000 ∧ d.hubRange 0x2000 128 = []
      ∧ bitOf (leAt desc 10 2) 1 = true ∧ d.readFaults 0x2000 128 = [] ∧ d.live.ethMode.getD (3 : Fin 4).val 0 = 0
      ∧ ((0 : Word32) - tRing.head).toNat = 4 ∧ ((0 : Word32) - tRing.tail).toNat ≤ 4 ∧ 4 < ((1 : Word32) - tRing.head).toNat)
    ∧ (let q := { tRing with tail := tRing.head }; (tEth q q).ring 3 false 63 = q ∧ (tEth q q).owned_ q = []) := by decide +kernel

theorem witness_EthernetFrames :
    (let d := tEth tRing tRing; let f := List.replicate 12 0 ++ [0x88, 0x08, 0x01, 0x01, 0, 0x80] ++ List.replicate 110 0
      let g := List.replicate 12 0 ++ [0x88, 0xF7] ++ List.replicate 114 0
      beNat (slice f 12 4) = 0x88080101 ∧ f.length = 128 ∧ (∀ e ∈ d.hub.eth, e.pfc.length = 16) ∧ bitOf (beNat (slice f 16 2)) 7 = true
      ∧ d.pausedBy 3 63 g = false ∧ beNat (slice g 12 2) = 0x88F7 ∧ leAt g 14 1 % 16 = 0 ∧ bitOf (leAt g 20 1) 1 = false
      ∧ beNat (slice f 12 2) ≠ 0x88F7 ∧ beNat (slice g 12 2) ≠ 0x8100 ∧ beNat (slice g 12 4) ≠ 0x88080101
      ∧ (let e : Dev := d.onEth 3 fun u => { u with pfc := List.replicate 16 1 }
        e.pausedBy 3 63 (e.read 0x2000 128) = true ∧ e.owned_ tRing = d.owned_ tRing))
    ∧ (let d := tEth tRing tRing; let f := List.replicate 12 0 ++ [0x88, 0x08, 0x01, 0x01, 0, 0x80] ++ List.replicate 110 0
      let g := List.replicate 12 0 ++ [0x88, 0xF7] ++ List.replicate 114 0
      (d.hub.eth[3]?).any (fun e => e.distributes 63 0 f && e.distributes 63 0 g) = true ∧ 60 ≤ g.length ∧ g.length ≤ 9596
      ∧ leAt (readBytes d.mem 0x1000 32) 8 2 = g.length ∧ 0x1000 + 32 * (tRing.head.toNat % 4) + 32 ≤ 0x2000) := by
  decide +kernel

theorem witness_PciePorts :
    (let d := tEth tRing tRing;
      d.hub.pcie.rate ≠ 0 ∧ (∃ w ∈ d.hub.pcie.windows, w.1.toNat ≤ 0x2000 ∧ 0x2000 + 4096 ≤ w.2.toNat)
      ∧ outsideTiers 0x2000 4096 = false ∧ d.readFaults 0x2000 4096 = [] ∧ inIrqFiles 0x2000 = false ∧ d.hubRange 0x2000 512 = []
      ∧ ¬ (∃ w ∈ d.hub.pcie.windows, w.1.toNat ≤ 0x2001 ∧ 0x2001 + 4096 ≤ w.2.toNat)
      ∧ (64 : Byte) ∈ ([2, 3, 5, 8, 16, 32, 64] : List Byte) ∧ (16 : Byte) ∈ ([1, 2, 4, 8, 16] : List Byte)
      ∧ (4 : Byte) ∉ ([2, 3, 5, 8, 16, 32, 64] : List Byte)
      ∧ (0x5002001FFFC : Nat) % 4 = 0 ∧ 0x50020000000 ≤ 0x5002001FFFC ∧ 0x5002001FFFC < 0x50020020000
      ∧ (2047 : Word32).toNat ≤ 2047 ∧ outsideTiers 0x50000000000 8 = true) := by decide +kernel

/-- A powered device whose Well is in a phase, with cell 0 as given. -/
def tWell (ph : WellPhase) (f : WellCell → WellCell) (g : Well → Well) : Dev :=
  let d := tDevOf tJob []
  { d with well := g { d.well with phase := ph, cells := modifyAt d.well.cells 0 f } }

theorem witness_WellCells :
    (∀ p ∈ [(false, 0), (false, 4), (true, 0)],
      let d := tWell .ready (fun c => { c with settling := p.1, startup := p.2, trim := 100 }) fun w => { w with drbg := { w.drbg with ready := true } }
      (d.well.cells[(0 : Fin 4).val]?).map (fun c => (c.settling, c.startup, c.state)) = some (p.1, p.2, .active)
      ∧ d.well.phase = .ready ∧ d.well.drbg.ready = true ∧ d.well.consecutive < 2 ∧ (recent d.elapsedNs d.well.window).length < 7
      ∧ (d.well.cells[(0 : Fin 4).val]?).map (fun c => ((recent d.elapsedNs c.failed).length, c.trim)) = some (0, 100))
    ∧ (let d := tWell .ready id fun w => { w with consecutive := 2 }; 2 ≤ d.well.consecutive)
    ∧ (∀ level ∈ [(0 : Fin 11), 1], let d := tWell .ready (fun c => { c with settling := true }) id
      let e : Dev := { d with power := { d.power with level := level } }
      e.fusesOpen = (level == 0) ∧ (e.well.cells[(0 : Fin 4).val]?).map (·.settling) = some true)
    ∧ (let d := tWell .ready (fun c => { c with trim := 100 }) id; let e : Dev := { d with time := ⟨60000000000 * 36756720, 0⟩ };
      (e.well.cells[(0 : Fin 4).val]?).map (fun c => decide (c.lastCal + 60000000000 ≤ e.elapsedNs)) = some true) := by decide +kernel

theorem witness_WellServes :
    (let d := tWell .ready id fun w => { w with drbg := { w.drbg with held := true } };
      d.well.phase = .ready ∧ d.well.drbg.held = true ∧ d.well.queue.length + 1024 ≤ 4096 ∧ d.well.requests = [])
    ∧ 4096 < 3073 + 1024
    ∧ (let d := tOpen []
      let e : Dev := { d with hub := { d.hub with mgmtLink := false } }
      let f : Dev := { d with settings := { d.settings with roleEntries := d.settings.roleEntries.set 0 (List.replicate 47 0 ++ [1] ++ leBytes 2 2) } }
      e.hub.mgmtLink = false ∧ d.entryFor 2 = none ∧ f.hub.mgmtLink = true ∧ (f.entryFor 1).isSome = true ∧ f.owned = false ∧ d.owned = true)
    ∧ (∀ n ∈ [64, 16], let r : WellReq := .watch (.dtls 1) n []
      let d : Dev := { tOpen [] with well := { (tOpen []).well with phase := .ready, queue := List.replicate 16 1, requests := [.lanes tRef [], r] } }
      d.well.phase = .ready ∧ 16 ≤ d.well.queue.length ∧ d.well.requests = [.lanes tRef []] ++ r :: [] ∧ d.entryFor 1 = some (0, 3)
      ∧ d.hub.mgmtLink = true ∧ d.hub.sessions.length = 16 ∧ d.hub.sessions.getD (1 : Fin 16).val none = none
      ∧ (d.hub.sessions.getD 0 none).isSome = true)
    ∧ (let d := tWell .ready id fun w => { w with queue := List.replicate 16 1, requests := [.lanes tRef []] };
      d.well.requests = .lanes tRef [] :: [] ∧ 0 + 16 < 20480 ∧ d.well.requests ≠ [])
    ∧ (let d := tWell .ready id fun w => { w with queue := [1, 2] }; d.well.requests = [] ∧ 2 ≤ d.well.queue.length)
    ∧ (∀ ph ∈ [WellPhase.failed, .starting, .disabled], (tWell ph id id).well.phase = ph ∧ (tWell ph id id).power.main = true)
    ∧ (∀ minute ∈ [0, 1], let a : Aggregate := ⟨0xE00A, 2, 11, minute, 7, 2 ^ 32 - 1, 5⟩; let d := tDevOf tJob []
      let e : Dev := { d with logs := { d.logs with aggregates := [a] }, time := ⟨60000000000 * 36756720, 0⟩ }
      e.logs.aggregates = [a] ∧ a.event = 0xE00A ∧ a.count < 2 ^ 32 ∧ e.logs.general.length < generalCap ∧ e.logs.raw = []
      ∧ e.pins.resetIn = false ∧ e.power.aux = true ∧ e.logs.count < 2 ^ 64 ∧ e.elapsedNs / 60000000000 = 1) := by decide +kernel

/-! ## Supplies, power and the board -/

theorem image_verifies_0 : Fuses.reset.imageFault 0 (factoryImage 0) = none := by decide +kernel
theorem image_verifies_1 : Fuses.reset.imageFault 1 (factoryImage 1) = none := by decide +kernel
theorem image_verifies_2 : Fuses.reset.imageFault 2 (factoryImage 2) = none := by decide +kernel
theorem image_verifies_3 : Fuses.reset.imageFault 3 (factoryImage 3) = none := by decide +kernel
theorem image_verifies_4 : Fuses.reset.imageFault 4 (factoryImage 4) = none := by decide +kernel

theorem witness_ResetAndStandby :
    (let d := State.reset.dev;
      d.power.aux = true ∧ d.pins.resetIn = true ∧ d.boot.active 0 = false ∧ d.boot.active 1 = false
      ∧ d.fuses.imageFault 0 (d.boot.slotImage false 0) = none ∧ d.fuses.imageFault 1 (d.boot.slotImage false 1) = none
      ∧ imageBundle (d.boot.slotImage false 1) / 256 = imageBundle (d.boot.slotImage false 0) / 256
      ∧ imageBundle (d.boot.slotImage true 0) / 256 = imageBundle (d.boot.slotImage false 0) / 256)
    ∧ (let d : Dev := { State.reset.dev with fuses := { Fuses.reset with rootRevoked := 1 } }
      d.fuses.imageFault 0 (d.boot.slotImage false 0) ≠ none ∧ d.fuses.imageFault 0 (d.boot.slotImage true 0) ≠ none)
    ∧ (let d : Dev := { State.reset.dev with power := { Power.factory with aux := false } }; d.power.aux = false)
    ∧ (let b := State.reset.dev.boot; b.flash.length = 2 ∧ (∀ l ∈ b.flash, l.length = 6) ∧ b.programAll [] = b
      ∧ classAt 0x100000 = some 0 ∧ classAt 0x6FFFFFF = some 5) :=
  ⟨⟨rfl, rfl, rfl, rfl, image_verifies_0, image_verifies_1, by decide +kernel, by decide +kernel⟩, by decide +kernel, rfl,
    rfl, by decide +kernel, rfl, by decide +kernel, by decide +kernel⟩

/-- A device in Standby, booted from slot A, that is to power up. -/
def tStandby : Dev := { State.reset.dev with
  power := { Power.factory with readyDue := true }
  pins := ⟨false, false, true, false, false, false, 0⟩
  boot := { Boot.factory with
    step := 4
    running := [some ⟨false, factoryImage 0⟩, some ⟨false, factoryImage 1⟩, none, none, none, none] } }

theorem witness_MainRails :
    (let d := tStandby;
      d.mayPowerUp = true ∧ d.boot.running.length = 6 ∧ d.boot.inUse 0 = some (factoryImage 0) ∧ d.well.requests = []
      ∧ d.crofts = [] ∧ d.slots.length = 80
      ∧ ∀ c ∈ [2, 3, 4], let bs := d.boot.slotImage (d.boot.active c) c;
        d.fuses.imageFault c bs = none ∧ imageBundle bs / 256 = imageBundle (factoryImage 0) / 256)
    ∧ (let d := tDevOf tJob []; let e : Dev := { d with power := { d.power with standbyDue := true }, jobs := d.jobs.set 0 none };
      d.mayPowerUp = false ∧ d.well.phase ≠ .starting ∧ d.power.main = true ∧ d.pins.resetIn = false
      ∧ ({ d with power := { d.power with refUnlocked := true } } : Dev).power.refUnlocked = true
      ∧ e.power.standbyDue = true ∧ e.noJob = true ∧ d.noJob = false ∧ d.logs.count < 2 ^ 64
      ∧ ({ tStandby with power := { tStandby.power with refUnlocked := true } } : Dev).power.main = false)
    ∧ (let m := tWriteMsg 0x2031 1 [2, 0]; let d := tOpen m; let e : Dev := { d with power := { d.power with main := false, readyDue := false } };
      tExecutes e (.session 0) m = true ∧ tWrites m 0x2031 1 [2, 0] = true ∧ e.power.standbyDue = false ∧ e.power.readyAsked = false) := by
  refine ⟨⟨rfl, rfl, rfl, rfl, rfl, by decide +kernel, ?_⟩, by decide +kernel, by decide +kernel⟩
  intro c h
  simp only [List.mem_cons, List.not_mem_nil, or_false] at h
  obtain rfl | rfl | rfl := h
  · exact ⟨image_verifies_2, by decide +kernel⟩
  · exact ⟨image_verifies_3, by decide +kernel⟩
  · exact ⟨image_verifies_4, by decide +kernel⟩

theorem witness_PowerAndHeat :
    (let p := Power.factory;
      ∀ q ∈ [{ p with main := true }, { p with main := true, level := 10 }, { p with main := true, tjMax := 1050 },
          { p with main := true, nextLimit := some 1000 }],
        q.main = true ∧ q.emPower = false ∧ q.emThermal = false)
    ∧ (let p : Power := { Power.factory with main := true, level := 10 }; p.level = 10 ∧ p.nextLimit.getD p.limit * 1000 < 3000001)
    ∧ (let p : Power := { Power.factory with main := true, emThermal := true, tjMax := 1100 }
      p.main = true ∧ p.emThermal = true ∧ p.emPower = false ∧ p.tjMax ≤ 1100 ∧ (1100 : Int) < { p with tjMax := 1101 }.tjMax)
    ∧ (∀ v ∈ [11400, 12600], let p : Power := { Power.factory with main := true, emPower := true, vin := some v, level := 10 }
      p.main = true ∧ p.emPower = true ∧ p.emThermal = false ∧ p.vin = some v ∧ 11400 ≤ v ∧ v ≤ 12600 ∧ p.level = 10
      ∧ ¬ 1000 * p.limit < p.package ∧ p.board = [] ∧ 1000 * p.limit < { p with package := 1000 * p.limit + 1 }.package
      ∧ (let b : BoardReg := ⟨0x40, 0, 0, 0, 0, 0, 0x800, 0⟩; b.missed < 3 ∧ b.status.getLsbD 11 = true))
    ∧ (let d := tDevOf tJob []; d.power.aux = true ∧ d.pins.thermtrip = false
      ∧ (List.replicate 112 (1150 : Int)).length = 112 ∧ (List.replicate 12 (0 : Int)).length = 12 ∧ d.pins.resetIn = false
      ∧ (let e : Dev := { d with boot := { d.boot with running := [none, some ⟨false, factoryImage 1⟩, none, none, none, none] } }
        (e.boot.inUse 1).isSome = true ∧ (d.boot.inUse 1).isSome = false) ∧ d.power.tj.length = 112)
    ∧ (let job := tPair []; let d := tDevOf job [];
      d.job 0 = some job ∧ 1 ≠ job.params.ldev ∧ 1 < job.params.devices ∧ 1 ∉ job.standing) := by decide +kernel

theorem witness_BoardAndClocks :
    (let d := tDevOf tJob [];
      d.power.aux = true ∧ d.pins.resetIn = false ∧ d.power.main = true
      ∧ (([⟨0x40, 0, 0⟩, ⟨0x4F, 1, 0x80⟩] : List PmbusFound).map (·.address)).Nodup ∧ d.fabric.timeState ≠ .master ∧ d.power.ppsLast = none
      ∧ (d.slot (0 : Fin 80)).map (fun u => (u.island, u.stretched)) = some (.run, false))
    ∧ (∀ at2 ∈ [1999998000, 2000002000], let d := tDevOf tJob []; let e : Dev := { d with power := { d.power with ppsLast := some 0 } };
      e.power.ppsLast = some 0 ∧ 0 + 1999998000 ≤ at2 ∧ at2 ≤ 0 + 2000002000)
    ∧ (∀ p ∈ [(0, false), (2, true)], let d := tDevOf tJob []
      let e : Dev := { d with power := { d.power with ppsLast := some 0, ppsEdges := p.1, ppsValid := p.2 } };
      e.power.ppsValid = p.2 ∧ (min 3 (p.1 + 1) = 3 ↔ p.2 = true) ∧ e.fabric.timeState ≠ .master
      ∧ ({ e with power := { e.power with main := false } } : Dev).power.main = false)
    ∧ (∀ st ∈ [TapState.captureDr, .shiftDr, .updateIr, .testLogicReset], let d := tDevOf tJob []
      let e : Dev := { d with tap := { d.tap with state := st } };
      e.power.aux = true ∧ e.tap.state = st ∧ e.tap.ir = 1) := by decide +kernel

/-! ## The block -/

theorem witness_IdleTick :
    (let d := tDev (tCroft 0);
      (d.slot (0 : Fin 80)).map (fun u => (u.island, u.stretched, d.emergency)) = some (.run, false, false)
      ∧ (d.slot (1 : Fin 80)).map (fun u => decide (u.island ≠ .run)) = some true ∧ d.croft tRef = some (tCroft 0)
      ∧ d.job tRef.job = some tJob ∧ tJob.params.laneFree = false) := by decide +kernel

/-- A croft of the tests has the sizes of its register files, stores and lists. -/
theorem tCroft_shaped : (tCroft 0).Shaped := by constructor <;> decide +kernel

/-- The premise of MemoriesKept and those of ShapesKept. -/
theorem witness_MemoriesAndShapes : (tDev (tCroft 0)).memoriesWf
    ∧ (State.wellQueued ⟨[.ctrlNop tRef], tDev (tCroft 0)⟩) ∧ (tDev (tCroft 0)).Shaped := by
  refine ⟨⟨rfl, by decide +kernel, by decide +kernel⟩, by simp [State.wellQueued, WellFormed],
    ⟨?_, ?_, ?_, ?_, ?_, ?_, ?_, ?_, ?_, ?_, ?_, ?_, ?_, ?_, ?_⟩⟩
  · intro x h
    have e : x = tCroft 0 := by simpa [tDev, tDevOf] using h
    exact e ▸ tCroft_shaped
  all_goals decide +kernel

theorem witness_FusesKept : ∃ t, step ⟨[.ppsInAbsent], State.reset.dev⟩ = .next t := ⟨_, rfl⟩

/-- Raw bits of a block that passes, and of one that fails. -/
theorem witness_WellBlocks :
    let good := (List.replicate 512 [true, false, false, true]).flatten
    let bad := (List.replicate 1024 [true, false]).flatten
    (debiased 1 good).length = 1024 ∧ (repetition false 0 (debiased 1 good)).2.2 = false ∧ proportionBad (debiased 1 good) = false
    ∧ (debiased 1 bad).length = 1024 ∧ proportionBad (debiased 1 bad) = true ∧ (debiased 0 bad).length = 1024
    ∧ (tWell .ready id id).well.cells.map (·.debias) = [1, 1, 1, 1]
    ∧ debiased 1 [true, false, true, true, false, true, false] = [true, false]
    ∧ debiased 0 [true, false, true, true, false, true, false] = [true, false, true] := by decide +kernel

/-! ## Commands that cannot happen -/

theorem test_ill_formed : ∀ c ∈ [
      Instr.mapChanged 0 [(1, 2), (1, 3)], .mapChanged 0 [(1, 2), (3, 2)], .tjSample [] (List.replicate 12 0),
      .tjSample (List.replicate 112 0) [], .railMeasurement 0 0 [], .pmbusPoll [⟨0x50, 0, 0, 0, 0, true⟩],
      .pmbAlertN [⟨0x40, 0, 0, 0, 0, true⟩, ⟨0x40, 0, 0, 0, 0, true⟩], .pmbusScan [⟨0x3F, 0, 0⟩], .powerUpSequence ⟨0, [], [], []⟩,
      .portPhaseDone 0 (.measured [] 0), .queueEnable 0 0,
      .queueDisable 0 0x80000000, .mailboxGo 4, .mailboxDoneClear 0, .mailboxDoneClear 5, .routerFailure .hubPort (4, 0)],
    WellFormed c = false := by decide

end Sys2Proof.Tests
end

section
/-!
SUPPORT. The canonical form of the byte memories (Obligations.MemoriesKept), part by part: which parts of a device hold byte
memories, and what the shared operations do to them. `Dev.memoriesWf.f` says that the operation `Dev.f` keeps the form; its proof
follows the branches of `Dev.f`, through the lemmas of the operations it calls. A record update that touches no memory keeps the
form as it stands, so that there the hypothesis itself is the proof.
-/

namespace Sys2Proof.Machine

/-! ## The parts of a device that hold byte memories -/

/-- The Granary of every croft of a list is in canonical form. -/
def croftsWf (l : List Croft) : Prop := ∀ x ∈ l, Cells.wf x.granary = true

/-- What every slot of a list shows of its own is in canonical form. -/
def slotsWf (l : List Slot) : Prop := ∀ t ∈ l, Cells.wf t.view = true

/-- Every flash region of a list is in canonical form. -/
def regionsWf (l : List Cells) : Prop := ∀ m ∈ l, Cells.wf m = true

/-- The SRAM of every core of a list is in canonical form. -/
def coresWf (l : List Core) : Prop := ∀ k ∈ l, Cells.wf k.sram = true

/-- The bytes of every message of a list that is being received are in canonical form. -/
def partialsWf (l : List Partial) : Prop := ∀ p ∈ l, Cells.wf p.bytes = true

section parts
variable {d : Dev} (h : d.memoriesWf)
include h

theorem Dev.memoriesWf.mem : Cells.wf d.mem = true := h.1
theorem Dev.memoriesWf.crofts : croftsWf d.crofts := h.2.1
theorem Dev.memoriesWf.slots : slotsWf d.slots := h.2.2.1
theorem Dev.memoriesWf.regions : regionsWf d.boot.regions := h.2.2.2.1
theorem Dev.memoriesWf.cores : coresWf d.boot.cores := h.2.2.2.2.1
theorem Dev.memoriesWf.partials : partialsWf d.fabric.partials := h.2.2.2.2.2

end parts

/-- A device is in canonical form when each of its parts that hold byte memories is, whatever its other fields are. -/
theorem Dev.memoriesWf_mk {fuses time slots jobs crofts cmds nextCmd queues mem memPoison units mesh pins power boot test
    well tap fabric hub settings live shadow bars signals sent logs mapGen irqs freeCount} :
    (Dev.mk fuses time slots jobs crofts cmds nextCmd queues mem memPoison units mesh pins power boot test well tap fabric hub
      settings live shadow bars signals sent logs mapGen irqs freeCount).memoriesWf ↔
    Cells.wf mem = true ∧ croftsWf crofts ∧ slotsWf slots ∧ regionsWf boot.regions ∧ coresWf boot.cores
      ∧ partialsWf fabric.partials := Iff.rfl

/-! ## Choices, lists and folds -/

/-- Either branch of a conditional device. -/
theorem Dev.memoriesWf.ite {d : Dev} (hd : d.memoriesWf) {c : Prop} {_ : Decidable c} {e : Dev} (he : e.memoriesWf) :
    (if c then d else e).memoriesWf := by split <;> assumption

/-- Folding an operation that keeps the canonical form keeps it. -/
theorem foldl_memoriesWf {α : Type} {f : Dev → α → Dev} {d : Dev} {l : List α} (h : d.memoriesWf)
    (hf : ∀ e a, e.memoriesWf → (f e a).memoriesWf) : (l.foldl f d).memoriesWf :=
  List.foldlRecOn l f h fun e he a _ => hf e a he

theorem croftsWf_map {l : List Croft} {f : Croft → Croft} (h : croftsWf l)
    (hf : ∀ x, Cells.wf x.granary = true → Cells.wf (f x).granary = true) : croftsWf (l.map f) := by
  simpa [croftsWf] using fun x hx => hf x (h x hx)

theorem croftsWf_filter {l : List Croft} {p : Croft → Bool} (h : croftsWf l) : croftsWf (l.filter p) :=
  fun x hx => h x (List.mem_of_mem_filter hx)

theorem slotsWf_map {l : List Slot} {f : Slot → Slot} (h : slotsWf l)
    (hf : ∀ t, Cells.wf t.view = true → Cells.wf (f t).view = true) : slotsWf (l.map f) := by
  simpa [slotsWf] using fun t ht => hf t (h t ht)

theorem slotsWf_modifyAt {l : List Slot} {i : Nat} {f : Slot → Slot} (h : slotsWf l)
    (hf : ∀ t, Cells.wf t.view = true → Cells.wf (f t).view = true) : slotsWf (modifyAt l i f) := fun t ht => by
  rcases modifyAt_mem ht with ht | ⟨u, hu, rfl⟩
  · exact h t ht
  · exact hf u (h u hu)

/-! ## The shared updates of a device -/

section updates
variable {d : Dev} (h : d.memoriesWf)
include h

/-- The Granary of a croft that the device holds. -/
theorem Dev.memoriesWf.granary {c : CroftRef} {x : Croft} (hx : d.croft c = some x) : Cells.wf x.granary = true :=
  h.crofts x (Dev.croft_mem hx)

theorem Dev.memoriesWf.withCrofts {l : List Croft} (hl : croftsWf l) : { d with crofts := l }.memoriesWf :=
  ⟨h.mem, hl, h.slots, h.regions, h.cores, h.partials⟩

theorem Dev.memoriesWf.withSlots {l : List Slot} (hl : slotsWf l) : { d with slots := l }.memoriesWf :=
  ⟨h.mem, h.crofts, hl, h.regions, h.cores, h.partials⟩

theorem Dev.memoriesWf.withBoot {b : Boot} (hr : regionsWf b.regions) (hc : coresWf b.cores) :
    { d with boot := b }.memoriesWf := ⟨h.mem, h.crofts, h.slots, hr, hc, h.partials⟩

theorem Dev.memoriesWf.withFabric {f : Fabric} (hf : partialsWf f.partials) : { d with fabric := f }.memoriesWf :=
  ⟨h.mem, h.crofts, h.slots, h.regions, h.cores, hf⟩

theorem Dev.memoriesWf.setCroft {x : Croft} (hx : Cells.wf x.granary = true) : (d.setCroft x).memoriesWf :=
  h.withCrofts (croftsWf_map h.crofts fun y hy => by split <;> assumption)

theorem Dev.memoriesWf.onCroft {c : CroftRef} {f : Croft → Croft}
    (hf : ∀ x, Cells.wf x.granary = true → Cells.wf (f x).granary = true) : (d.onCroft c f).memoriesWf :=
  h.withCrofts (croftsWf_map h.crofts fun y hy => by split <;> simp [hf, hy])

theorem Dev.memoriesWf.onSlot {s : Fin 80} {f : Slot → Slot}
    (hf : ∀ t, Cells.wf t.view = true → Cells.wf (f t).view = true) : (d.onSlot s f).memoriesWf :=
  h.withSlots (slotsWf_modifyAt h.slots hf)

/-- An update of a croft beside its Granary. -/
theorem Dev.memoriesWf.onCroftBeside {c : CroftRef} {f : Croft → Croft}
    (hf : ∀ x, (f x).granary = x.granary := by intro; rfl) : (d.onCroft c f).memoriesWf :=
  h.onCroft fun x hx => (hf x).symm ▸ hx

/-- An update of a slot beside its view. -/
theorem Dev.memoriesWf.onSlotBeside {s : Fin 80} {f : Slot → Slot}
    (hf : ∀ t, (f t).view = t.view := by intro; rfl) : (d.onSlot s f).memoriesWf :=
  h.onSlot fun t ht => (hf t).symm ▸ ht

theorem Dev.memoriesWf.write {a : Nat} {bs : List Byte} : (d.write a bs).memoriesWf :=
  ⟨wf_writeBytes _ _ _ h.mem, h.crofts, h.slots, h.regions, h.cores, h.partials⟩

theorem Dev.memoriesWf.event {v severity kind source : Nat} {detail : Word64} :
    (d.event v severity kind source detail).memoriesWf := h
theorem Dev.memoriesWf.eventOpen {v kind source : Nat} : (d.eventOpen v kind source).memoriesWf := h
theorem Dev.memoriesWf.draw : d.draw.2.memoriesWf := h
theorem Dev.memoriesWf.drawBytes {n : Nat} : (d.drawBytes n).2.memoriesWf := h

end updates

theorem Croft.wf_write {x : Croft} {a : Nat} {bs : List Byte} (hx : Cells.wf x.granary = true) :
    Cells.wf (x.write a bs).granary = true := wf_writeBytes _ _ _ hx

theorem Croft.wf_clear {x : Croft} {a n : Nat} (hx : Cells.wf x.granary = true) :
    Cells.wf (x.clear a n).granary = true := wf_clearBytes _ _ _ hx

end Sys2Proof.Machine
end

section
/-!
SUPPORT. The canonical form of the byte memories: halting a job, firmware images in use, and the sequencer
(none of them writes a Granary).
-/

namespace Sys2Proof.Machine

/-! ### Halting and the shared operations -/

@[simp] theorem Croft.granary_halt {staleness : Nat} {x : Croft} : (x.halt staleness).granary = x.granary := by
  have key : ∀ y : Croft, y.granary = x.granary →
      (if y.fieldWaits staleness then y.stopField else
        match y.units.field with
        | some r => if InstrWord.operation r.ins.word = some .sweep then
            { y with field := { y.field with target := min y.field.target (y.runSweeps + 1) } } else y
        | none => y).granary = x.granary := fun y hy => by
    split
    · exact hy
    · split
      · split <;> exact hy
      · exact hy
  exact key _ rfl

/-- What an event at a croft comes to has its Granary in canonical form. -/
def Did.granaryWf : Did → Prop
  | .ok x => Cells.wf x.granary = true
  | .fault _ _ => True

theorem Did.granaryWf.of_ok {r : Did} {x : Croft} (hr : r.granaryWf) (h : r = .ok x) : Cells.wf x.granary = true := by
  subst h; exact hr

section
variable {d : Dev} (h : d.memoriesWf)
include h

theorem Dev.memoriesWf.onJob {j : Fin 64} {f : Job → Job} : (d.onJob j f).memoriesWf := h

theorem Dev.memoriesWf.send {m : Sent} : (d.send m).memoriesWf := h

theorem Dev.memoriesWf.corrected {event kind source detail : Nat} : (d.corrected event kind source detail).memoriesWf := h

theorem Dev.memoriesWf.changedMore {k index sub : Nat} : (d.changedMore k index sub).memoriesWf := h

theorem Dev.memoriesWf.thereAndBack {index sub : Nat} : (d.thereAndBack index sub).memoriesWf := h

theorem Dev.memoriesWf.eventNamed {e : Config.NamedEvent} {kind source : Nat} : (d.eventNamed e kind source).memoriesWf := h

theorem Dev.memoriesWf.eventNamedWith {e : Config.NamedEvent} {kind source : Nat} {detail : Word64} :
    (d.eventNamedWith e kind source detail).memoriesWf := h

theorem Dev.memoriesWf.faultEvent {code : Nat} {slot : Option (Fin 80)} {detail : Word64} :
    (d.faultEvent code slot detail).memoriesWf := by
  unfold Dev.faultEvent
  split <;> exact h.event

theorem Dev.memoriesWf.commandFault {code : Nat} : (d.commandFault code).memoriesWf := h

theorem Dev.memoriesWf.haltJob {j : Fin 64} {fr : FaultRec} {slot : Option (Fin 80)} {carrier : Option Nat} {other : Nat} :
    (d.haltJob j fr slot carrier other).memoriesWf := by
  unfold Dev.haltJob
  split
  · exact h
  next job _ =>
    have hc : croftsWf (d.crofts.map fun x => if x.job == j then x.halt job.params.staleness else x) :=
      croftsWf_map h.crofts fun x hx => by split <;> simp [hx]
    have hd := h.withCrofts hc
    split
    · exact h.faultEvent
    · refine foldl_memoriesWf (.faultEvent ?_) fun _ _ he => he.commandFault
      split <;> exact hd

theorem Dev.memoriesWf.croftFaultIn {c : CroftRef} {code index step : Nat} : (d.croftFaultIn c code index step).memoriesWf := by
  unfold Dev.croftFaultIn
  split
  · exact h.haltJob
  · exact h

theorem Dev.memoriesWf.croftFault {c : CroftRef} {code index : Nat} : (d.croftFault c code index).memoriesWf := by
  unfold Dev.croftFault
  split
  · exact h.croftFaultIn
  · exact h

theorem Dev.memoriesWf.jobFault {j : Fin 64} {code : Nat} {carrier : Option Nat} : (d.jobFault j code carrier).memoriesWf :=
  h.haltJob

theorem Dev.memoriesWf.apply {c : CroftRef} {r : Did} (hr : r.granaryWf) : (d.apply c r).memoriesWf := by
  cases r with
  | ok x => exact h.setCroft hr
  | fault code i => exact h.croftFault

end

/-! ### Firmware images and activation -/

/-- An image is loaded into an empty SRAM. -/
theorem Core.wf_load {n : Nat} {img : RunImage} : Cells.wf (Core.load n img).sram = true := by
  simp only [Core.load]
  exact wf_writeBytes _ _ _ Cells.wf_nil

theorem Boot.wf_loadCores {b : Boot} (h : coresWf b.cores) {ks : List Nat} {img : RunImage} :
    coresWf (b.loadCores ks img).cores := by
  refine List.foldlRecOn (motive := coresWf) ks _ h fun l hl k _ x hx => ?_
  rcases List.mem_or_eq_of_mem_set hx with hx | rfl
  · exact hl x hx
  · exact Core.wf_load

theorem Boot.wf_use {b : Boot} (h : coresWf b.cores) {c : Nat} {img : RunImage} : coresWf (b.use c img).cores :=
  Boot.wf_loadCores h

@[simp] theorem Boot.suspend_regions {b : Boot} : b.suspend.regions = b.regions := by
  unfold Boot.suspend
  split <;> rfl

@[simp] theorem Boot.suspend_cores {b : Boot} : b.suspend.cores = b.cores := by
  unfold Boot.suspend
  split <;> rfl

section
variable {d : Dev} (h : d.memoriesWf)
include h

theorem Dev.memoriesWf.gainFirmware {c : Nat} {image : List Byte} : (d.gainFirmware c image).memoriesWf := h

theorem Dev.memoriesWf.firmwareFault {code : Nat} : (d.firmwareFault code).memoriesWf := h

theorem Dev.memoriesWf.endRequest {c code : Nat} : (d.endRequest c code).memoriesWf := by
  unfold Dev.endRequest
  exact .ite (by exact h) (.firmwareFault (by exact h))

theorem Dev.memoriesWf.endActivation {code : Nat} : (d.endActivation code).memoriesWf := by
  unfold Dev.endActivation
  refine .ite (.eventOpen (.endRequest ?_)) (.endRequest ?_) <;> exact h

theorem Dev.memoriesWf.takeImage {c : Nat} {slotB : Bool} : (d.takeImage c slotB).memoriesWf := by
  unfold Dev.takeImage
  dsimp only
  split <;> exact h

theorem Dev.memoriesWf.restartWatch : d.restartWatch.memoriesWf := h

theorem Dev.memoriesWf.restartBailiff : d.restartBailiff.memoriesWf := h.withSlots (slotsWf_map h.slots fun _ ht => ht)

theorem Dev.memoriesWf.activationSwitch {signing : Bool} : (d.activationSwitch signing).memoriesWf := by
  unfold Dev.activationSwitch
  have h1 {ks : List Nat} {img : RunImage} := h.withBoot
    (b := Boot.loadCores { d.boot with act := .activating, switched := d.boot.switched + 1 } ks img) h.regions
    (Boot.wf_loadCores h.cores)
  refine .ite h (.ite ?_ (.ite (.restartBailiff (.takeImage ?_)) (.endActivation (.ite (.restartWatch ?_) ?_))))
  · exact h1
  · exact h1
  · refine .ite (.takeImage ?_) (.changedMore (.takeImage ?_)) <;> exact h1
  · refine .ite (.takeImage ?_) (.changedMore (.takeImage ?_)) <;> exact h1

end

/-! ### The sequencer -/

theorem Croft.signal_granaryWf {x : Croft} {w : InstrWord} {i : Nat} (hx : Cells.wf x.granary = true) :
    (x.signal w i).granaryWf := by
  dsimp only [Croft.signal]
  split
  · split
    · trivial
    · exact hx
  · exact hx

theorem Croft.done_granaryWf {x : Croft} {w : InstrWord} {next : Nat} (hx : Cells.wf x.granary = true) :
    (x.done w next).granaryWf := Croft.signal_granaryWf hx

@[simp] theorem Croft.granary_cinit {x : Croft} {w : InstrWord} : (x.cinit w).granary = x.granary := rfl

@[simp] theorem Croft.granary_restoreOne {free : Bool} {x : Croft} {k : Nat} {img : List Byte} :
    (x.restoreOne free k img).granary = x.granary := by
  dsimp only [Croft.restoreOne]
  repeat' split
  all_goals rfl

@[simp] theorem Croft.granary_trackRun {x : Croft} {c0 n : Nat} : (x.trackRun c0 n).granary = x.granary := by
  unfold Croft.trackRun
  split <;> rfl

@[simp] theorem Croft.granary_cureCtx {x : Croft} {c0 n : Nat} : (x.cureCtx c0 n).granary = x.granary := rfl

@[simp] theorem Croft.granary_unclaim {x : Croft} {w : InstrWord} : (x.unclaim w).granary = x.granary := by
  unfold Croft.unclaim
  split <;> rfl

/-- Contexts restored one after the other leave the Granary. -/
theorem Croft.granary_restore {x : Croft} {free : Bool} {c0 : Nat} {l : List (List Byte × Nat)} :
    (l.foldl (fun y p => y.restoreOne free (c0 + p.2) p.1) x).granary = x.granary :=
  List.foldlRecOn (motive := fun y : Croft => y.granary = x.granary) l _ rfl fun _ hy _ _ => by simpa using hy

section
variable {d : Dev} (h : d.memoriesWf)
include h

theorem Dev.memoriesWf.boundary {c : CroftRef} {x : Croft} {next ldev : Nat} (hx : Cells.wf x.granary = true) :
    (d.boundary c x next ldev).memoriesWf := by
  have hd : (d.setCroft (x.boundary next)).memoriesWf := h.setCroft hx
  dsimp only [Dev.boundary]
  split
  · exact hd
  · split
    · exact .ite (.eventOpen (.onSlotBeside (.onSlotBeside (by exact hd)))) (.onSlotBeside (by exact hd))
    · exact hd

theorem Dev.memoriesWf.issueCtx {c : CroftRef} {x : Croft} {w : InstrWord} {op : Op} {free : Bool}
    (hx : Cells.wf x.granary = true) : (d.issueCtx c x w op free).memoriesWf := by
  have hu : (d.setCroft (x.unclaim w)).memoriesWf := h.setCroft (by simpa using hx)
  dsimp only [Dev.issueCtx]
  refine .ite (h.setCroft (by exact hx)) ?_
  split
  · exact hu.croftFault
  · split
    · exact h.apply (Croft.done_granaryWf (by simpa using hx))
    · exact .ite hu.croftFault (h.write.apply (Croft.done_granaryWf hx))
    · exact h.apply (Croft.done_granaryWf (by simpa [Croft.granary_restore] using hx))

theorem Dev.memoriesWf.issueEdge {c : CroftRef} {x : Croft} {w : InstrWord} {op : Op} {job : Job}
    (hx : Cells.wf x.granary = true) : (d.issueEdge c x w op job).memoriesWf := by
  have hs : ((x.advance (x.seq.pc + 1)).signal w x.seq.pc).granaryWf := Croft.signal_granaryWf hx
  have hf {code i : Nat} : ((d.boundary c (x.advance (x.seq.pc + 1)) (x.seq.pc + 1) job.params.ldev).croftFaultIn c code i
      x.seq.step).memoriesWf := (h.boundary (by exact hx)).croftFaultIn
  dsimp only [Dev.issueEdge]
  refine .ite (h.setCroft (by exact hx)) ?_
  split
  · split
    next y hy => exact h.boundary (hs.of_ok hy)
    · exact hf
  · exact h.boundary hx
  · split
    next y hy =>
      have hg := hs.of_ok hy
      exact h.boundary hg
    · exact hf

theorem Dev.memoriesWf.issueSync {c : CroftRef} {x : Croft} {w : InstrWord} {op : Op} (hx : Cells.wf x.granary = true) :
    (d.issueSync c x w op).memoriesWf := by
  have hh : (d.setCroft x.hold).memoriesWf := h.setCroft hx
  dsimp only [Dev.issueSync]
  split
  · exact hh.ite (h.apply (Croft.done_granaryWf hx))
  · exact hh.ite (h.apply (Croft.done_granaryWf hx))
  · exact .ite (h.apply (Croft.done_granaryWf (by exact hx))) (.ite (.croftFault (h.setCroft (by exact hx)))
      (h.apply (Croft.done_granaryWf hx)))

theorem Dev.memoriesWf.issueCtrl {c : CroftRef} {x : Croft} {w : InstrWord} {op : Op} (hx : Cells.wf x.granary = true) :
    (d.issueCtrl c x w op).memoriesWf := by
  dsimp only [Dev.issueCtrl]
  split <;> exact h.apply (Croft.done_granaryWf hx)

theorem Dev.memoriesWf.closeLaunch {c : CroftRef} : (d.closeLaunch c).memoriesWf := by
  unfold Dev.closeLaunch
  split
  · exact h
  · exact .ite (by exact h) h

theorem Dev.memoriesWf.issueOp {c : CroftRef} {x : Croft} {w : InstrWord} {op : Op} {job : Job}
    (hx : Cells.wf x.granary = true) : (d.issueOp c x w op job).memoriesWf := by
  dsimp only [Dev.issueOp]
  split
  · refine .ite (h.setCroft ?_) (.ite (h.setCroft ?_) (h.setCroft ?_)) <;> exact hx
  · split
    · exact h.issueCtx hx
    · exact h.issueCtx hx
    · exact h.issueCtx hx
    · exact h.issueEdge hx
    · exact h.issueEdge hx
    · exact (h.issueEdge hx).closeLaunch
    · exact h.issueSync hx
    · exact h.issueSync hx
    · exact h.issueSync hx
    · exact h.issueCtrl hx

theorem Dev.memoriesWf.issue {c : CroftRef} : (d.issue c).memoriesWf := by
  dsimp only [Dev.issue]
  split
  next x job hx _ =>
    have hg := h.granary hx
    refine .ite h (.ite h.croftFault (.ite h.croftFault ?_))
    split
    · exact h.croftFault
    · refine .ite (h.setCroft (by exact hg)) ?_
      split
      · refine h.issueOp ?_
        show Cells.wf (if _ then _ else _ : Croft).granary = true
        split <;> exact hg
      · exact h
  · exact h

theorem Dev.memoriesWf.settle {c : CroftRef} : (d.settle c).memoriesWf := by
  unfold Dev.settle
  split
  · exact .ite h.issue h
  · exact h

theorem Dev.memoriesWf.issueRow {op : Op} {c : CroftRef} : (d.issueRow op c).memoriesWf := by
  dsimp only [Dev.issueRow]
  split
  · exact h
  · exact .ite h (.ite h.issue (.ite h.issue h))

end

end Sys2Proof.Machine
end

section
/-!
SUPPORT. The canonical form of the byte memories: the instructions of a croft, which write its Granary through `Croft.write` and
their row accumulators.
-/

namespace Sys2Proof.Machine

/-! ### The Field -/

@[simp] theorem Croft.granary_fieldLoad {x : Croft} {s : Nat} {bs : List Byte} : (x.fieldLoad s bs).granary = x.granary := rfl

@[simp] theorem Croft.granary_latch {x : Croft} {b : Nat} : (x.latch b).granary = x.granary := rfl

@[simp] theorem Croft.granary_sync {x : Croft} : x.sync.granary = x.granary := rfl

@[simp] theorem Croft.granary_beginSweep {free : Bool} {r : Running} {x : Croft} :
    (x.beginSweep free r).granary = x.granary := by
  dsimp only [Croft.beginSweep]
  split
  · split <;> rfl
  · rfl

theorem Croft.trySync_granaryWf {x : Croft} {s : Nat} {free : Bool} (hx : Cells.wf x.granary = true) :
    (x.trySync s free).granaryWf := by
  dsimp only [Croft.trySync]
  split
  · exact hx
  · split
    · exact hx
    · split
      · show Cells.wf (Croft.beginSweep _ _ _).granary = true
        simpa using hx
      · trivial

@[simp] theorem Croft.granary_dropField {x : Croft} : x.dropField.granary = x.granary := rfl

@[simp] theorem Croft.granary_stopIfHalted {x : Croft} {s : Nat} : (x.stopIfHalted s).granary = x.granary := by
  unfold Croft.stopIfHalted
  split <;> rfl

/-- A FIELD instruction that completes leaves the Granary in canonical form. -/
theorem Croft.wf_finishField {x y : Croft} {s : Nat} {r : Running} (hx : Cells.wf x.granary = true)
    (hy : x.finishField s r = some y) : Cells.wf y.granary = true := by
  dsimp only [Croft.finishField] at hy
  split at hy
  · cases hy; exact hx
  · split at hy <;> cases hy
    exact hx
  · split at hy
    · cases hy
    · obtain ⟨hist, -, rfl⟩ := Option.map_eq_some_iff.mp hy
      exact Croft.wf_write hx
  · split at hy <;> cases hy
    split
    · exact Croft.wf_write (Croft.wf_write hx)
    · exact Croft.wf_write hx
  · cases hy

section
variable {d : Dev} (h : d.memoriesWf)
include h

theorem Dev.memoriesWf.applySync {c : CroftRef} {x : Croft} {s : Nat} {free : Bool} (hx : Cells.wf x.granary = true) :
    (d.applySync c x s free).memoriesWf := by
  dsimp only [Dev.applySync]
  split
  next y hy => exact h.setCroft ((Croft.trySync_granaryWf hx).of_ok hy)
  · exact .croftFault (h.setCroft (by exact hx))

theorem Dev.memoriesWf.sendEdges {x : Croft} {ldev : Nat} {mk : Nat → Nat → Option (Fin 80) → Nat → Sent} :
    (d.sendEdges x ldev mk).memoriesWf :=
  foldl_memoriesWf h fun _ _ he => by
    split
    · exact he.send
    · exact he

theorem Dev.memoriesWf.startField {c : CroftRef} {x : Croft} {job : Job} {r : Running} (hx : Cells.wf x.granary = true) :
    (d.startField c x job r).memoriesWf := by
  dsimp only [Dev.startField]
  refine .ite (h.setCroft (by simpa using hx)) (.applySync (.sendEdges (h.setCroft ?_)) ?_) <;> exact hx

theorem Dev.memoriesWf.fieldPhaseEnd {c : CroftRef} : (d.fieldPhaseEnd c).memoriesWf := by
  dsimp only [Dev.fieldPhaseEnd]
  split
  next x job hx _ =>
    have hg := h.granary hx
    refine .ite h ?_
    split
    · exact h
    · refine .sendEdges (.setCroft ?_ (by simpa using hg))
      split
      · exact .ite h.onSlotBeside h
      · exact h
  · exact h

theorem Dev.memoriesWf.fieldSweepEnd {c : CroftRef} : (d.fieldSweepEnd c).memoriesWf := by
  dsimp only [Dev.fieldSweepEnd]
  split
  next x job hx _ =>
    have hg := h.granary hx
    split
    · refine .ite h (h.setCroft ?_)
      split <;> simpa using hg
    · exact h
  · exact h

theorem Dev.memoriesWf.commitSnapshot {c : CroftRef} : (d.commitSnapshot c).memoriesWf := by
  dsimp only [Dev.commitSnapshot]
  split
  next x job hx _ =>
    have hg := h.granary hx
    split
    · exact h
    · split
      · exact h
      · refine .ite h (h.setCroft ?_)
        dsimp only
        apply Croft.wf_write hg
  · exact h

theorem Dev.memoriesWf.haloRecord {c : CroftRef} {r : HaloRec} : (d.haloRecord c r).memoriesWf := by
  dsimp only [Dev.haloRecord]
  split
  next x hx =>
    have hg := h.granary hx
    split
    · exact h
    · exact .ite h (h.setCroft hg)
  · exact h

theorem Dev.memoriesWf.measureHalo {x : Croft} {e : Fin 4} : (d.measureHalo x e).memoriesWf := by
  unfold Dev.measureHalo
  split
  · exact h.onSlotBeside
  · exact h

theorem Dev.memoriesWf.haloHandshake {c : CroftRef} {e : Fin 4} {k : Handshake} : (d.haloHandshake c e k).memoriesWf := by
  dsimp only [Dev.haloHandshake]
  split
  next x job hx _ =>
    have hg := h.granary hx
    exact .measureHalo (h.applySync (by exact hg))
  · exact h

theorem Dev.memoriesWf.haloStall {c : CroftRef} : (d.haloStall c).memoriesWf := by
  dsimp only [Dev.haloStall]
  split
  next x job hx _ =>
    have hg := h.granary hx
    split
    · exact .ite (.croftFault (h.setCroft (by exact hg))) h
    · exact h
  · exact h

end

/-! ### Mesh traffic -/

section
variable {d : Dev} (h : d.memoriesWf)
include h

theorem Dev.memoriesWf.grant {vcs : List Nat} {nodes : List (Nat × Nat)} : (d.grant vcs nodes).memoriesWf := by
  unfold Dev.grant
  split <;> exact h

theorem Dev.memoriesWf.carry {a b : Place} : (d.carry a b).memoriesWf := h.grant

theorem Dev.memoriesWf.hubTraffic : d.hubTraffic.memoriesWf := h.carry

theorem Dev.memoriesWf.control {job : Job} {a b : Place} : (d.control job a b).memoriesWf := .ite h.grant h

end

/-! ### Transfers of the move unit and the mesh unit -/

@[simp] theorem Croft.granary_setLanded {x : Croft} {mesh : Bool} : (x.setLanded mesh).granary = x.granary := by
  unfold Croft.setLanded
  split <;> rfl

section
variable {d : Dev} (h : d.memoriesWf)
include h

theorem Dev.memoriesWf.putAt {map : MapCopy} {c : CroftRef} {ref : MemRef} {a : Nat} {bs : List Byte} :
    (d.putAt map c ref a bs).memoriesWf := by
  unfold Dev.putAt
  split
  · exact h.write
  · exact h.onCroft fun _ hx => Croft.wf_write hx

theorem Dev.memoriesWf.moveData {map : MapCopy} {c : CroftRef} {zero : Bool} {m : MoveDesc} :
    (d.moveData map c zero m).memoriesWf :=
  foldl_memoriesWf h fun _ _ he => he.putAt

theorem Dev.memoriesWf.moveTraffic {c : CroftRef} {zero : Bool} {m : MoveDesc} : (d.moveTraffic c zero m).memoriesWf := by
  have one {e : Dev} (he : e.memoriesWf) {p : Prop} {_ : Decidable p} {a b : Place} :
      (if p then e else e.carry a b).memoriesWf := .ite he he.carry
  dsimp only [Dev.moveTraffic]
  exact one (.ite h (one h))

theorem Dev.memoriesWf.meshTraffic {c : CroftRef} {tgts : List (Fin 256)} : (d.meshTraffic c tgts).memoriesWf := h.grant

theorem Dev.memoriesWf.meshData {c : CroftRef} {x : Croft} {mcast : Bool} {bs : List Byte} {ldev : Nat} :
    (d.meshData c x mcast bs ldev).memoriesWf := by
  dsimp only [Dev.meshData]
  exact .ite (foldl_memoriesWf h fun _ _ he => he.onCroft fun _ hy => Croft.wf_write hy)
    (.ite (h.onCroft fun _ hy => Croft.wf_write hy) h)

theorem Dev.memoriesWf.mcastResult {c : CroftRef} {bs : List Byte} : (d.mcastResult c bs).memoriesWf := by
  dsimp only [Dev.mcastResult]
  refine h.onCroft fun x hx => ?_
  split
  · apply Croft.wf_write hx
  · dsimp only
    apply Croft.wf_write hx

theorem Dev.memoriesWf.writeAcknowledgement {c : CroftRef} {mesh : Bool} : (d.writeAcknowledgement c mesh).memoriesWf := by
  dsimp only [Dev.writeAcknowledgement]
  split
  next x job hx _ =>
    split
    · exact h
    · refine .ite h (.onCroft (.ite (.meshTraffic h.meshData) (.moveTraffic h.moveData)) fun _ hy => ?_)
      simpa using hy
  · exact h

theorem Dev.memoriesWf.multicastAcceptance {c : CroftRef} : (d.multicastAcceptance c).memoriesWf := by
  dsimp only [Dev.multicastAcceptance]
  split
  next x job hx _ =>
    split
    · exact h
    · exact .ite h (.onCroft (.meshTraffic h.meshData) fun _ hy => by exact hy)
  · exact h

theorem Dev.memoriesWf.transferTimeout {c : CroftRef} {mesh : Bool} : (d.transferTimeout c mesh).memoriesWf := by
  dsimp only [Dev.transferTimeout]
  split
  · exact h
  next x hx =>
    have hg := h.granary hx
    split
    · exact h
    · refine .ite h (.croftFault (h.setCroft ?_))
      split <;> exact hg

end

/-! ### Start and completion of queued instructions -/

@[simp] theorem Croft.granary_setRunning {x : Croft} {u : UnitId} {r : Option Running} :
    (x.setRunning u r).granary = x.granary := by
  unfold Croft.setRunning
  split <;> rfl

@[simp] theorem Croft.granary_cureBank {x : Croft} {mill : Nat} {span : Nat × Nat} :
    (x.cureBank mill span).granary = x.granary := rfl

@[simp] theorem Croft.granary_preload {x : Croft} {unit : Nat} : (x.preload unit).granary = x.granary := by
  unfold Croft.preload
  split
  · rfl
  · split <;> rfl

@[simp] theorem Croft.granary_loadWeights {x : Croft} {r : Running} : (x.loadWeights r).granary = x.granary := by
  dsimp only [Croft.loadWeights]
  split <;> simp

@[simp] theorem Croft.granary_finishMill {x : Croft} {r : Running} : (x.finishMill r).granary = x.granary := by
  dsimp only [Croft.finishMill]
  split
  · split <;> simp
  · rfl

theorem DrainAcc.wf_drainRow {q : DrainDesc} {t : Tile} {fam : Bool} {s : DrainAcc} {i : Nat}
    (h : Cells.wf s.granary = true) : Cells.wf (drainRow q t fam s i).granary = true := by
  have put {s : DrainAcc} (hs : Cells.wf s.granary = true) {a : Nat} {bs : List Byte} :
      Cells.wf (s.put a bs).granary = true := wf_writeBytes _ _ _ hs
  dsimp only [drainRow]
  have out {s : DrainAcc} (hs : Cells.wf s.granary = true) {p : Prop} {_ : Decidable p} {a : Nat} {bs : List Byte} :
      Cells.wf (if p then s else s.put a bs).granary = true := by
    split
    · exact hs
    · exact put hs
  split
  · exact put (out (by exact h))
  · exact out (by exact h)

theorem Croft.wf_finishRed {x : Croft} {free : Bool} {r : Running} (hx : Cells.wf x.granary = true) :
    Cells.wf (x.finishRed free r).granary = true := by
  dsimp only [Croft.finishRed]
  split
  · exact List.foldlRecOn (motive := fun s : DrainAcc => Cells.wf s.granary = true) _ _ hx fun _ hs _ _ =>
      DrainAcc.wf_drainRow hs
  · exact hx

theorem Croft.wf_finishEmit {x : Croft} {r : Running} (hx : Cells.wf x.granary = true) :
    Cells.wf (x.finishEmit r).granary = true :=
  List.foldlRecOn (motive := fun y : Croft => Cells.wf y.granary = true) _ _ hx fun y hy i _ => by
    split
    · exact Croft.wf_write hy
    · exact hy

theorem SampAcc.wf_put {s : SampAcc} {a : Nat} {bs : List Byte} (h : Cells.wf s.granary = true) :
    Cells.wf (s.put a bs).granary = true := by
  unfold SampAcc.put
  split
  · exact h
  · exact wf_writeBytes _ _ _ h

theorem SampAcc.wf_putCols {s : SampAcc} {a w : Nat} {cols : List (Option Nat)} (h : Cells.wf s.granary = true) :
    Cells.wf (s.putCols a w cols).granary = true :=
  List.foldlRecOn (motive := fun g => Cells.wf g = true) _ _ h fun g hg p _ => by
    split
    · exact wf_writeBytes _ _ _ hg
    · exact hg

theorem SampAcc.wf_putDraws {s : SampAcc} {q : SampDesc} {i : Nat} {cols : List (Option Bool)}
    (h : Cells.wf s.granary = true) : Cells.wf (s.putDraws q i cols).granary = true := by
  dsimp only [SampAcc.putDraws]
  split
  · exact SampAcc.wf_put h
  · exact SampAcc.wf_putCols h

theorem SampAcc.wf_gumbRow {q : SampDesc} {s : SampAcc} {base i : Nat} {ys : List Word32} (h : Cells.wf s.granary = true) :
    Cells.wf (gumbRow q s base i ys).granary = true := by
  dsimp only [gumbRow]
  split
  · split <;> exact h
  · split
    · exact SampAcc.wf_put h
    · exact SampAcc.wf_putDraws h

theorem SampAcc.wf_takeRow {q : SampDesc} {s : SampAcc} {i : Nat} (h : Cells.wf s.granary = true) :
    Cells.wf (takeRow q s i).granary = true := by
  dsimp only [takeRow]
  split
  · exact h
  · exact SampAcc.wf_put h

theorem SampAcc.wf_maskRow {q : SampDesc} {s : SampAcc} {i : Nat} {ys : Option (List Word32)} (h : Cells.wf s.granary = true) :
    Cells.wf (maskRow q s i ys).granary = true := by
  dsimp only [maskRow]
  split
  · exact SampAcc.wf_putDraws h
  · exact SampAcc.wf_putCols h

/-- A row of a sampler instruction writes its output, and nothing else of the Granary. -/
theorem SampAcc.wf_sampRow {op : Op} {q : SampDesc} {fam : Bool} {base : Nat} {rows : Option (List (List Word32))}
    {s : SampAcc} {i : Nat} (h : Cells.wf s.granary = true) : Cells.wf (sampRow op q fam base rows s i).granary = true := by
  dsimp only [sampRow]
  split
  · exact SampAcc.wf_putDraws h
  · exact SampAcc.wf_putDraws h
  · exact SampAcc.wf_gumbRow h
  · exact SampAcc.wf_takeRow h
  · exact SampAcc.wf_maskRow h
  · split <;> exact SampAcc.wf_putCols h

theorem Croft.wf_finishSamp {x y : Croft} {free : Bool} {r : Running} {op : Op} (hx : Cells.wf x.granary = true)
    (hy : x.finishSamp free r op = some y) : Cells.wf y.granary = true := by
  dsimp only [Croft.finishSamp] at hy
  split at hy
  · cases hy
    exact List.foldlRecOn (motive := fun s : SampAcc => Cells.wf s.granary = true) _ _ hx fun _ hs _ _ => SampAcc.wf_sampRow hs
  · cases hy

section
variable {d : Dev} (h : d.memoriesWf)
include h

theorem Dev.memoriesWf.launchUnit {c : CroftRef} {x : Croft} {job : Job} {r : Running} (hx : Cells.wf x.granary = true) :
    (d.launchUnit c x job r).memoriesWf := by
  have hr {y : Croft} (hy : y.granary = x.granary) : (d.setCroft y).memoriesWf := h.setCroft (by rwa [hy])
  dsimp only [Dev.launchUnit]
  split
  · exact .ite (hr (by simp)) (hr (by simp))
  · exact hr (by simp)
  · exact h.startField hx
  · exact h.startField hx
  · exact h.startField hx
  · exact .ite (hr (by simp)) (.send (by exact hr (by simp)))
  · exact hr (by simp)
  · exact .ite (hr (by simp)) (hr (by simp))
  · exact .ite (hr (by simp)) (hr (by simp))
  · exact hr (by simp)

theorem Dev.memoriesWf.instructionStart {c : CroftRef} {q : QueueId} : (d.instructionStart c q).memoriesWf := by
  dsimp only [Dev.instructionStart]
  split
  next x job hx _ =>
    have hg := h.granary hx
    split
    · exact h
    · split
      · exact h
      · refine .ite h ?_
        split
        · exact .croftFault (h.setCroft (by exact hg))
        · refine .ite h (.settle (h.launchUnit ?_))
          split <;> exact hg
  · exact h

theorem Dev.memoriesWf.freeCycles {x : Croft} {job : Job} {r : Running} : (d.freeCycles x job r).memoriesWf := by
  dsimp only [Dev.freeCycles]
  split
  · exact .ite h.onSlotBeside h
  · exact h

/-- A unit that completes its instruction leaves every memory in canonical form. -/
theorem Dev.memoriesWf.finishUnit {e : Dev} {c : CroftRef} {x : Croft} {job : Job} {r : Running}
    (hx : Cells.wf x.granary = true) (he : d.finishUnit c x job r = some e) : e.memoriesWf := by
  have field {o} (ho : o = (x.finishField job.params.staleness r).map d.setCroft) (he : o = some e) : e.memoriesWf := by
    obtain ⟨y, hy, rfl⟩ := Option.map_eq_some_iff.mp (ho.symm.trans he)
    exact h.setCroft (Croft.wf_finishField hx hy)
  have move {o} {p q : Prop} {_ : Decidable p} {_ : Decidable q} {m z r}
      (ho : o = if p then some d else if q then some (d.moveData m c z r) else none) (he : o = some e) : e.memoriesWf := by
    rw [ho] at he
    split at he
    · cases he; exact h
    · split at he <;> cases he
      exact h.moveData
  unfold Dev.finishUnit at he
  split at he
  · cases he; exact h.setCroft (by simpa using hx)
  · split at he <;> cases he
    exact .freeCycles (h.setCroft (Croft.wf_finishRed hx))
  · cases he; exact h.setCroft (Croft.wf_finishEmit hx)
  · exact field rfl he
  · exact field rfl he
  · exact field rfl he
  · exact field rfl he
  · exact move rfl he
  · exact move rfl he
  · split at he <;> cases he
    exact h
  · split at he <;> cases he
    exact h.mcastResult
  · obtain ⟨y, hy, rfl⟩ := Option.map_eq_some_iff.mp he
    exact .freeCycles (h.setCroft (Croft.wf_finishSamp hx hy))
  · cases he

theorem Dev.memoriesWf.instructionCompletion {c : CroftRef} {u : UnitId} : (d.instructionCompletion c u).memoriesWf := by
  dsimp only [Dev.instructionCompletion]
  split
  next x job hx _ =>
    split
    · exact h
    · split
      · exact h
      next e he =>
        have he := h.finishUnit (h.granary hx) he
        split
        · exact he
        next y hy =>
          have hg := he.granary hy
          split
          next z hz => exact .settle (he.setCroft ((Croft.signal_granaryWf (by simpa using hg)).of_ok hz))
          · exact .croftFault (he.setCroft (by simpa using hg))
  · exact h

end

end Sys2Proof.Machine
end

section
/-!
SUPPORT. The canonical form of the byte memories: bindings, replay and the happenings at slots. A croft that leaves its slot leaves
its Granary there to be seen, and a slot that is taken or switched off shows nothing.
-/

namespace Sys2Proof.Machine

/-! ### Slots and bindings -/

theorem Slot.wf_off {t : Slot} : Cells.wf t.off.view = true := rfl

/-- A slot whose croft leaves it shows the croft's Granary, which is in canonical form. -/
theorem Slot.wf_vacate {x : Croft} {t : Slot} (hx : Cells.wf x.granary = true) (ht : Cells.wf t.view = true) :
    Cells.wf (Slot.vacate x t).view = true := by
  unfold Slot.vacate
  split
  · exact Slot.wf_off
  · split
    · exact ht
    · exact hx

@[simp] theorem Croft.granary_unwindSweep {x : Croft} : x.unwindSweep.granary = x.granary := by
  unfold Croft.unwindSweep
  split <;> rfl

section
variable {d : Dev} (h : d.memoriesWf)
include h

theorem Dev.memoriesWf.installMap : d.installMap.memoriesWf := h.withSlots (slotsWf_map h.slots fun _ ht => ht)

theorem Dev.memoriesWf.mapChange {js : List (Fin 64)} : (d.mapChange js).memoriesWf := by
  dsimp only [Dev.mapChange]
  exact foldl_memoriesWf (.event (.installMap (by exact h))) fun _ _ he => he.onJob

theorem Dev.memoriesWf.dropSeeding {c : CroftRef} : (d.dropSeeding c).memoriesWf := h

theorem Dev.memoriesWf.rebindLanes {c : CroftRef} : (d.rebindLanes c).memoriesWf := by
  unfold Dev.rebindLanes
  split
  next x job hx _ =>
    extract_lets e refuse
    have he : e.memoriesWf := h.dropSeeding.onCroftBeside
    refine .ite he ?_
    split
    · exact .croftFault (by exact he)
    · exact .croftFault (by exact he)
    · exact he
  · exact h

theorem Dev.memoriesWf.unbind {c : CroftRef} {home vacated : Option (Fin 80)} : (d.unbind c home vacated).memoriesWf := by
  unfold Dev.unbind
  split
  · exact h
  next x hx =>
    have hg := h.granary hx
    refine .onCroftBeside (.dropSeeding ?_)
    split
    · exact h.onSlot fun _ ht => Slot.wf_vacate hg ht
    · exact h

theorem Dev.memoriesWf.bind {c : CroftRef} {s : Fin 80} : (d.bind c s).memoriesWf := by
  unfold Dev.bind
  split
  · exact h
  · refine .rebindLanes (.onSlot (.onCroftBeside h.unbind) fun t _ => ?_)
    dsimp only
    split <;> rfl

theorem Dev.memoriesWf.moveOff {c : CroftRef} {old : Fin 80} : (d.moveOff c old).memoriesWf := by
  unfold Dev.moveOff
  split
  · exact .mapChange h.bind
  · split <;> exact .mapChange h.unbind

end

/-! ### Check errors, replay and moving a croft -/

@[simp] theorem Croft.granary_rollback {x : Croft} {s : Nat} {free storage : Bool} :
    (x.rollback s free storage).granary = x.granary := by
  unfold Croft.rollback
  split <;> rfl

section
variable {d : Dev} (h : d.memoriesWf)
include h

theorem Dev.memoriesWf.fence {s : Fin 80} : (d.fence s).memoriesWf := by
  dsimp only [Dev.fence]
  refine .ite (.eventOpen (h.onSlot fun t ht => ?_)) h
  dsimp only
  split
  · exact Slot.wf_off
  · exact ht

theorem Dev.memoriesWf.onErrors {u : Nat} {f : MemErrors → MemErrors} : (d.onErrors u f).memoriesWf := h

theorem Dev.memoriesWf.logPoison {kind source detail : Nat} : (d.logPoison kind source detail).memoriesWf := h

theorem Dev.memoriesWf.poisonDevice {a : Nat} : (d.poisonDevice a).memoriesWf := h

theorem Dev.memoriesWf.poisonWord {c : CroftRef} {s : Fin 80} {w : WordLoc} : (d.poisonWord c s w).memoriesWf := by
  unfold Dev.poisonWord
  split
  · exact h.poisonDevice
  · refine .logPoison (.onSlotBeside (h.onCroft fun x hx => ?_))
    split <;> exact hx

theorem Dev.memoriesWf.noteCheck {c : CroftRef} {s : Fin 80} {k : CheckKind} : (d.noteCheck c s k).memoriesWf := by
  unfold Dev.noteCheck
  split
  · exact h.onSlotBeside
  · exact h.onSlotBeside
  · exact h
  · exact .ite h.poisonWord h

theorem Dev.memoriesWf.checkErrorReplay {c : CroftRef} {k : CheckKind} : (d.checkErrorReplay c k).memoriesWf := by
  unfold Dev.checkErrorReplay
  split
  next x job hx _ =>
    split
    · exact h
    next s _ =>
      extract_lets d₁ free d₂ d₃ d₄
      have h₁ : d₁.memoriesWf := h.noteCheck
      have h₂ : d₂.memoriesWf := h₁.onCroftBeside
      have h₄ : d₄.memoriesWf := .corrected h₂.onSlotBeside
      exact .ite h₁ (.ite h₄.croftFault (.ite h₄ (.ite (.fence h₄.onCroftBeside)
        (.croftFault (foldl_memoriesWf h₄ fun _ _ he => he.eventOpen)))))
  · exact h

theorem Dev.memoriesWf.fieldErrorRollback {c : CroftRef} {storage : Bool} : (d.fieldErrorRollback c storage).memoriesWf := by
  unfold Dev.fieldErrorRollback
  split
  next x job hx _ =>
    split
    · exact h
    next s _ =>
      extract_lets d₁ n fencedHere fences _ y _ d₂ d₃
      have hg := h.granary hx
      have h₁ : d₁.memoriesWf := h.onSlotBeside
      have hy : Cells.wf y.granary = true := by
        simp only [y]
        split
        · simpa using hg
        · split <;> exact hg
      have h₂ : d₂.memoriesWf := h₁.setCroft hy
      have h₃ : d₃.memoriesWf := by
        simp only [d₃]
        split
        · exact h₂.onSlotBeside
        · exact h₂
      exact .ite h₁ (.ite h₁.croftFault (.ite h₃.fence h₃))
  · exact h

theorem Dev.memoriesWf.snapshotCommit {c : CroftRef} : (d.snapshotCommit c).memoriesWf := by
  unfold Dev.snapshotCommit
  split
  · exact h.commitSnapshot
  · exact h.fieldErrorRollback
  · exact h

theorem Dev.memoriesWf.lanePositioningDone {c : CroftRef} {set : Fin 5} : (d.lanePositioningDone c set).memoriesWf := by
  unfold Dev.lanePositioningDone
  split
  next x job hx _ =>
    have hg := h.granary hx
    split
    · exact h
    · exact .ite h (h.setCroft hg)
  · exact h

theorem Dev.memoriesWf.relocate {c : CroftRef} {old : Fin 80} {readable : Bool} : (d.relocate c old readable).memoriesWf := by
  unfold Dev.relocate
  split
  · exact h
  · exact .ite (.fence h.croftFault) (.onSlot h.moveOff (by exact fun _ _ => Slot.wf_off))

theorem Dev.memoriesWf.replace {c : CroftRef} {x : Croft} {job : Job} {old : Fin 80} : (d.replace c x job old).memoriesWf := by
  unfold Dev.replace
  refine .ite h ?_
  split
  · exact .ite h.moveOff h
  · exact h.onCroftBeside

theorem Dev.memoriesWf.croftMove {c : CroftRef} {readable : Bool} : (d.croftMove c readable).memoriesWf := by
  unfold Dev.croftMove
  split
  · split
    · split
      · exact h.replace
      · exact h
    · exact .ite h.relocate (.ite h (.relocate (h.onCroft fun _ hy => by simpa using hy)))
  · exact h

theorem Dev.memoriesWf.croftSwitch {slot : Fin 80} {into : CroftRef} : (d.croftSwitch slot into).memoriesWf := by
  unfold Dev.croftSwitch
  split
  · refine .ite h ?_
    split
    · exact .ite (.mapChange h.bind) h
    · exact .ite h (.ite (.mapChange (.bind h.unbind)) (.mapChange h.unbind))
  · exact h

theorem Dev.memoriesWf.mapChanged {j : Fin 64} {binds : List (Fin 256 × Fin 80)} : (d.mapChanged j binds).memoriesWf := by
  unfold Dev.mapChanged
  split
  · exact h
  · exact .ite h (.mapChange (foldl_memoriesWf (foldl_memoriesWf h fun _ _ he => he.unbind) fun _ _ he => he.bind))

end

/-! ### Happenings at slots, memories and routers -/

section
variable {d : Dev} (h : d.memoriesWf)
include h

theorem Dev.memoriesWf.islandPark {s : Fin 80} : (d.islandPark s).memoriesWf := by
  unfold Dev.islandPark
  split
  · exact .ite h.onSlotBeside h
  · exact h

theorem Dev.memoriesWf.islandResume {s : Fin 80} : (d.islandResume s).memoriesWf := by
  unfold Dev.islandResume
  split
  · exact .ite (.settle h.onSlotBeside) h
  · exact h

theorem Dev.memoriesWf.resumeChecked {s : Fin 80} : (d.resumeChecked s).memoriesWf := by
  unfold Dev.resumeChecked
  split
  · exact h
  · extract_lets c busy e
    have he : e.memoriesWf := h.onCroftBeside
    exact .ite (.ite h (.mapChange he.bind)) (.ite he.moveOff he)

theorem Dev.memoriesWf.generatorCheck {slot : Option (Fin 80)} {lanesGood : Bool} :
    (d.generatorCheck slot lanesGood).memoriesWf := by
  unfold Dev.generatorCheck
  split
  · extract_lets good _ e
    have he : e.memoriesWf := h.withBoot h.regions h.cores
    exact .ite he.endActivation he
  · split
    · exact .ite h (.ite (.resumeChecked h.onSlotBeside)
        (.resumeChecked (.eventOpen (.onSlot (by exact h) (by exact fun t _ => Slot.wf_off (t := t))))))
    · exact h

theorem Dev.memoriesWf.poisonGranary {s : Fin 80} {o : Nat} : (d.poisonGranary s o).memoriesWf := by
  unfold Dev.poisonGranary
  split
  · exact h.poisonWord
  · exact .logPoison h.onSlotBeside

theorem Dev.memoriesWf.countCorrected {s : Fin 80} {n : Nat} : (d.countCorrected s n).memoriesWf := by
  unfold Dev.countCorrected
  split
  · exact h
  · exact .corrected h.onSlotBeside

theorem Dev.memoriesWf.granaryForcedScrub {s : Fin 80} {bank : Fin 64} {corrected : Nat} {lost : List Nat} :
    (d.granaryForcedScrub s bank corrected lost).memoriesWf := by
  unfold Dev.granaryForcedScrub
  split
  · exact .ite h (foldl_memoriesWf h.countCorrected fun _ _ he => he.poisonGranary)
  · exact h

theorem Dev.memoriesWf.granaryRowRepair {s : Fin 80} {bank : Fin 64} {row : Fin 32768} :
    (d.granaryRowRepair s bank row).memoriesWf := by
  unfold Dev.granaryRowRepair
  split
  · exact .ite h (.ite (.eventOpen h.onSlotBeside) h.fence)
  · exact h

theorem Dev.memoriesWf.patrolScrub {unit : Fin 36} {res : ScrubResult} {passEnd : Bool} :
    (d.patrolScrub unit res passEnd).memoriesWf := by
  unfold Dev.patrolScrub
  extract_lets u e
  have he : e.memoriesWf := by
    simp only [e]
    split
    · exact h
    · exact .corrected h.onErrors
    · exact .ite h.poisonDevice h
  exact .ite h (.ite (by exact he) he)

theorem Dev.memoriesWf.repairRow {u : Nat} : (d.repairRow u).memoriesWf := by
  unfold Dev.repairRow
  exact .ite h.onErrors.eventOpen (.ite (by exact h) h.eventOpen)

theorem Dev.memoriesWf.memoryRepair {unit : Fin 36} {k : RepairKind} : (d.memoryRepair unit k).memoriesWf := by
  unfold Dev.memoryRepair
  split
  · exact h.repairRow
  · exact h.repairRow
  · exact h

theorem Dev.memoriesWf.ageMeasure {s : Fin 80} {aged ref : Nat} : (d.ageMeasure s aged ref).memoriesWf := by
  unfold Dev.ageMeasure
  split
  · extract_lets drift marks e
    have he : e.memoriesWf := h.onSlotBeside
    exact .ite h (.ite he.eventOpen he)
  · exact h

theorem Dev.memoriesWf.ageRetire {s : Fin 80} : (d.ageRetire s).memoriesWf := by
  unfold Dev.ageRetire
  split
  · extract_lets forced retire
    have hr : (retire d).memoriesWf := .eventOpen (h.onSlot (by exact fun t _ => Slot.wf_off (t := t)))
    refine .ite h ?_
    split
    · exact hr
    · split
      · exact .ite h (.ite h.relocate hr.relocate)
      · exact h
  · exact h

theorem Dev.memoriesWf.ageNoSpare {s : Fin 80} : (d.ageNoSpare s).memoriesWf := by
  unfold Dev.ageNoSpare
  split
  · exact .ite (.eventOpen h.onSlotBeside) h
  · exact h

theorem Dev.memoriesWf.fenceRegion {s : Nat} : (d.fenceRegion s).memoriesWf := by
  dsimp only [Dev.fenceRegion]
  refine .eventOpen (h.onSlot fun t ht => ?_)
  dsimp only
  split
  · exact Slot.wf_off
  · exact ht

theorem Dev.memoriesWf.nodeFailure {x : Fin 12} {y : Fin 10} : (d.nodeFailure x y).memoriesWf := by
  dsimp only [Dev.nodeFailure]
  exact .ite h (.ite (by exact h) (foldl_memoriesWf h fun _ _ he => he.fenceRegion))

theorem Dev.memoriesWf.routerFailure {part : MeshPart} {node : Fin 12 × Fin 10} : (d.routerFailure part node).memoriesWf := by
  unfold Dev.routerFailure
  split
  · exact h.nodeFailure
  · exact .ite (by exact h) h

theorem Dev.memoriesWf.syncTimeout {c : CroftRef} : (d.syncTimeout c).memoriesWf := by
  unfold Dev.syncTimeout
  split
  · split
    · exact .ite h.croftFault h
    · exact h
  · exact h

theorem Dev.memoriesWf.deliverSignal {sig : RemoteSig} : (d.deliverSignal sig).memoriesWf := by
  unfold Dev.deliverSignal
  extract_lets c
  split
  · exact h
  next x hx =>
    have hg := h.granary hx
    have he : (d.setCroft (x.addSem sig.sem.val sig.count.toNat false)).memoriesWf := h.setCroft hg
    exact .ite he.croftFault he.settle

theorem Dev.memoriesWf.takeHeld : d.takeHeld.memoriesWf := foldl_memoriesWf h fun _ _ he => he.deliverSignal

theorem Dev.memoriesWf.remoteSignal {sig : RemoteSig} : (d.remoteSignal sig).memoriesWf := by
  unfold Dev.remoteSignal
  split
  · exact h
  · refine .ite h (.ite (.ite (by exact h) h.deliverSignal) (.ite h ?_))
    extract_lets same
    split
    · exact .ite h (.deliverSignal (.control (by exact h)))
    · exact h

end

end Sys2Proof.Machine
end

section
/-!
SUPPORT. The canonical form of the byte memories: the Fohal ports, the passing of time, and barriers.
-/

namespace Sys2Proof.Machine

/-! ### Fohal ports, routes and flits -/

section
variable {d : Dev} (h : d.memoriesWf)
include h

theorem Dev.memoriesWf.onPort {p : Nat} {f : Port → Port} : (d.onPort p f).memoriesWf := h

theorem Dev.memoriesWf.sendFlit {p : Nat} {f : BitVec 2048} : (d.sendFlit p f).memoriesWf := by
  unfold Dev.sendFlit
  split
  · exact h
  · exact h.onPort.send

theorem Dev.memoriesWf.sendLink {p : Nat} {f : BitVec 2048} : (d.sendLink p f).memoriesWf := by
  unfold Dev.sendLink
  split
  · exact h
  · exact .ite h.sendFlit h.onPort

theorem Dev.memoriesWf.portSignalDetect {p : Fin 12} : (d.portSignalDetect p).memoriesWf := by
  unfold Dev.portSignalDetect
  split
  · exact .ite h.onPort h
  · exact h

theorem Dev.memoriesWf.flood {lost : List Nat} : (d.flood lost).memoriesWf := h

theorem Dev.memoriesWf.loseJob {code : Nat} {j : Fin 64} : (d.loseJob code j).memoriesWf := h.haltJob

theorem Dev.memoriesWf.loseDevice {addr : Nat} : (d.loseDevice addr).memoriesWf := by
  unfold Dev.loseDevice
  refine foldl_memoriesWf h fun e _ he => ?_
  split
  · exact .ite he.loseJob he
  · exact he

theorem Dev.memoriesWf.dropPort {p : Nat} {why : PortLoss} : (d.dropPort p why).memoriesWf := by
  unfold Dev.dropPort
  split
  · exact h
  · extract_lets addr e₁ _ e₂
    have he : e₂.memoriesWf := h
    exact .ite he (.ite (.loseDevice he.eventNamed.flood) he.eventNamed.flood)

theorem Dev.memoriesWf.retrain {p : Nat} : (d.retrain p).memoriesWf := h

theorem Dev.memoriesWf.resendFrom {p : Nat} {seq : BitVec 16} : (d.resendFrom p seq).memoriesWf := by
  unfold Dev.resendFrom
  split
  · exact h
  · exact foldl_memoriesWf h fun _ _ he => he.send

theorem Dev.memoriesWf.checkNeighbour {p : Nat} : (d.checkNeighbour p).memoriesWf := by
  unfold Dev.checkNeighbour
  split
  · exact h
  · exact .ite (.eventNamed (by exact h)) h

theorem Dev.memoriesWf.resendAll {p : Nat} : (d.resendAll p).memoriesWf := by
  unfold Dev.resendAll
  split
  · exact h.resendFrom
  · exact h

theorem Dev.memoriesWf.portPhaseDone {p : Fin 12} {r : PhaseResult} : (d.portPhaseDone p r).memoriesWf := by
  unfold Dev.portPhaseDone
  split
  · exact h
  · split
    · exact h.onPort
    · exact h.onPort
    · exact .send h.onPort
    · exact h.onPort
    · exact .resendAll h.onPort
    · exact h

theorem Dev.memoriesWf.portStateTimeout {p : Fin 12} : (d.portStateTimeout p).memoriesWf := by
  unfold Dev.portStateTimeout
  split
  · exact h
  · split
    · exact .ite h.onPort h
    · exact h.retrain
    · exact h.dropPort
    · exact h.dropPort

/-- Forgetting a device of the fabric touches no message that is being received. -/
theorem Dev.memoriesWf.forgetIf {p : Prop} {_ : Decidable p} {addr : Nat} :
    { d with fabric := if p then d.fabric.forget addr else d.fabric }.memoriesWf :=
  h.withFabric (by split <;> exact h.partials)

theorem Dev.memoriesWf.capabilityRecord {p : Fin 12} {rec_ : BitVec 512} : (d.capabilityRecord p rec_).memoriesWf := by
  unfold Dev.capabilityRecord
  split
  · exact h
  · exact .ite h (.ite (.eventNamed h.dropPort) (.ite (.eventNamed h.dropPort)
      (.flood (.eventNamed (.checkNeighbour (.forgetIf h.onPort))))))

theorem Dev.memoriesWf.rttRemeasure {p : Fin 12} {rtt : Nat} : (d.rttRemeasure p rtt).memoriesWf := by
  unfold Dev.rttRemeasure
  split
  · exact .ite h.onPort h
  · exact h

theorem Dev.memoriesWf.leave {p : Fin 12} : (d.leave p).memoriesWf := by
  unfold Dev.leave
  split
  · exact .ite h.dropPort h
  · exact h

theorem Dev.memoriesWf.laneSpared {p : Fin 12} {lane : Fin 9} : (d.laneSpared p lane).memoriesWf := by
  unfold Dev.laneSpared
  split
  · exact h
  · exact .ite h (.ite (.eventNamed (foldl_memoriesWf (.sendLink (.onPort h.onPort)) fun _ _ he => he.send))
      (.ite (.eventNamed (.onPort (.retrain h.onPort))) (.dropPort h.onPort)))

theorem Dev.memoriesWf.electMaster : d.electMaster.memoriesWf := by
  unfold Dev.electMaster
  split <;> exact h

theorem Dev.memoriesWf.routesUpdated : d.routesUpdated.memoriesWf := by
  unfold Dev.routesUpdated
  refine foldl_memoriesWf (.electMaster (.eventNamed (by exact h))) fun e _ he => ?_
  split
  · exact .ite he.loseJob he
  · exact he

theorem Dev.memoriesWf.linkStateRecord {r : LinkState} : (d.linkStateRecord r).memoriesWf := by
  unfold Dev.linkStateRecord
  exact .ite h (foldl_memoriesWf (.send (.forgetIf (by exact h))) fun _ _ he => he.loseDevice)

theorem Dev.memoriesWf.queueFlit {inPort : Option Nat} {adaptive : Bool} {f : BitVec 2048} :
    (d.queueFlit inPort adaptive f).memoriesWf := by
  unfold Dev.queueFlit
  split
  · exact h
  · exact h.onPort

theorem Dev.memoriesWf.forward {inPort : Nat} {adaptive : Bool} {f : BitVec 2048} : (d.forward inPort adaptive f).memoriesWf :=
  h.queueFlit

theorem Dev.memoriesWf.newTag : d.newTag.2.memoriesWf := h

theorem Dev.memoriesWf.newSeq {dest : Nat} : (d.newSeq dest).2.memoriesWf := h

theorem Dev.memoriesWf.sendMsg {chan dest tag target : Nat} {adaptive : Bool} {body : List Byte} :
    (d.sendMsg chan dest tag target adaptive body).memoriesWf :=
  foldl_memoriesWf h fun _ _ he => he.queueFlit

theorem Dev.memoriesWf.sendBody {chan dest : Nat} {adaptive : Bool} {m : FabricMsg} :
    (d.sendBody chan dest adaptive m).memoriesWf := by
  unfold Dev.sendBody
  refine .sendMsg (.newTag ?_)
  split
  · exact h.newSeq
  · exact h

theorem Dev.memoriesWf.floodFlits {r : LinkState} : (d.floodFlits r).memoriesWf :=
  foldl_memoriesWf h fun _ _ he => by
    split
    · exact .ite he (foldl_memoriesWf he.newTag fun _ _ hf => hf.onPort)
    · exact he

theorem Dev.memoriesWf.sendPeers {j : Fin 64} {devs : List Nat} {m : FabricMsg} : (d.sendPeers j devs m).memoriesWf :=
  foldl_memoriesWf h fun _ _ he => by
    split
    · exact he.sendBody
    · exact he

theorem Dev.memoriesWf.shipOne {m : Sent} : (d.shipOne m).memoriesWf := by
  unfold Dev.shipOne
  split
  · split
    · exact h.sendMsg
    · exact h
  · split
    · exact h.newTag.sendMsg
    · exact h
  · split
    · exact h.sendBody
    · exact h
  · exact h.sendBody
  · split
    · exact h.sendBody
    · exact h
  · exact h.sendPeers
  · split
    · exact .ite h.sendPeers h.sendPeers
    · exact h
  · exact h.sendPeers
  · exact h.sendPeers
  · exact h.sendPeers
  · exact h.floodFlits
  · exact h

theorem Dev.memoriesWf.shipHalo {k : Fin 64 × Nat} {rs : List HaloRec} : (d.shipHalo k rs).memoriesWf := by
  unfold Dev.shipHalo
  split
  · exact h
  · exact foldl_memoriesWf h fun _ _ he => he.newTag.sendMsg

theorem Dev.memoriesWf.ship : d.ship.memoriesWf := by
  unfold Dev.ship
  exact foldl_memoriesWf (foldl_memoriesWf h fun _ _ he => he.shipOne) fun _ _ he => he.shipHalo

theorem Dev.memoriesWf.pumpPort {p : Nat} : (d.pumpPort p).memoriesWf := by
  unfold Dev.pumpPort
  split
  · exact h
  · refine .ite h ?_
    split
    · exact h.sendFlit
    · exact .sendFlit (.ite (by exact h) h.onPort)

theorem Dev.memoriesWf.pump {units : Nat} : (d.pump units).memoriesWf :=
  foldl_memoriesWf h fun _ _ he => by
    split
    · exact .ite he he.pumpPort
    · exact he

theorem Dev.memoriesWf.nak {p : Fin 12} {seq : BitVec 16} : (d.nak p seq).memoriesWf := by
  unfold Dev.nak
  split
  · exact h
  · exact .ite h (.ite (.retrain h.onPort) (.resendFrom h.onPort))

theorem Dev.memoriesWf.messageRestart {tag : Word32} : (d.messageRestart tag).memoriesWf := by
  unfold Dev.messageRestart
  split
  · exact h
  · exact foldl_memoriesWf h fun _ _ he => he.queueFlit

theorem Dev.memoriesWf.stepTime {by_ : Int} : (d.stepTime by_).memoriesWf := h

theorem Dev.memoriesWf.followSource {offset bound : Int} : (d.followSource offset bound).memoriesWf := by
  unfold Dev.followSource
  exact .ite (.stepTime (by exact h)) h

theorem Dev.memoriesWf.sourceChanged : d.sourceChanged.memoriesWf := .electMaster (.ite h h.flood)

theorem Dev.memoriesWf.timeExchange {offset : Int} {good ptp : Bool} : (d.timeExchange offset good ptp).memoriesWf := by
  unfold Dev.timeExchange
  extract_lets changed _ e₁ e₂ entering next _ e₃
  have h₁ : e₁.memoriesWf := h
  have h₂ : e₂.memoriesWf := .ite h₁.sourceChanged h₁
  have h₃ : e₃.memoriesWf := h₂
  exact .ite (.ite h₂.followSource h₂) (.ite h₃.stepTime h₃)

theorem Dev.memoriesWf.linksDown : d.linksDown.memoriesWf := by
  unfold Dev.linksDown
  extract_lets e
  have he : e.memoriesWf := foldl_memoriesWf h fun _ _ he => .ite he.eventNamed he
  clear_value e
  exact he

theorem Dev.memoriesWf.unfit : d.unfit.memoriesWf := by
  unfold Dev.unfit
  extract_lets e₁ e₂ _ _ e₃
  have h₁ : e₁.memoriesWf := foldl_memoriesWf h fun _ _ he => by
    split
    · exact .ite he.loseJob he
    · exact he
  have h₂ : e₂.memoriesWf := foldl_memoriesWf h₁ fun _ _ he => .ite he.send he
  have h₃ : e₃.memoriesWf := Dev.memoriesWf_mk.mpr h₂.linksDown
  exact .ite h h₃.eventOpen

end

/-! ### The passing of time, and barriers -/

theorem Croft.barSignal_granaryWf {x : Croft} {index : Nat} (hx : Cells.wf x.granary = true) :
    (x.barSignal index).granaryWf := by
  dsimp only [Croft.barSignal]
  split
  · exact hx
  · split
    · trivial
    · exact hx

section
variable {d : Dev} (h : d.memoriesWf)
include h

theorem Dev.memoriesWf.pass {units : Nat} : (d.pass units).memoriesWf := by
  refine ⟨h.mem, croftsWf_map h.crofts fun x hx => ?_, slotsWf_map h.slots fun t ht => ?_, h.regions, h.cores, h.partials⟩
  · dsimp only
    split
    · split <;> exact hx
    · exact hx
  · dsimp only
    split <;> exact ht

theorem Dev.memoriesWf.passTo {t : Nat} : (d.passTo t).memoriesWf := .ite h h.pass

theorem Dev.memoriesWf.putBar {b : Bar} : (d.putBar b).memoriesWf := h

theorem Dev.memoriesWf.countBar {job : Job} {b : Bar} : (d.countBar job b).memoriesWf := by
  unfold Dev.countBar
  exact .ite h.putBar (.ite (.ite (.send h.putBar) h.putBar) (.putBar (.ite (.send h.putBar) h.putBar)))

theorem Dev.memoriesWf.barMismatch {j : Fin 64} {waiting : List (Fin 256)} : (d.barMismatch j waiting).memoriesWf := by
  unfold Dev.barMismatch
  refine .ite h.jobFault (foldl_memoriesWf h fun _ _ he => ?_)
  split
  · exact he.croftFault
  · exact he

end

theorem Dev.memoriesWf.implicitArrivals {d : Dev} (h : d.memoriesWf) {j : Fin 64} {job : Job} {who : Nat}
    {ns : List (Fin 256)} {k : Nat} : (Dev.implicitArrivals j job who ns k d).memoriesWf := by
  induction k generalizing d with
  | zero => exact h
  | succ k ih => exact ih h.countBar

section
variable {d : Dev} (h : d.memoriesWf)
include h

theorem Dev.memoriesWf.implicitBarrier {j : Fin 64} {job : Job} {ns : List (Fin 256)} :
    (d.implicitBarrier j job ns).memoriesWf :=
  h.implicitArrivals

theorem Dev.memoriesWf.barrierArrival {j : Fin 64} {jobScope : Bool} {num : Fin 16} {parties : Nat} {who : Arriver} :
    (d.barrierArrival j jobScope num parties who).memoriesWf := by
  unfold Dev.barrierArrival
  split
  · exact h
  · split
    · split
      · exact h
      next x hx =>
        have hg := h.granary hx
        extract_lets _ e₁ e₂ b root
        have he : e₂.memoriesWf := .control (h.setCroft (by exact hg))
        exact .ite h (.ite he.barMismatch he.countBar)
    · exact .ite h (.ite (.ite h.barMismatch h.implicitArrivals) (.ite h.barMismatch h.countBar))

theorem Dev.memoriesWf.barrierForward {j : Fin 64} {num : Fin 16} {dir : TreeDir} :
    (d.barrierForward j num dir).memoriesWf := by
  unfold Dev.barrierForward
  split
  · exact h
  · refine .ite h ?_
    extract_lets implicit mine pick
    clear_value pick
    cases pick with
    | none => exact h
    | some b =>
      cases dir with
      | up i => exact .send h.putBar
      | down t i =>
        exact .ite (.eventNamed (.send (.ite h.putBar (.putBar h.putBar)))) (.send (.ite h.putBar (.putBar h.putBar)))

theorem Dev.memoriesWf.leaveBarrier {c : CroftRef} {implicit : Bool} : (d.leaveBarrier c implicit).memoriesWf := by
  unfold Dev.leaveBarrier
  split
  · exact h
  next x hx =>
    have hg := h.granary hx
    split
    · extract_lets _ y e
      have he : e.memoriesWf := by
        simp only [e]
        split
        · exact h.control
        · exact h
      have hy : Cells.wf y.granary = true := hg
      exact .ite (he.setCroft hy) (.settle (he.apply (Croft.barSignal_granaryWf hy)))
    · exact h

theorem Dev.memoriesWf.barrierRelease {j : Fin 64} {jobScope : Bool} {num : Fin 16} :
    (d.barrierRelease j jobScope num).memoriesWf := by
  unfold Dev.barrierRelease
  split
  · extract_lets e₁ e₂ unsynced e₃
    have h₂ : e₂.memoriesWf := h.passTo
    have h₃ : e₃.memoriesWf := .ite h₂.eventNamed h₂
    exact foldl_memoriesWf h₃ fun _ _ he => he.leaveBarrier
  · exact h

end

end Sys2Proof.Machine
end

section
/-!
SUPPORT. The canonical form of the byte memories: the commands of the queues, which write device memory and Granaries.
-/

namespace Sys2Proof.Machine

/-! ### Queue pairs -/

section
variable {d : Dev} (h : d.memoriesWf)
include h

theorem Dev.memoriesWf.setQueue {q : Fin 16384} {v : Queue} : (d.setQueue q v).memoriesWf := h

theorem Dev.memoriesWf.queueFault {q : Fin 16384} {code : Nat} : (d.queueFault q code).memoriesWf := h

theorem Dev.memoriesWf.writeConfig {q : Fin 16384} {w : Word32} : (d.writeConfig q w).memoriesWf := by
  unfold Dev.writeConfig
  exact .ite (.ite h h.setQueue) (.ite h.setQueue (.ite h (.ite h.setQueue (.queueFault h.setQueue))))

theorem Dev.memoriesWf.submissionDoorbell {q : Fin 16384} {v : Word32} : (d.submissionDoorbell q v).memoriesWf := by
  unfold Dev.submissionDoorbell
  exact .ite h (.ite h.setQueue h.queueFault)

theorem Dev.memoriesWf.completionDoorbell {q : Fin 16384} {v : Word32} : (d.completionDoorbell q v).memoriesWf := by
  unfold Dev.completionDoorbell
  exact .ite h (.ite h.setQueue (.ite h h.queueFault))

theorem Dev.memoriesWf.openJob {j : Fin 64} {handle addr : Nat} {cls : BitVec 2} : (d.openJob j handle addr cls).memoriesWf := h

theorem Dev.memoriesWf.restartJob {j : Fin 64} {devs : List Nat} : (d.restartJob j devs).memoriesWf :=
  .withCrofts h.onJob (croftsWf_map h.crofts fun x hx => by split <;> exact hx)

theorem Dev.memoriesWf.accept {c : Cmd} {cls : BitVec 2} : (d.accept c cls).memoriesWf := by
  have put {e : Dev} (he : e.memoriesWf) {c : Cmd} : { e with cmds := e.cmds ++ [c] }.memoriesWf := he
  unfold Dev.accept
  extract_lets append
  split
  · exact put h.commandFault
  · split
    · extract_lets e halted c'
      have he : e.memoriesWf := by
        simp only [e]
        split
        · exact h.restartJob
        · exact h
      exact .ite (put he.commandFault) (.ite (put he.onJob) (put he))
    · exact put (.ite (.onJob h.openJob) h.openJob)
    · exact h

theorem Dev.memoriesWf.queueFetch {q : Fin 16384} : (d.queueFetch q).memoriesWf := by
  unfold Dev.queueFetch
  exact .ite h (.accept (by exact h))

theorem Dev.memoriesWf.onCmd {id : Nat} {f : Cmd → Cmd} : (d.onCmd id f).memoriesWf := h

theorem Dev.memoriesWf.succeed {id result : Nat} : (d.succeed id result).memoriesWf := h

theorem Dev.memoriesWf.unopen {c : Cmd} {j : Fin 64} : (d.unopen c j).memoriesWf := h

theorem Dev.memoriesWf.fail {id code : Nat} : (d.fail id code).memoriesWf := by
  unfold Dev.fail
  split
  · exact .commandFault h.onCmd
  · exact .ite h.jobFault (.ite (.onJob (.commandFault h.onCmd)) (.ite
      (.unopen (.commandFault h.onCmd)) (.commandFault h.onCmd)))

theorem Dev.memoriesWf.interrupt {vector : Word32} : (d.interrupt vector).memoriesWf := by
  dsimp only [Dev.interrupt]
  split <;> exact h

theorem Dev.memoriesWf.leaveSlot {x : Croft} (hx : Cells.wf x.granary = true) : (d.leaveSlot x).memoriesWf := by
  unfold Dev.leaveSlot
  split
  · exact h.onSlot fun _ ht => Slot.wf_vacate hx ht
  · exact h

theorem Dev.memoriesWf.closeJob {j : Fin 64} : (d.closeJob j).memoriesWf := by
  unfold Dev.closeJob
  extract_lets e mine
  have he : e.memoriesWf := List.foldlRecOn _ _ h fun _ hd x hx => hd.leaveSlot (h.crofts x (List.mem_of_mem_filter hx))
  exact ⟨he.mem, croftsWf_filter he.crofts, he.slots, he.regions, he.cores, he.partials⟩

theorem Dev.memoriesWf.commandCompletion {id : Nat} : (d.commandCompletion id).memoriesWf := by
  unfold Dev.commandCompletion
  split
  · exact h
  · extract_lets c' u e₁ e₂ e₃ e₄
    have h₁ : e₁.memoriesWf := by apply h.write
    clear_value e₁
    have h₂ : e₂.memoriesWf := h₁
    have h₃ : e₃.memoriesWf := h₂.setQueue.hubTraffic
    have h₄ : e₄.memoriesWf := .ite h₃.interrupt h₃
    refine .ite h ?_
    split
    · exact h₄
    · exact .ite h₄.onJob (.ite h₄.closeJob h₄.onJob)

end

/-! ### LAUNCH, COPY, MULTICAST, FIELD_RUN, FENCE and TIMESTAMP -/

theorem Croft.wf_load {x : Croft} (hx : Cells.wf x.granary = true) {job : Job} {p : Program} {code : List Byte}
    {st : SeqState} : Cells.wf (x.load job p code st).granary = true := by
  have hw := Croft.wf_write (a := p.load) (bs := code) hx
  exact hw

theorem Croft.wf_fieldProgram {x : Croft} (hx : Cells.wf x.granary = true) {c : Cmd} {data : List (Nat × List Byte)} :
    Cells.wf (x.fieldProgram c data).granary = true := by
  have hclear := Croft.wf_clear (a := runBase) (n := 0x80000) hx
  have hdata := List.foldlRecOn (motive := fun y : Croft => Cells.wf y.granary = true) data (fun x p => x.write p.1 p.2) hclear
    fun _ hy _ _ => Croft.wf_write hy
  dsimp only [Croft.fieldProgram, Croft.recordNow]
  apply Croft.wf_write hdata

section
variable {d : Dev} (h : d.memoriesWf)
include h

theorem Dev.memoriesWf.tookTurn {c : Cmd} : (d.tookTurn c).memoriesWf := h

theorem Dev.memoriesWf.commandStart {id : Nat} : (d.commandStart id).memoriesWf := by
  unfold Dev.commandStart
  split
  · exact h
  · refine .ite h ?_
    split
    · exact h
    · split
      · exact h
      · exact .ite h h.onCmd

theorem Dev.memoriesWf.enterCrofts {j : Fin 64} {job : Job} {ns : List (Fin 256)} : (d.enterCrofts j job ns).memoriesWf :=
  h.withCrofts fun x hx => by
    rcases List.mem_append.mp hx with hx | hx
    · exact h.crofts x hx
    · obtain ⟨n, -, rfl⟩ := List.mem_map.mp hx
      exact Cells.wf_nil

theorem Dev.memoriesWf.giveHome {j : Fin 64} {n : Fin 256} : (d.giveHome j n).memoriesWf :=
  h.onCroftBeside

theorem Dev.memoriesWf.bindNamed {j : Fin 64} {job : Job} {ns : List (Fin 256)} : (d.bindNamed j job ns).memoriesWf := by
  unfold Dev.bindNamed
  extract_lets pairs e₁ e₂ e₃ e₄ bare e₅
  have h₂ : e₂.memoriesWf := foldl_memoriesWf h.enterCrofts fun _ _ he => he.bind
  have h₃ : e₃.memoriesWf := foldl_memoriesWf h₂ fun _ _ he => he.giveHome
  have h₄ : e₄.memoriesWf := .ite h₃ h₃.mapChange
  have h₅ : e₅.memoriesWf := foldl_memoriesWf h₄ fun _ _ he => he.rebindLanes
  refine foldl_memoriesWf h₅ fun _ _ he => ?_
  split
  · exact he.onSlotBeside
  · exact he

theorem Dev.memoriesWf.countRefused {c : Cmd} {j : Fin 64} {code : Nat} : (d.countRefused c j code).memoriesWf := by
  unfold Dev.countRefused
  split <;> exact h

theorem Dev.memoriesWf.loadNamed {j : Fin 64} {job : Job} {ns : List (Fin 256)} {p : Program} {code : List Byte} :
    (d.loadNamed j job ns p code).memoriesWf := by
  refine foldl_memoriesWf h fun e n he => ?_
  extract_lets e'
  have he' : e'.memoriesWf := he.onCroft fun x hx => by
    split
    · exact hx
    · exact Croft.wf_load hx
  split
  · exact he'.onSlotBeside
  · exact he'.onCroftBeside

theorem Dev.memoriesWf.launch {id : Nat} : (d.launch id).memoriesWf := by
  unfold Dev.launch
  split
  · exact h
  · split
    · exact h.jobFault
    · exact .fail h.countRefused
    · refine .ite h ?_
      extract_lets a p code hash e₁ e₂ e₃
      have h₃ : e₃.memoriesWf := .loadNamed (.bindNamed (.tookTurn (.onJob h.onCmd)))
      exact .ite h₃.implicitBarrier h₃

theorem Dev.memoriesWf.copyRows {j : Fin 64} {job : Job} {m : MoveDesc} : (d.copyRows j job m).memoriesWf :=
  foldl_memoriesWf h fun _ _ he => he.putAt

theorem Dev.memoriesWf.copy {id : Nat} : (d.copy id).memoriesWf := by
  unfold Dev.copy
  split
  · exact h
  · extract_lets m
    split
    · exact h.fail
    · exact .succeed (.carry (.carry h.copyRows))

theorem Dev.memoriesWf.multicast {id : Nat} : (d.multicast id).memoriesWf := by
  unfold Dev.multicast
  split
  · exact h
  · extract_lets src dst n mask out asked hit codes
    split
    · exact h.fail
    · have out {e : Dev} (he : e.memoriesWf) {p : Prop} {_ : Decidable p} {a : Nat} {bs : List Byte} {f : Cmd → Cmd} :
          (if p then e.write a bs else (e.write a bs).onCmd id f).memoriesWf := .ite he.write (.onCmd he.write)
      exact .succeed (.grant (.carry (out (foldl_memoriesWf h fun _ _ he => he.onCroft fun _ hx => Croft.wf_write hx))))

theorem Dev.memoriesWf.commandTimeout {id : Nat} : (d.commandTimeout id).memoriesWf := by
  unfold Dev.commandTimeout
  split
  · exact h
  · exact .ite h h.fail

theorem Dev.memoriesWf.meshAckTimeout {w : AckWaiter} {mesh : Bool} : (d.meshAckTimeout w mesh).memoriesWf := by
  unfold Dev.meshAckTimeout
  split
  · exact h.transferTimeout
  · exact h.commandTimeout

theorem Dev.memoriesWf.fieldRun {id : Nat} : (d.fieldRun id).memoriesWf := by
  unfold Dev.fieldRun
  split
  · exact h
  · split
    · exact .fail h.countRefused
    · refine .ite h (.onCroft (.bindNamed (.tookTurn h.onCmd)) fun x hx => ?_)
      split
      · exact hx
      · exact Croft.wf_fieldProgram hx

theorem Dev.memoriesWf.fieldRunEnd {c : CroftRef} : (d.fieldRunEnd c).memoriesWf := by
  unfold Dev.fieldRunEnd
  split
  next x q hx _ =>
    have hg := h.granary hx
    extract_lets sweeps e₁ _ e₂ e₃
    have h₁ : e₁.memoriesWf := by apply h.write
    clear_value e₁
    have h₂ : e₂.memoriesWf := h₁.setCroft hg
    exact .ite h (.succeed h₂.onCmd)
  · exact h

theorem Dev.memoriesWf.completeInstruction {c : CroftRef} {u : UnitId} : (d.completeInstruction c u).memoriesWf :=
  h.instructionCompletion.fieldRunEnd

theorem Dev.memoriesWf.fence_ {id : Nat} : (d.fence_ id).memoriesWf := by
  unfold Dev.fence_
  split
  · exact h
  · exact .ite h h.succeed

theorem Dev.memoriesWf.timestamp {id : Nat} : (d.timestamp id).memoriesWf := by
  unfold Dev.timestamp
  split
  · exact h
  · exact h.succeed

end

/-! ### MODEL_LOAD -/

section
variable {d : Dev} (h : d.memoriesWf)
include h

theorem Dev.memoriesWf.modelLoad {id : Nat} : (d.modelLoad id).memoriesWf := by
  unfold Dev.modelLoad
  split
  · exact h
  · extract_lets addr
    split
    · exact h.fail
    · extract_lets m
      split
      · exact .fail (by exact h)
      · exact .succeed (.onJob (by exact h))

end

/-! ### Collectives -/

section
variable {d : Dev} (h : d.memoriesWf)
include h

theorem Dev.memoriesWf.onColl {j : Fin 64} {collId : Word32} {f : Coll → Coll} : (d.onColl j collId f).memoriesWf := h

theorem Dev.memoriesWf.collFinish {k : Coll} {n v : Nat} : (d.collFinish k n v).memoriesWf := by
  unfold Dev.collFinish
  apply Dev.memoriesWf.succeed
  apply h.write

end

theorem Dev.memoriesWf.collRun {d : Dev} (h : d.memoriesWf) {j : Fin 64} {job : Job} {collId : Word32} {fuel : Nat} :
    (Dev.collRun j job collId fuel d).memoriesWf := by
  induction fuel generalizing d with
  | zero => exact h
  | succ fuel ih =>
    unfold Dev.collRun
    split
    · exact h
    · extract_lets n v k out e₁ e₂
      have h₂ : e₂.memoriesWf := foldl_memoriesWf h.onColl fun _ _ he => he.send
      exact .ite h (.ite h (.ite h₂.collFinish (ih h₂)))

section
variable {d : Dev} (h : d.memoriesWf)
include h

theorem Dev.memoriesWf.collective {id : Nat} : (d.collective id).memoriesWf := by
  unfold Dev.collective
  split
  · exact h
  · extract_lets k n v src
    split
    · exact h.fail
    · exact .ite (.collFinish h.onCmd) (.collRun (foldl_memoriesWf (.onJob h.onCmd) fun _ _ he => he.send))

theorem Dev.memoriesWf.onLedger {j : Fin 64} {f : Ledger → Ledger} : (d.onLedger j f).memoriesWf := h

theorem Dev.memoriesWf.collDiscard {j : Fin 64} : (d.collDiscard j).memoriesWf := h

theorem Dev.memoriesWf.deviceIdAt {addr : Nat} : (d.deviceIdAt addr).2.memoriesWf := by
  unfold Dev.deviceIdAt
  split
  · exact h
  · exact h.draw

theorem Dev.memoriesWf.flagSender {j : Fin 64} {addr : Nat} : (d.flagSender j addr).memoriesWf := by
  unfold Dev.flagSender
  extract_lets p
  have hp : p.2.memoriesWf := h.deviceIdAt
  exact .eventNamedWith (.onLedger (by exact hp))

theorem Dev.memoriesWf.collFault {j : Fin 64} {k : Coll} {code : Nat} : (d.collFault j k code).memoriesWf := h.jobFault

theorem Dev.memoriesWf.contribution {j : Fin 64} {header : BitVec 256} {data : List Byte} {digest : BitVec 128} :
    (d.contribution j header data digest).memoriesWf := by
  unfold Dev.contribution
  split
  · exact h
  · dsimp only
    split
    · exact h.collDiscard
    · exact .ite h.collDiscard (.ite (.ite (.collFault (.send h.flagSender)) (.send h.flagSender)) (.ite h.collFault
        (.ite h.collDiscard (.ite h.collFault (.collRun (.send h.onColl))))))

theorem Dev.memoriesWf.accepted {j : Fin 64} {collId : Word32} {dst step chunk seg : Nat} :
    (d.accepted j collId dst step chunk seg).memoriesWf := h

theorem Dev.memoriesWf.refuse {j : Fin 64} {collId : Word32} {dst step chunk seg : Nat} {attempt : Fin 4} :
    (d.refuse j collId dst step chunk seg attempt).memoriesWf := by
  unfold Dev.refuse
  split
  · exact h
  · split
    · exact h
    · dsimp only
      split
      · exact h
      · exact .ite h.collFault (.send (.onCmd h.onColl))

theorem Dev.memoriesWf.collTimeout {j : Fin 64} : (d.collTimeout j).memoriesWf := by
  unfold Dev.collTimeout
  split
  · exact h
  · split
    · exact h
    · exact .ite h h.collFault

end

/-! ### LEDGER_CLOSE -/

section
variable {d : Dev} (h : d.memoriesWf)
include h

theorem Dev.memoriesWf.ledgerClose {id : Nat} {canSign : Bool} : (d.ledgerClose id canSign).memoriesWf := by
  unfold Dev.ledgerClose
  split
  · exact h
  · refine .ite h ?_
    dsimp only
    split
    · exact h.fail
    · apply Dev.memoriesWf.succeed
      apply Dev.memoriesWf.write
      exact h

end

end Sys2Proof.Machine
end

section
/-!
SUPPORT. The canonical form of the byte memories: power, which empties memories, and the messages that are being received.
-/

namespace Sys2Proof.Machine

/-! ### Supplies, throttling, limits and clocks -/

/-- Main power off leaves the SRAM of cores 0 and 1, and empties every other. -/
theorem Boot.wf_unpowered {b : Boot} (h : coresWf b.cores) : coresWf b.unpowered.cores := fun k hk => by
  obtain ⟨p, hp, rfl⟩ := List.mem_map.mp hk
  split
  · exact h p.1 (List.fst_mem_of_mem_zipIdx hp)
  · exact Cells.wf_nil

section
variable {d : Dev} (h : d.memoriesWf)
include h

theorem Dev.memoriesWf.onPower {f : Power → Power} : (d.onPower f).memoriesWf := h

theorem Dev.memoriesWf.mainOff : d.mainOff.memoriesWf := by
  unfold Dev.mainOff
  extract_lets e
  have he : e.memoriesWf := h.linksDown
  clear_value e
  exact ⟨Cells.wf_nil, fun _ hx => absurd hx List.not_mem_nil, slotsWf_map he.slots fun _ _ => Cells.wf_nil, he.regions,
    Boot.wf_unpowered he.cores, fun _ hp => absurd hp List.not_mem_nil⟩

theorem Dev.memoriesWf.powerFault {code : Nat} : (d.powerFault code).memoriesWf := by
  unfold Dev.powerFault
  extract_lets e
  have he : e.memoriesWf := h.mainOff.faultEvent
  exact Dev.memoriesWf_mk.mpr he

theorem Dev.memoriesWf.powerFail {lostPwrGood : Bool} : (d.powerFail lostPwrGood).memoriesWf := by
  unfold Dev.powerFail
  extract_lets _ e
  have he : e.memoriesWf := .ite (by exact h) h
  exact .ite he he.powerFault.onPower

theorem Dev.memoriesWf.powerDown : d.powerDown.memoriesWf := .ite h.mainOff.onPower h

theorem Dev.memoriesWf.thermtrip {sensor : Fin 112} : (d.thermtrip sensor).memoriesWf := by
  unfold Dev.thermtrip
  extract_lets _ e₁ tj e₂
  have h₁ : e₁.memoriesWf := h
  have h₂ : e₂.memoriesWf := h₁.onPower.mainOff.faultEvent
  exact .ite h (Dev.memoriesWf_mk.mpr h₂)

theorem Dev.memoriesWf.notices {begins : Bool} : (d.notices begins).memoriesWf :=
  foldl_memoriesWf h fun _ _ he => by
    split
    · exact foldl_memoriesWf he fun _ _ hf => .ite hf hf.send
    · exact he

theorem Dev.memoriesWf.declare {thermal : Bool} : (d.declare thermal).memoriesWf := by
  unfold Dev.declare
  extract_lets first e₁ e₂
  have h₁ : e₁.memoriesWf := h.onPower
  have h₂ : e₂.memoriesWf := h₁.withBoot (by simpa using h₁.regions) (by simpa using h₁.cores)
  exact .ite h (.ite h₂.notices h₂)

theorem Dev.memoriesWf.supplyOutOfRange : d.supplyOutOfRange.memoriesWf := .ite h.declare h

theorem Dev.memoriesWf.raiseRollback {c : Nat} {run : FuseRun} : (d.raiseRollback c run).memoriesWf := by
  unfold Dev.raiseRollback
  extract_lets count need _ e _ done
  have he : e.memoriesWf := h
  have hd {code : Nat} : (done code).memoriesWf := .endRequest (by exact he)
  exact .ite hd (.ite hd he)

theorem Dev.memoriesWf.revoke {k : Nat} {run : FuseRun} : (d.revoke k run).memoriesWf := by
  unfold Dev.revoke
  exact .ite (by exact h) (.ite (.firmwareFault (by exact h)) h)

theorem Dev.memoriesWf.recordRetired : d.recordRetired.memoriesWf := h

theorem Dev.memoriesWf.serveFuses : d.serveFuses.memoriesWf := by
  unfold Dev.serveFuses
  extract_lets e₁ e₂
  have h₁ : e₁.memoriesWf := by
    simp only [e₁]
    split
    · exact h.raiseRollback
    · exact h
  have h₂ : e₂.memoriesWf := by
    simp only [e₂]
    split
    · exact h₁.revoke
    · exact h₁
  exact .ite h h₂.recordRetired

theorem Dev.memoriesWf.settleAll : d.settleAll.memoriesWf := foldl_memoriesWf h fun _ _ he => he.settle

theorem Dev.memoriesWf.emergencyClear {thermal : Bool} : (d.emergencyClear thermal).memoriesWf := by
  unfold Dev.emergencyClear
  exact .ite h (.ite h.onPower (.settleAll (.takeHeld (.serveFuses (.notices (.onPower h.onPower))))))

theorem Dev.memoriesWf.emergencyNotice {j : Fin 64} {dev : Nat} {begins : Bool} : (d.emergencyNotice j dev begins).memoriesWf :=
  h

theorem Dev.memoriesWf.powerEvaluation {now avg : Nat} {overForMs : Bool} :
    (d.powerEvaluation now avg overForMs).memoriesWf := by
  unfold Dev.powerEvaluation
  exact .ite h (.serveFuses (.ite (.declare (.onPower h.onPower)) (.onPower h.onPower)))

theorem Dev.memoriesWf.releaseTrip : d.releaseTrip.memoriesWf := by
  unfold Dev.releaseTrip
  split <;> exact h

theorem Dev.memoriesWf.tjSample {tj hbm : List Int} : (d.tjSample tj hbm).memoriesWf := by
  unfold Dev.tjSample
  exact .ite h (.releaseTrip (.ite (.declare h.onPower) h.onPower))

theorem Dev.memoriesWf.railMeasurement {vin vaux : Nat} {rails : List (Nat × Nat)} :
    (d.railMeasurement vin vaux rails).memoriesWf :=
  .ite h h.onPower.serveFuses

theorem Dev.memoriesWf.judgeRegulator {b : BoardReg} : (d.judgeRegulator b).memoriesWf := by
  unfold Dev.judgeRegulator
  extract_lets e
  have he : e.memoriesWf := .ite (.onPower h.declare) h
  exact .ite h.eventNamed (.ite h (.ite he.eventNamed he))

theorem Dev.memoriesWf.poll {recs : List PmbusRec} : (d.poll recs).memoriesWf := by
  unfold Dev.poll
  exact .ite h (foldl_memoriesWf h.onPower fun _ _ he => he.judgeRegulator)

theorem Dev.memoriesWf.pmbusPoll {recs : List PmbusRec} : (d.pmbusPoll recs).memoriesWf := h.poll

theorem Dev.memoriesWf.pmbAlertN {recs : List PmbusRec} : (d.pmbAlertN recs).memoriesWf := h.poll

theorem Dev.memoriesWf.pmbusScan {found : List PmbusFound} : (d.pmbusScan found).memoriesWf := .ite h h.onPower

theorem Dev.memoriesWf.refclkLoss : d.refclkLoss.memoriesWf := .ite h.onPower h

theorem Dev.memoriesWf.refclkReturn : d.refclkReturn.memoriesWf := h

theorem Dev.memoriesWf.clockLost : d.clockLost.memoriesWf := by
  unfold Dev.clockLost
  exact .ite h (.ite (.onPower (.powerFault h.onPower)) h.onPower)

theorem Dev.memoriesWf.droopStretch {s : Fin 80} {begins : Bool} : (d.droopStretch s begins).memoriesWf := by
  unfold Dev.droopStretch
  split
  · extract_lets e
    have he : e.memoriesWf := h.onSlotBeside
    exact .ite h (.ite he.onPower he)
  · exact h

theorem Dev.memoriesWf.followPps {at2 : Nat} : (d.followPps at2).memoriesWf := .ite h h.followSource

theorem Dev.memoriesWf.ppsChanged {was : Bool} : (d.ppsChanged was).memoriesWf := .ite h.sourceChanged h

theorem Dev.memoriesWf.ppsInEdge {at2 : Nat} : (d.ppsInEdge at2).memoriesWf := by
  unfold Dev.ppsInEdge
  exact .ite h (.ite (.followPps (.ppsChanged h.onPower)) (.ppsChanged h.onPower))

theorem Dev.memoriesWf.ppsInAbsent : d.ppsInAbsent.memoriesWf := h.onPower.ppsChanged

theorem Dev.memoriesWf.ppsOutSecond {rise : Bool} : (d.ppsOutSecond rise).memoriesWf := by
  unfold Dev.ppsOutSecond
  generalize (1000000000 : Nat) = second
  exact .ite (by exact h) (.ite (Dev.memoriesWf_mk.mpr h.passTo) (Dev.memoriesWf_mk.mpr (Dev.memoriesWf.ite h.passTo h)))

end

/-! ### What arrives from other devices -/

theorem Partial.wf_add {p : Partial} (hp : Cells.wf p.bytes = true) {off : Nat} {data : List Byte} {last keep : Bool} :
    Cells.wf (p.add off data last keep).bytes = true := by
  dsimp only [Partial.add]
  split
  · exact wf_writeBytes _ _ _ hp
  · exact hp

section
variable {d : Dev} (h : d.memoriesWf)
include h

theorem Dev.memoriesWf.haltedElsewhere {j : Fin 64} {fr : FaultRec} {coll : Option Word32} :
    (d.haltedElsewhere j fr coll).memoriesWf := by
  unfold Dev.haltedElsewhere
  split
  · exact h
  · exact .ite h h.haltJob

theorem Dev.memoriesWf.putAcked {tag : Nat} : (d.putAcked tag).memoriesWf := by
  unfold Dev.putAcked
  extract_lets _ e waits
  have he : e.memoriesWf := h
  split
  · exact he.writeAcknowledgement
  · exact he

theorem Dev.memoriesWf.hearJob {j : Fin 64} {m : FabricMsg} : (d.hearJob j m).memoriesWf := by
  unfold Dev.hearJob
  split
  · exact h.remoteSignal
  · exact h.barrierArrival
  · exact h.barrierForward
  · exact h.refuse
  · exact h.accepted
  · exact h.haltedElsewhere
  · exact h.emergencyNotice
  · exact h.haloHandshake
  · exact h
  · exact h

theorem Dev.memoriesWf.hear {src : Nat} {j : Option (Fin 64)} {m : FabricMsg} : (d.hear src j m).memoriesWf := by
  unfold Dev.hear
  split
  · exact h.linkStateRecord
  · exact h.putAcked
  · split
    · exact h.hearJob
    · exact h

theorem Dev.memoriesWf.hearCtrl {src : Nat} {j : Option (Fin 64)} {seq : Word32} {m : FabricMsg} :
    (d.hearCtrl src j seq m).memoriesWf := by
  unfold Dev.hearCtrl
  exact .ite h.hear (.ite h (.hear (by exact h)))

theorem Dev.memoriesWf.takeHalo {j : Fin 64} {body : List Byte} : (d.takeHalo j body).memoriesWf :=
  foldl_memoriesWf h fun _ _ he => foldl_memoriesWf he fun _ _ hf => hf.haloRecord

theorem Dev.memoriesWf.takeContribution {j : Fin 64} {body : List Byte} : (d.takeContribution j body).memoriesWf :=
  h.contribution

theorem Dev.memoriesWf.takeBody {chan src : Nat} {j : Option (Fin 64)} {target : Word64} {body : List Byte} :
    (d.takeBody chan src j target body).memoriesWf := by
  unfold Dev.takeBody
  split
  · split
    · exact h.takeContribution
    · exact h
  · split
    · split
      · exact h.takeHalo
      · exact h
    · split
      · exact h
      · exact .ite h.hearCtrl h.hear

theorem Dev.memoriesWf.landPut {j : Fin 64} {n : Fin 256} {off : Nat} {data : List Byte} :
    (d.landPut j n off data).memoriesWf := by
  unfold Dev.landPut
  split
  · exact h
  next x hx => exact .ite h (h.setCroft (Croft.wf_write (h.granary hx)))

/-- What is kept of a message that is being received is in canonical form. -/
theorem Dev.memoriesWf.partialOf {src tag : Nat} {restart : Bool} : Cells.wf (d.partialOf src tag restart).bytes = true := by
  unfold Dev.partialOf
  split
  · exact Cells.wf_nil
  · cases hp : d.fabric.partials.find? fun p => p.src == src && p.tag == tag with
    | none => exact Cells.wf_nil
    | some p => exact h.partials p (List.mem_of_find?_eq_some hp)

theorem Dev.memoriesWf.keepPartial {p : Partial} (hp : Cells.wf p.bytes = true) : (d.keepPartial p).memoriesWf := by
  have hrest : partialsWf (d.fabric.partials.filter fun q => !(q.src == p.src && q.tag == p.tag)) :=
    fun q hq => h.partials q (List.mem_of_mem_filter hq)
  refine h.withFabric ?_
  dsimp only
  split
  · exact hrest
  · intro q hq
    rcases List.mem_append.mp hq with hq | hq
    · exact hrest q hq
    · rw [List.mem_singleton.mp hq]
      exact hp

theorem Dev.memoriesWf.takePayload {f : BitVec 2048} {job : Option (Fin 64)} : (d.takePayload f job).memoriesWf := by
  unfold Dev.takePayload
  extract_lets src tag chan off flags data croft p e
  have he : e.memoriesWf := h.keepPartial (Partial.wf_add h.partialOf)
  clear_value e croft
  cases croft with
  | some v =>
    dsimp only
    split
    · exact he
    · exact .ite (.send he.landPut) he.landPut
  | none => exact .ite he.takeBody he

theorem Dev.memoriesWf.sendNak {p : Nat} : (d.sendNak p).memoriesWf := by
  unfold Dev.sendNak
  split
  · exact h
  · exact .ite h (.sendLink h.onPort)

theorem Dev.memoriesWf.fohalFlit {p : Fin 12} {a : FlitArrival} {lost : Bool} : (d.fohalFlit p a lost).memoriesWf := by
  unfold Dev.fohalFlit
  extract_lets f e₁ e₂
  split
  · exact h
  · have h₁ : e₁.memoriesWf := h.onPort
    have h₂ : e₂.memoriesWf := h₁.onPort
    refine .ite h (.ite (.sendNak h₁.onPort) (.ite (.ite h₁.sendNak h₁) ?_))
    split
    · exact .ite h₂.takePayload h₂.forward
    · exact h₂.nak
    · exact h₂

end

end Sys2Proof.Machine
end

section
/-!
SUPPORT. The canonical form of the byte memories: reset and boot, which program the flash regions and load the cores; the in-field
test; the SPDM responder; and the Well.
-/

namespace Sys2Proof.Machine

/-! ### Reset, the boot sequence and firmware requests -/

@[simp] theorem Boot.cores_program {b : Boot} {flash : Fin 2} {a : Nat} {v : Byte} : (b.program flash a v).cores = b.cores := by
  unfold Boot.program
  split
  · rfl
  · dsimp only
    split <;> rfl

/-- Programming a byte keeps the flash regions in canonical form. -/
theorem Boot.wf_program {b : Boot} (h : regionsWf b.regions) {flash : Fin 2} {a : Nat} {v : Byte} :
    regionsWf (b.program flash a v).regions := by
  have region {f : Cells → Cells} (hf : ∀ m, Cells.wf m = true → Cells.wf (f m) = true) :
      regionsWf (modifyAt b.regions flash.val f) := fun m hm => by
    rcases modifyAt_mem hm with hm | ⟨n, hn, rfl⟩
    · exact h m hm
    · exact hf n (h n hn)
  dsimp only [Boot.program]
  split
  · exact h
  · split <;> exact region fun _ hm => wf_writeBytes _ _ _ hm

/-- Programming a list of bytes keeps whatever programming one byte keeps. -/
theorem Boot.programAll_induct {p : Boot → Prop} (hp : ∀ b flash a v, p b → p (Boot.program flash b a v)) {b : Boot}
    (h : p b) {pieces : List (Fin 2 × Nat × List Byte)} : p (b.programAll pieces) :=
  List.foldlRecOn (motive := p) _ _ h fun _ hb _ _ => List.foldlRecOn (motive := p) _ _ hb fun _ hc _ _ => hp _ _ _ _ hc

theorem Boot.wf_programAll {b : Boot} (h : regionsWf b.regions) {pieces : List (Fin 2 × Nat × List Byte)} :
    regionsWf (b.programAll pieces).regions :=
  Boot.programAll_induct (p := fun b => regionsWf b.regions) (fun _ _ _ _ hb => Boot.wf_program hb) h

@[simp] theorem Boot.cores_programAll {b : Boot} {pieces : List (Fin 2 × Nat × List Byte)} :
    (b.programAll pieces).cores = b.cores :=
  Boot.programAll_induct (p := fun c => c.cores = b.cores) (fun _ _ _ _ hb => Boot.cores_program.trans hb) rfl

/-- Where an operation that may be refused succeeds, every memory of the device it gives is in canonical form. -/
def okWf {ε : Type} : Except ε Dev → Prop
  | .ok d => d.memoriesWf
  | .error _ => True

theorem okWf.ite {ε : Type} {c : Prop} {_ : Decidable c} {a b : Except ε Dev} (ha : okWf a) (hb : okWf b) :
    okWf (if c then a else b) := by split <;> assumption

theorem okWf.of_ok {ε : Type} {r : Except ε Dev} {d : Dev} (hr : okWf r) (h : r = .ok d) : d.memoriesWf := by
  subst h; exact hr

theorem okWf.error {ε : Type} {e : ε} : okWf (.error e) := trivial

theorem okWf.ok {ε : Type} {d : Dev} (h : d.memoriesWf) : okWf (Except.ok d : Except ε Dev) := h

section
variable {d : Dev} (h : d.memoriesWf)
include h

theorem Dev.memoriesWf.defaults : d.defaults.memoriesWf := by
  unfold Dev.defaults
  extract_lets e
  have he : e.memoriesWf := h.mainOff
  clear_value e
  refine ⟨he.mem, he.crofts, slotsWf_map he.slots fun _ _ => Cells.wf_nil, he.regions, fun k hk => ?_, he.partials⟩
  rw [List.eq_of_mem_replicate hk]
  exact Cells.wf_nil

theorem Dev.memoriesWf.bootClass {rom : Bool} {c : Nat} : (d.bootClass rom c).memoriesWf := by
  have use {e : Dev} (he : e.memoriesWf) {img : RunImage} : { e with boot := e.boot.use c img }.memoriesWf :=
    he.withBoot he.regions (Boot.wf_use he.cores)
  unfold Dev.bootClass
  extract_lets take a
  split
  · exact use h
  · dsimp only
    split
    · exact .event (by exact (use h.firmwareFault).draw)
    · exact .firmwareFault h.firmwareFault

theorem Dev.memoriesWf.bootFailed : d.bootFailed.memoriesWf := by
  unfold Dev.bootFailed
  extract_lets e
  have he : e.memoriesWf := h.mainOff.firmwareFault
  clear_value e
  exact he

theorem Dev.memoriesWf.resetAssert : d.resetAssert.memoriesWf := by
  unfold Dev.resetAssert
  extract_lets e
  have he : e.memoriesWf := h.mainOff
  clear_value e
  exact .ite h (.releaseTrip he)

theorem Dev.memoriesWf.resetRelease {straps : Fin 4} {pieces : List (Fin 2 × Nat × List Byte)} :
    (d.resetRelease straps pieces).memoriesWf := by
  unfold Dev.resetRelease
  extract_lets e₁ _ e₂ e₃ _ _ e₄ e₅
  have h₀ : { d with boot := d.boot.programAll pieces, logs := d.logs.programAll pieces }.memoriesWf :=
    h.withBoot (Boot.wf_programAll h.regions) (by simpa using h.cores)
  have h₁ : e₁.memoriesWf := h₀.defaults
  clear_value e₁
  have h₂ : e₂.memoriesWf := h₁
  have h₃ : e₃.memoriesWf := h₂.bootClass
  clear_value e₃
  have h₄ : e₄.memoriesWf := h₃
  have h₅ : e₅.memoriesWf := h₄.bootClass
  clear_value e₅
  exact .ite h (.ite (by exact h₃) (.ite h₅.bootFailed h₅))

theorem Dev.memoriesWf.vauxOut : d.vauxOut.memoriesWf := by
  unfold Dev.vauxOut
  extract_lets e
  have he : e.memoriesWf := h.mainOff
  clear_value e
  refine ⟨he.mem, he.crofts, he.slots, he.regions, fun k hk => ?_, he.partials⟩
  rw [List.eq_of_mem_replicate hk]
  exact Cells.wf_nil

theorem Dev.memoriesWf.vauxIn : d.vauxIn.memoriesWf := by
  unfold Dev.vauxIn
  split <;> exact h

theorem Dev.memoriesWf.powerUpSlots : d.powerUpSlots.memoriesWf := h.withSlots fun t ht => by
    obtain ⟨p, -, rfl⟩ := List.mem_map.mp ht
    exact Cells.wf_nil

theorem Dev.memoriesWf.allChecks {bad : List (Fin 80)} : (d.allChecks bad).memoriesWf :=
  foldl_memoriesWf h.generatorCheck fun _ _ he => by
    split
    · exact .ite he.generatorCheck he
    · exact he

theorem Dev.memoriesWf.countChecks {before mapped : Dev} : (Dev.countChecks before mapped d).memoriesWf :=
  .ite h (.changedMore h.changedMore)

theorem Dev.memoriesWf.releaseMonitor : d.releaseMonitor.memoriesWf := by
  unfold Dev.releaseMonitor
  extract_lets img e
  have he : e.memoriesWf := by apply h.write
  clear_value e
  exact he

theorem Dev.memoriesWf.powerUp {m : MemTraining} : (d.powerUp m).memoriesWf := by
  unfold Dev.powerUp
  extract_lets _ e₁ e₂ e₃ e₄ e₅ _ _ e₆ e₇ e₈ e₉
  have h₂ : e₂.memoriesWf := .bootClass (by exact h)
  clear_value e₂
  have h₃ : e₃.memoriesWf := h₂.bootClass
  clear_value e₃
  have h₄ : e₄.memoriesWf := h₃
  have h₅ : e₅.memoriesWf := .countChecks h₄.powerUpSlots.allChecks
  clear_value e₅
  have h₆ : e₆.memoriesWf := h₅
  have h₇ : e₇.memoriesWf := h₆.bootClass
  have h₉ : e₉.memoriesWf := h₇.bootClass.releaseMonitor
  clear_value e₉
  exact .ite h (.ite h₂.bootFailed (.ite h₃.bootFailed (.ite h₇.bootFailed (.serveFuses h₉))))

theorem Dev.memoriesWf.dremosLoad {image : Option (List Byte)} : (d.dremosLoad image).memoriesWf := by
  unfold Dev.dremosLoad
  refine .ite h ?_
  split
  · exact .firmwareFault h.send
  · dsimp only
    split
    · exact .firmwareFault h.send
    · split
      · exact .firmwareFault h.send
      · exact .gainFirmware (by exact h.send)

theorem Dev.memoriesWf.imageStage {c off : Nat} {data : List Byte} : okWf (d.imageStage c off data) := by
  unfold Dev.imageStage
  refine .ite .error (.ite .error (.ite .error (.ite (.ok h) ?_)))
  split
  · exact .ok h
  · exact .ok (.firmwareFault (by exact h))

theorem Dev.memoriesWf.activate {c : Nat} : okWf (d.activate c) := by
  unfold Dev.activate
  refine .ite .error (.ite .error ?_)
  dsimp only
  split
  · exact .ok h
  · have back {e : Dev} (he : e.memoriesWf) {p : Prop} {_ : Decidable p} {v n : Nat} :
        (if p then e else e.thereAndBack v n).memoriesWf := .ite he he.thereAndBack
    exact .ok (back (.thereAndBack (.endActivation (by exact h))))

theorem Dev.memoriesWf.confirm {c : Nat} {run : FuseRun} : okWf (d.confirm c run) := by
  unfold Dev.confirm
  extract_lets _ e
  have he : e.memoriesWf := .serveFuses h
  exact .ite .error (.ite .error (.ok (.ite he he.thereAndBack)))

theorem Dev.memoriesWf.revokeKey {r : List Byte} {run : FuseRun} : okWf (d.revokeKey r run) := by
  unfold Dev.revokeKey
  extract_lets _ e
  have he : e.memoriesWf := .serveFuses h
  exact .ite .error (.ite .error (.ok (.ite he he.thereAndBack)))

theorem Dev.memoriesWf.powerRequest {v : Nat} : okWf (d.powerRequest v) :=
  .ite .error (.ite .error (.ite (.ok (.ite h.onPower h)) (.ok (.ite h h.onPower))))

theorem Dev.memoriesWf.testRequest {slot set : Nat} : okWf (d.testRequest slot set) :=
  .ite .error (.ite .error (.ok h))

theorem Dev.memoriesWf.activationTimeout : d.activationTimeout.memoriesWf := by
  unfold Dev.activationTimeout
  refine .ite h ?_
  dsimp only
  split
  · exact h
  · refine .ite h.endActivation ?_
    split
    · exact .ite (.endRequest (by exact h)) (.firmwareFault (by exact h))
    · exact .firmwareFault (by exact h)

end

/-! ### The in-field test of a slot -/

section
variable {d : Dev} (h : d.memoriesWf)
include h

theorem Dev.memoriesWf.endTest {result : Nat} : (d.endTest result).memoriesWf := h

theorem Dev.memoriesWf.underTest {s : Fin 80} : (d.underTest s).memoriesWf := by
  unfold Dev.underTest
  exact .eventNamed (by exact h.onSlot fun _ _ => Cells.wf_nil)

theorem Dev.memoriesWf.makeWay {s : Fin 80} {c : CroftRef} : (d.makeWay s c).memoriesWf := by
  unfold Dev.makeWay
  exact .ite h.moveOff (.mapChange h.unbind.onCroftBeside)

theorem Dev.memoriesWf.testStart : d.testStart.memoriesWf := by
  unfold Dev.testStart
  refine .ite h ?_
  split
  · exact h.underTest
  · split
    · exact .ite h (.ite (.ite h h.relocate) h.makeWay.underTest)
    · exact h

theorem Dev.memoriesWf.resumePaused {s : Fin 80} : (d.resumePaused s).memoriesWf := by
  unfold Dev.resumePaused
  split
  · exact h
  · extract_lets c e
    have he : e.memoriesWf := h.onCroftBeside
    exact .ite he.moveOff he

theorem Dev.memoriesWf.closeTest {s : Fin 80} {pass : Bool} : (d.closeTest s pass).memoriesWf := by
  unfold Dev.closeTest
  refine h.onSlot fun t _ => ?_
  split
  · exact Slot.wf_off
  · split
    · exact Slot.wf_off (t := t)
    · split <;> exact Slot.wf_off (t := t)

theorem Dev.memoriesWf.testDone {r : TestOutcome} : (d.testDone r).memoriesWf := by
  unfold Dev.testDone
  extract_lets s r' pass fences e₁ e₂ e₃
  have h₁ : e₁.memoriesWf := h.closeTest
  have h₂ : e₂.memoriesWf := .ite h₁.eventOpen h₁
  have h₃ : e₃.memoriesWf := .ite h₂ h₂.resumePaused
  exact .ite h h₃.endTest

theorem Dev.memoriesWf.testWaitExpiry : d.testWaitExpiry.memoriesWf := .ite h.endTest h

end

/-! ### The SPDM responder -/

section
variable {d : Dev} (h : d.memoriesWf)
include h

theorem Dev.memoriesWf.onSpdm {door : Door} {f : Spdm → Spdm} : (d.onSpdm door f).memoriesWf := by
  unfold Dev.onSpdm
  split <;> exact h

theorem Dev.memoriesWf.spdmCapabilities : d.spdmCapabilities.2.memoriesWf := h

theorem Dev.memoriesWf.measures : d.measures.2.memoriesWf := h

theorem Dev.memoriesWf.spdmRespond {door : Door} {resp : List Byte} : (d.spdmRespond door resp).memoriesWf := h.onSpdm

theorem Dev.memoriesWf.challengeAuth {door : Door} {req nonce : List Byte} : (d.challengeAuth door req nonce).memoriesWf := by
  unfold Dev.challengeAuth
  split
  · exact h
  · extract_lets m summary body sig
    have hs : summary.2.memoriesWf := by
      simp only [summary]
      split <;> exact h
    exact .spdmRespond hs.onSpdm

theorem Dev.memoriesWf.measurements {door : Door} {req nonce : List Byte} : (d.measurements door req nonce).memoriesWf := by
  unfold Dev.measurements
  split
  · exact h
  · exact .ite (.spdmRespond h.measures.onSpdm) (.spdmRespond h.measures.onSpdm)

theorem Dev.memoriesWf.spdmNonce {door : Door} {req nonce : List Byte} : (d.spdmNonce door req nonce).memoriesWf :=
  .ite h.challengeAuth h.measurements

theorem Dev.memoriesWf.askWell {r : WellReq} : (d.askWell r).memoriesWf := h

theorem Dev.memoriesWf.spdmAsk {door : Door} {req : List Byte} : (d.spdmAsk door req).memoriesWf := by
  unfold Dev.spdmAsk
  split
  · exact .spdmRespond (by exact h)
  · exact .spdmRespond (by exact h)
  · exact .askWell h.spdmRespond

theorem Dev.memoriesWf.spdmServe {door : Door} {s : Spdm} {req : List Byte} : (d.spdmServe door s req).memoriesWf := by
  unfold Dev.spdmServe
  extract_lets step note need
  have hstep {e : Dev} (he : e.memoriesWf) {resp : List Byte} : (step e resp).memoriesWf := .spdmRespond he.onSpdm
  have hnote {resp : List Byte} : (note resp).memoriesWf := .spdmRespond h.onSpdm
  refine .ite h.spdmRespond (.ite h.spdmRespond ?_)
  split
  · exact .ite h.spdmRespond (hstep h.spdmCapabilities)
  · exact .ite h.spdmRespond (hstep h)
  · exact hnote
  · exact .ite h.spdmRespond hnote
  · exact .ite h.spdmRespond h.spdmAsk
  · exact .ite h.spdmRespond (.ite h.spdmAsk h.drawBytes.measurements)

theorem Dev.memoriesWf.spdmWithdraw {door : Door} : (d.spdmWithdraw door).memoriesWf := h

theorem Dev.memoriesWf.spdmRequest {door : Door} {req : List Byte} : (d.spdmRequest door req).memoriesWf := by
  unfold Dev.spdmRequest
  extract_lets e
  have he : e.memoriesWf := .ite h.spdmWithdraw h
  split
  · exact he
  · exact .ite he.spdmRespond (.ite he.spdmRespond (.ite (.ite he.spdmRespond (.spdmRespond he.onSpdm)) he.spdmServe))

end

/-! ### The Well -/

section
variable {d : Dev} (h : d.memoriesWf)
include h

theorem Dev.memoriesWf.onWell {f : Well → Well} : (d.onWell f).memoriesWf := h

theorem Dev.memoriesWf.onCell {i : Nat} {f : WellCell → WellCell} : (d.onCell i f).memoriesWf := h

theorem Dev.memoriesWf.failLanes {c : CroftRef} {code : Nat} : (d.failLanes c code).memoriesWf := by
  unfold Dev.failLanes
  split
  · extract_lets e
    have he : e.memoriesWf := h.fail
    exact he.withCrofts (croftsWf_map he.crofts fun x hx => by split <;> exact hx)
  · split
    · exact h.croftFault
    · exact h

end

/-- Failing a request for a WELL output keeps the device it is failed on in canonical form. -/
theorem failRequest_memoriesWf {code : Nat} {s : Dev × List CroftRef} (h : s.1.memoriesWf) {r : WellReq} :
    (Dev.failRequest code s r).1.memoriesWf := by
  unfold Dev.failRequest
  split
  · exact h.send
  · exact h.spdmRespond
  · split
    · exact h
    · exact h.failLanes

section
variable {d : Dev} (h : d.memoriesWf)
include h

theorem Dev.memoriesWf.wellEmpty {phase : WellPhase} {code : Nat} : (d.wellEmpty phase code).memoriesWf := by
  unfold Dev.wellEmpty
  exact List.foldlRecOn (motive := fun s : Dev × List CroftRef => s.1.memoriesWf) _ _ h.onWell fun _ hs _ _ =>
    failRequest_memoriesWf hs

theorem Dev.memoriesWf.wellFail : d.wellFail.memoriesWf := h.event.wellEmpty

theorem Dev.memoriesWf.retireCell {i : Fin 4} : (d.retireCell i).memoriesWf := by
  unfold Dev.retireCell
  extract_lets e₁ _ e₂ e₃ e₄ spare e₅
  have h₁ : e₁.memoriesWf := h.onCell
  have h₂ : e₂.memoriesWf := h₁
  have h₃ : e₃.memoriesWf := .ite h₂.recordRetired h₂
  have h₄ : e₄.memoriesWf := h₃.draw.event
  have h₅ : e₅.memoriesWf := by
    simp only [e₅]
    clear_value spare
    split
    · exact h₄.onCell
    · exact h₄
  exact .ite h₅ h₅.wellFail

theorem Dev.memoriesWf.blockFails {i : Fin 4} : (d.blockFails i).memoriesWf := by
  unfold Dev.blockFails
  extract_lets now e₁ e₂ e₃ worn e₄
  have h₃ : e₃.memoriesWf := .onCell (.onWell h.corrected)
  have h₄ : e₄.memoriesWf := .ite h₃.retireCell h₃
  exact .ite h₄ (.ite h₄.wellFail h₄)

theorem Dev.memoriesWf.wellBlockTested {i : Fin 4} {raw : List Bool} : (d.wellBlockTested i raw).memoriesWf := by
  unfold Dev.wellBlockTested
  split
  · exact h
  · exact .ite h (.ite (.blockFails h.onCell) (.ite (.onWell (.onCell h.onCell)) (.ite (.onWell (.onWell (.onCell h.onCell)))
      (.onWell (.onWell (.onCell h.onCell))))))

theorem Dev.memoriesWf.presentTrim {c : WellCell} : (d.presentTrim c).2.memoriesWf := by
  unfold Dev.presentTrim
  split <;> exact h

theorem Dev.memoriesWf.wellGenerate : d.wellGenerate.memoriesWf := by
  unfold Dev.wellGenerate
  exact .ite h h.onWell

theorem Dev.memoriesWf.setTrim {i : Fin 4} {trim ones : Nat} : (d.setTrim i trim ones).memoriesWf := by
  unfold Dev.setTrim
  exact .ite (.retireCell h.onCell) h.onCell

theorem Dev.memoriesWf.wellTrimUpdate {i : Fin 4} {ones : Nat} : (d.wellTrimUpdate i ones).memoriesWf := by
  unfold Dev.wellTrimUpdate
  split
  · exact h
  · exact .ite h h.presentTrim.setTrim

theorem Dev.memoriesWf.wellCellSettled {i : Fin 4} {settled : Bool} : (d.wellCellSettled i settled).memoriesWf := by
  unfold Dev.wellCellSettled
  split
  · exact h
  · exact .ite h (.ite h.onCell h.retireCell)

theorem Dev.memoriesWf.wellCalibration {i : Fin 4} {ones : Nat} : (d.wellCalibration i ones).memoriesWf := by
  unfold Dev.wellCalibration
  split
  · exact h
  · exact .ite h (.setTrim (.onWell (.onCell (.draw h.presentTrim))))

theorem Dev.memoriesWf.wellEnableWrite {on : Bool} : (d.wellEnableWrite on).memoriesWf := by
  unfold Dev.wellEnableWrite
  extract_lets _ e₁ left e₂ e₃
  have h₁ : e₁.memoriesWf := h
  have h₂ : e₂.memoriesWf := .ite h₁ h₁.wellEmpty
  have h₃ : e₃.memoriesWf := h₁.onWell
  exact .ite (.ite h₂.onWell h₂) (.ite (.ite h₃ h₃.wellFail) h₁)

theorem Dev.memoriesWf.wellCheck : d.wellCheck.memoriesWf := .ite h.wellFail h

theorem Dev.memoriesWf.openSession {f : BitVec 384} : (d.openSession f).memoriesWf := by
  unfold Dev.openSession
  split
  · exact Dev.memoriesWf_mk.mpr h.send
  · exact h.send

theorem Dev.memoriesWf.dtlsHandshake {f : BitVec 384} {o : DtlsOffer} : (d.dtlsHandshake f o).memoriesWf := by
  unfold Dev.dtlsHandshake
  refine .ite h (.ite h.send (.ite h.send (.ite h.send (.ite h.send ?_))))
  split
  · exact .send h.onWell
  · exact .send h.onWell
  · exact h.askWell

theorem Dev.memoriesWf.watchServed {use : WatchUse} {got : List Byte} : (d.watchServed use got).memoriesWf := by
  unfold Dev.watchServed
  split
  · exact .ite h (.ite h.send (.ite h.send h.openSession))
  · exact h.spdmNonce

theorem Dev.memoriesWf.settleJob {j : Fin 64} : (d.settleJob j).memoriesWf := foldl_memoriesWf h fun _ _ he => he.settle

theorem Dev.memoriesWf.lanesServed {c : CroftRef} {got : List Byte} : (d.lanesServed c got).memoriesWf :=
  .settleJob h.onCroftBeside

theorem Dev.memoriesWf.served {r : WellReq} : (d.served r).memoriesWf := by
  unfold Dev.served
  split
  · exact h.watchServed
  · exact h.lanesServed

theorem Dev.memoriesWf.wellDelivery : d.wellDelivery.memoriesWf := by
  unfold Dev.wellDelivery
  split
  · exact h
  · split
    · exact h
    · exact .ite h (.ite (.served (.onWell h.onWell)) (.onWell h.onWell))

theorem Dev.memoriesWf.seedCsrRead {hart : Fin 32} : (d.seedCsrRead hart).memoriesWf := by
  unfold Dev.seedCsrRead
  refine .ite h ?_
  split
  · exact h.send
  · exact h.send
  · exact h.send
  · exact .ite h.send (.send h.onWell)

end

end Sys2Proof.Machine
end

section
/-!
SUPPORT. The canonical form of the byte memories: the outside ports, the dictionary, and stores to hub MMIO.
-/

namespace Sys2Proof.Machine

/-! ### The test access port -/

section
variable {d : Dev} (h : d.memoriesWf)
include h

theorem Dev.memoriesWf.captureDr : d.captureDr.2.memoriesWf := by
  unfold Dev.captureDr
  split
  · exact h
  · split <;> exact h

theorem Dev.memoriesWf.tckRises {tms tdi : Bool} : (d.tckRises tms tdi).memoriesWf := by
  unfold Dev.tckRises
  extract_lets e₀ _ _ e
  have he : e.memoriesWf := by
    simp only [e]
    split
    · exact Dev.memoriesWf_mk.mpr h.captureDr
    · exact h
    · exact h
    · exact h
    · exact h
  clear_value e
  exact he

theorem Dev.memoriesWf.tapTckEdge {rising : Bool} {tms : TapPins} {tdi : Bool} : (d.tapTckEdge rising tms tdi).memoriesWf := by
  unfold Dev.tapTckEdge
  extract_lets _ e
  have he : e.memoriesWf := h
  exact .ite he (.ite (by exact he) (.ite he.tckRises he))

theorem Dev.memoriesWf.trstNAssert : d.trstNAssert.memoriesWf := by
  dsimp only [Dev.trstNAssert]
  split <;> exact h

end

/-! ### The outside ports -/

section
variable {d : Dev} (h : d.memoriesWf)
include h

theorem Dev.memoriesWf.onEth {p : Nat} {f : EthPort → EthPort} : (d.onEth p f).memoriesWf := h

theorem Dev.memoriesWf.onRing {p : Nat} {tx : Bool} {r : Nat} {f : Machine.Ring → Machine.Ring} :
    (d.onRing p tx r f).memoriesWf := h

theorem Dev.memoriesWf.writeRingControl {p : Nat} {tx : Bool} {r v : Nat} : (d.writeRingControl p tx r v).memoriesWf := h

theorem Dev.memoriesWf.ethTailWrite {p : Nat} {tx : Bool} {r : Nat} {v : Word32} : (d.ethTailWrite p tx r v).memoriesWf := by
  unfold Dev.ethTailWrite
  exact .ite h (.ite h.onRing (.eventNamed h.onRing))

theorem Dev.memoriesWf.ringAdvance {p : Nat} {tx : Bool} {r n : Nat} : (d.ringAdvance p tx r n).memoriesWf := by
  unfold Dev.ringAdvance
  exact .ite (.interrupt h.onRing) h.onRing

theorem Dev.memoriesWf.stamp {valid : Bool} {frac : BitVec 16} : (d.stamp valid frac).2.memoriesWf := by
  unfold Dev.stamp
  split <;> exact h

theorem Dev.memoriesWf.takePfc {p ring : Nat} {frame : List Byte} : (d.takePfc p ring frame).memoriesWf := h

theorem Dev.memoriesWf.ethFrameReceive {p ring : Nat} {hash : Word32} {frame : List Byte} {fcs : Word32} {tsValid : Bool}
    {frac : BitVec 16} : (d.ethFrameReceive p ring hash frame fcs tsValid frac).memoriesWf := by
  unfold Dev.ethFrameReceive
  refine .ite h (.ite (.ite h h.takePfc) (.ite h ?_))
  split
  · exact h
  · split
    · exact h.faultEvent
    · refine .ringAdvance (foldl_memoriesWf h fun e _ he => ?_)
      apply Dev.memoriesWf.write
      apply Dev.memoriesWf.write
      exact he.stamp

theorem Dev.memoriesWf.ethFrameTransmitDone {p ring : Nat} {frac : BitVec 16} :
    (d.ethFrameTransmitDone p ring frac).memoriesWf := by
  unfold Dev.ethFrameTransmitDone
  refine .ite h ?_
  split
  · exact h
  · dsimp only
    refine .ite h (.ringAdvance (foldl_memoriesWf ?_ fun e _ he => ?_))
    · split
      · exact h.faultEvent
      · exact .ite h.send h
    · apply Dev.memoriesWf.write
      exact he.stamp

theorem Dev.memoriesWf.ethLinkChange {p : Nat} {code : Fin 5} : (d.ethLinkChange p code).memoriesWf := .ite h h.onEth

theorem Dev.memoriesWf.mgmtLinkChange {up : Bool} : (d.mgmtLinkChange up).memoriesWf := by
  unfold Dev.mgmtLinkChange
  split <;> exact h

theorem Dev.memoriesWf.pcieLinkChange {rate width : Byte} {flit : Bool} : (d.pcieLinkChange rate width flit).memoriesWf := by
  unfold Dev.pcieLinkChange
  split <;> exact h

theorem Dev.memoriesWf.closeSession {k : Nat} : (d.closeSession k).memoriesWf := h

theorem Dev.memoriesWf.sessionIdleClose {k : Fin 16} : (d.sessionIdleClose k).memoriesWf := by
  unfold Dev.sessionIdleClose
  split
  · exact .ite h.closeSession h
  · exact h

theorem Dev.memoriesWf.pend {core : Nat} {machine : Bool} {id : Nat} : (d.pend core machine id).memoriesWf := by
  dsimp only [Dev.pend]
  split <;> exact h

theorem Dev.memoriesWf.postInterrupt {a v : Nat} : (d.postInterrupt a v).memoriesWf := by
  unfold Dev.postInterrupt
  dsimp only
  split
  · exact h.pend
  · exact h

theorem Dev.memoriesWf.onIrqFile {core : Nat} {machine : Bool} {f : IrqFile → IrqFile} :
    (d.onIrqFile core machine f).memoriesWf := h

theorem Dev.memoriesWf.writeIrq {a v : Nat} : (d.writeIrq a v).memoriesWf := by
  unfold Dev.writeIrq
  dsimp only
  split
  · exact h
  · exact h.postInterrupt
  · exact h.onIrqFile
  · exact h.onIrqFile
  · exact h.onIrqFile
  · exact h
  · split <;> exact h

theorem Dev.memoriesWf.blockInbound : d.blockInbound.memoriesWf := h

theorem Dev.memoriesWf.pcieInbound {r : PcieReq} : (d.pcieInbound r).memoriesWf := by
  unfold Dev.pcieInbound
  refine .ite h ?_
  split
  · exact h.eventNamed
  · refine .ite h.blockInbound ?_
    split
    · exact .send h.faultEvent
    · exact h.send
  · refine .ite h.postInterrupt (.ite h.blockInbound ?_)
    split
    · exact .send h.faultEvent
    · exact h.write

end

/-! ### The entries of the dictionary -/

section
variable {d : Dev} (h : d.memoriesWf)
include h

theorem Dev.memoriesWf.bumped {old : Dev} : (old.bumped d).memoriesWf := h

end

/-! ### The doors of the dictionary -/

theorem okWf.ranged {d : Dev} (h : d.memoriesWf) {v lo hi : Nat} : okWf (ranged v lo hi d) := .ite (.ok h) .error

section
variable {d : Dev} (h : d.memoriesWf)
include h

theorem Dev.memoriesWf.commitBlock {b : Block} : (d.commitBlock b).memoriesWf := h

theorem Dev.memoriesWf.logCommit {b : Block} {members : List (Nat × Nat)} : (d.logCommit b members).memoriesWf :=
  foldl_memoriesWf h fun _ _ he => he.event

theorem Dev.memoriesWf.trainAgain {p : Nat} : (d.trainAgain p).memoriesWf := by
  unfold Dev.trainAgain
  split
  · exact h.retrain
  · exact h.onPort
  · exact h.onPort
  · exact h.onPort
  · exact h
  · exact h
  · exact h

theorem Dev.memoriesWf.afterCommit {b : Block} {members : List (Nat × Nat)} : (d.afterCommit b members).memoriesWf := by
  unfold Dev.afterCommit
  split
  · exact foldl_memoriesWf h fun _ _ he => he.closeSession
  · extract_lets e
    have he : e.memoriesWf := foldl_memoriesWf h fun _ _ he => he.trainAgain.checkNeighbour
    exact .ite he he.flood
  · exact foldl_memoriesWf h fun _ _ he => he.onEth
  · exact h

theorem Dev.memoriesWf.commitApplied {b : Block} : (d.commitApplied b).memoriesWf := by
  unfold Dev.commitApplied
  split
  · exact h
  · exact .ite h (.afterCommit (.logCommit (by exact h)))

theorem Dev.memoriesWf.onSettings {f : Settings → Settings} : (d.onSettings f).memoriesWf := h

theorem Dev.memoriesWf.onShadow {f : Staged → Staged} : (d.onShadow f).memoriesWf := h

theorem Dev.memoriesWf.powerLimit {w : Nat} : okWf (d.powerLimit w) := .ranged h.onPower

theorem Dev.memoriesWf.portEnable {p : Nat} {on : Bool} : (d.portEnable p on).memoriesWf := by
  unfold Dev.portEnable
  exact .ite h.onSettings (.dropPort h.onSettings)

theorem Dev.memoriesWf.writeShadow {index sub v : Nat} {bytes : List Byte} : okWf (d.writeShadow index sub v bytes) := by
  unfold Dev.writeShadow
  dsimp only
  split
  · exact .ranged h.onShadow
  · exact .ranged h.onShadow
  · exact .ranged h.onShadow
  · exact .ok h.onShadow
  · exact .ok h.onShadow
  · exact .ranged h.onShadow
  · exact .ranged h.onShadow
  · exact .ranged h.onShadow
  · exact .ranged h.onShadow

theorem Dev.memoriesWf.writeCommand {index sub v : Nat} {bytes : List Byte} {run : FuseRun} : okWf
    (d.writeCommand index sub v bytes run) := by
  unfold Dev.writeCommand
  refine .ite (.ranged h.commitBlock) ?_
  split
  · exact h.powerRequest
  · exact h.testRequest
  · exact h.activate
  · exact h.confirm
  · exact h.revokeKey

theorem Dev.memoriesWf.writeValue {index sub v : Nat} {bytes : List Byte} : okWf (d.writeValue index sub v bytes) := by
  unfold Dev.writeValue
  split
  · exact h.powerLimit
  · exact .ranged (by exact h)
  · exact .ok h.onSettings
  · exact .ranged h.portEnable
  · exact .ok h.onSettings
  · exact .ok h.onSettings
  · exact .ok h.onSettings
  · exact .ranged h.wellEnableWrite
  · exact .ok h.onSettings
  · exact .ranged h.onSettings
  · exact .ranged h.onSettings
  · exact .ok h.onSettings
  · exact .ranged (by exact h)
  · exact .ok h
  · exact .ranged h.onSettings
  · exact .ranged h.onSettings
  · exact .ite .error (.ranged (by exact h))

theorem Dev.memoriesWf.writeEntry {door : Door} {r : OdRow} {sub off : Nat} {bytes : List Byte} {run : FuseRun} : okWf
    (d.writeEntry door r sub off bytes run) := by
  unfold Dev.writeEntry
  dsimp only
  split
  · exact .ite (.ok h.spdmRequest) h.imageStage
  · exact h.writeShadow
  · exact h.writeCommand
  · exact h.writeValue

/-! ### Requests -/

/-- A refusal keeps the device, whichever branch asks for it. -/
theorem Dev.memoriesWf.answerIte {c : Prop} {_ : Decidable c} {m : List Byte} {status version : Nat} {a : Answer}
    (ha : a.dev.memoriesWf) : (if c then refuseWith d m status version else a).dev.memoriesWf := by
  split
  · exact h
  · exact ha

theorem Dev.memoriesWf.answerRead {door : Door} {role : Nat} {r : OdRow} {m : List Byte} :
    (d.answerRead door role r m).dev.memoriesWf := by
  unfold Dev.answerRead
  exact h.answerIte (h.answerIte (h.answerIte (h.answerIte h)))

theorem Dev.memoriesWf.answerWrite {door : Door} {role : Nat} {run : FuseRun} {r : OdRow} {m : List Byte} :
    (d.answerWrite door role run r m).dev.memoriesWf := by
  unfold Dev.answerWrite
  refine h.answerIte (h.answerIte (h.answerIte (h.answerIte ?_)))
  split
  · exact h
  next new hnew => exact h.answerIte (h.writeEntry.of_ok hnew).bumped

theorem Dev.memoriesWf.answerInfo {door : Door} {m : List Byte} : (d.answerInfo door m).dev.memoriesWf := by
  unfold Dev.answerInfo
  dsimp only
  split
  · exact h
  · split <;> exact h

theorem Dev.memoriesWf.answer {door : Door} {role : Nat} {run : FuseRun} {m : List Byte} :
    (d.answer door role run m).dev.memoriesWf := by
  unfold Dev.answer
  refine h.answerIte ?_
  split
  · exact h.answerInfo
  · split
    · exact h
    · split
      · exact h.answerRead
      · exact h.answerWrite

theorem Dev.memoriesWf.mailboxReply {bytes : List Byte} : (d.mailboxReply bytes).memoriesWf := by
  unfold Dev.mailboxReply
  exact .ite (.interrupt (by exact h)) h

theorem Dev.memoriesWf.deliver {door : Door} {bytes : List Byte} : (d.deliver door bytes).memoriesWf := by
  unfold Dev.deliver
  split
  · exact h.send
  · exact h.mailboxReply

theorem Dev.memoriesWf.keep {door : Door} {k : Kept} : (d.keep door k).memoriesWf := by
  unfold Dev.keep
  split <;> exact h

theorem Dev.memoriesWf.touch {door : Door} : (d.touch door).memoriesWf := by
  unfold Dev.touch
  split <;> exact h

theorem Dev.memoriesWf.dropChanged {old : Dev} : (old.dropChanged d).memoriesWf :=
  foldl_memoriesWf h fun _ _ he => by
    split
    · exact .ite he he.closeSession
    · exact he

theorem Dev.memoriesWf.serve {door : Door} {m : List Byte} {run : FuseRun} : (d.serve door m run).memoriesWf := by
  unfold Dev.serve
  refine .ite h ?_
  dsimp only
  split
  · exact .deliver h.touch
  · exact h
  · exact .dropChanged (.deliver (.keep (.touch h.answer)))

theorem Dev.memoriesWf.serveAt {mine : Nat → Nat → List Byte → Bool} {door : Door} {m : List Byte} {run : FuseRun} :
    (d.serveAt mine door m run).memoriesWf :=
  .ite h.serve h

theorem Dev.memoriesWf.serveSpdm {mine : Nat → Bool} {door : Door} {req : List Byte} :
    (d.serveSpdm mine door req).memoriesWf := by
  unfold Dev.serveSpdm
  exact .ite h (.touch h.spdmRequest)

theorem Dev.memoriesWf.writeMbControl {v : Word32} : (d.writeMbControl v).memoriesWf := by
  unfold Dev.writeMbControl
  exact .ite (by exact h) (.ite (.mailboxReply (by exact h)) h)

theorem Dev.memoriesWf.mailboxGo {v : Word32} : (d.mailboxGo v).memoriesWf := .ite h.writeMbControl h

theorem Dev.memoriesWf.mailboxDoneClear {v : Word32} : (d.mailboxDoneClear v).memoriesWf := .ite h.writeMbControl h

theorem Dev.memoriesWf.smbusRead {addr : BitVec 7} {index : BitVec 16} {sub : Byte} {off : BitVec 16} {count : Byte}
    {pecGood : Bool} : (d.smbusRead addr index sub off count pecGood).memoriesWf :=
  .ite h h.send

theorem Dev.memoriesWf.writeAggregate {a : Aggregate} : (d.writeAggregate a).memoriesWf := by
  unfold Dev.writeAggregate
  extract_lets detail e
  have he : e.memoriesWf := .ite h h.draw
  clear_value e
  exact he

theorem Dev.memoriesWf.eventAggregateFlush : d.eventAggregateFlush.memoriesWf := by
  unfold Dev.eventAggregateFlush
  extract_lets minute e
  have he : e.memoriesWf := .ite h.pass h
  clear_value e
  exact .ite h (foldl_memoriesWf he fun _ _ hf => hf.writeAggregate)

end

/-! ### Stores to hub MMIO -/

section
variable {d : Dev} (h : d.memoriesWf)
include h

theorem Dev.memoriesWf.unmapped : d.unmapped.memoriesWf := h

theorem Dev.memoriesWf.ofWidth {ok : Bool} {f : Dev → Dev} (hf : (f d).memoriesWf) : (d.ofWidth ok f).memoriesWf :=
  .ite hf h.unmapped

theorem Dev.memoriesWf.writeQcb {q : Fin 16384} {off : Nat} {wide : Bool} {v : Word64} :
    (d.writeQcb q off wide v).memoriesWf := by
  unfold Dev.writeQcb
  dsimp only
  split
  · exact h.ofWidth (.ite h h.setQueue)
  · exact h.ofWidth (.ite h h.setQueue)
  · exact h.ofWidth h.writeConfig
  · exact h.ofWidth (.ite h h.setQueue)
  · exact h.unmapped
  · exact h.unmapped
  · exact .ite (h.ofWidth h) h

theorem Dev.memoriesWf.writeDoorbell {q : Fin 16384} {off : Nat} {wide : Bool} {v : Word64} :
    (d.writeDoorbell q off wide v).memoriesWf := by
  unfold Dev.writeDoorbell
  split
  · exact h.ofWidth h.submissionDoorbell
  · exact h.ofWidth h.completionDoorbell
  · exact h

theorem Dev.memoriesWf.writeRing {p : Nat} {tx : Bool} {r off : Nat} {wide : Bool} {v : Word64} :
    (d.writeRing p tx r off wide v).memoriesWf := by
  unfold Dev.writeRing
  dsimp only
  split
  · exact h.ofWidth (.ite h h.onRing)
  · exact h.unmapped
  · exact h.ofWidth (.ite h h.onRing)
  · exact h.ofWidth h
  · exact h.ofWidth h.ethTailWrite
  · exact h.ofWidth h.writeRingControl
  · exact h.ofWidth h.onRing
  · exact h

theorem Dev.memoriesWf.writeEthPort {p off : Nat} {wide : Bool} {v : Word64} : (d.writeEthPort p off wide v).memoriesWf :=
  .ite h.writeRing (.ite h.writeRing h)

theorem Dev.memoriesWf.writePcie {off : Nat} {wide : Bool} {v : Word64} : (d.writePcie off wide v).memoriesWf := by
  unfold Dev.writePcie
  split
  · exact h
  · exact h.ofWidth h

theorem Dev.memoriesWf.writeMailbox {off : Nat} {wide : Bool} {v : Word64} : (d.writeMailbox off wide v).memoriesWf := by
  unfold Dev.writeMailbox
  dsimp only
  refine .ite (.ite h (by exact h)) ?_
  split
  · exact h.ofWidth h.writeMbControl
  · exact h.ofWidth (.ite h h)
  · exact h.ofWidth h
  · exact h.ofWidth h
  · exact h.ofWidth h
  · exact h

theorem Dev.memoriesWf.writeMmio {off : Nat} {wide : Bool} {v : Word64} : (d.writeMmio off wide v).memoriesWf :=
  .ite h (.ite h.writeQcb (.ite h.writeDoorbell (.ite h.writeEthPort (.ite h.writePcie (.ite (h.ofWidth h.writeIrq)
    (.ite h.writeMailbox h.unmapped))))))

theorem Dev.memoriesWf.registerWrite {addr : Word64} {size : Fin 4} {v : Word64} :
    (d.registerWrite addr size v).memoriesWf := by
  unfold Dev.registerWrite
  refine .ite h (.ite h.unmapped ?_)
  split
  · exact .ite (.ite h h.send) (.ite h.unmapped h.writeMmio)
  · split
    · exact h.faultEvent
    · exact h.write

end

/-! ### What every command does beside its own effect -/

section
variable {d : Dev} (h : d.memoriesWf)
include h

theorem Dev.memoriesWf.traced : d.traced.memoriesWf := by
  unfold Dev.traced
  split <;> exact h

/-- What acts only while the main rails are on. -/
theorem Dev.memoriesWf.powered {f : Dev → Dev} (hf : (f d).memoriesWf) : (powered f d).memoriesWf := .ite hf h

end

end Sys2Proof.Machine
end

section
/-!
PROOF. Every command, and so every step, keeps the canonical form of the byte memories: O4.
-/

namespace Sys2Proof.Machine

/-- Where a command answers a next state, every memory of its device is in canonical form. -/
def nextWf (o : Host.Outcome State Fault Refusal) : Prop := ∀ t, o = .next t → t.dev.memoriesWf

/-- A command keeps the canonical form when its effect on the device does: the versions and the trace hold no byte memory. -/
theorem nextWf.effect {f : Dev → Dev} {s : State} (h : (f s.dev).memoriesWf) : nextWf (effect f s) := fun t ht => by
  obtain ⟨u, hu, -, hdev⟩ := effect_answers f s
  cases hu.symm.trans ht
  rw [hdev]
  exact h.traced.bumped

theorem nextWf.effectKept {f : Dev → Dev} {s : State} (h : (f s.dev).memoriesWf) : nextWf (effectKept f s) := fun t ht => by
  obtain ⟨u, hu, -, hdev⟩ := effectKept_answers f s
  cases hu.symm.trans ht
  rw [hdev]
  exact h.traced

/-- Every command keeps the canonical form, row by row of the table. -/
theorem exec_nextWf {s : State} (h : s.dev.memoriesWf) {i : Instr} : nextWf (exec i s) := by
  unfold exec
  cases i with
  | ctrlNop | ctrlSeta | ctrlAdda | ctrlSetc | ctrlAddc | ctrlLoop | ctrlJump | ctrlCinit | ctrlCsave | ctrlCrest
  | ctrlEnd | syncChk | syncWait | syncSig | syncFence | syncBar | millMm | drainRed | drainEmit | sampBern | sampGibbs
  | sampGumb | sampTake | sampMask | sampFill | fieldLoad | fieldSweep | fieldSnap | fieldRead | moveDma | moveZero
  | meshPut | meshMcast =>
    exact .effect h.issueRow
  | instructionStart => exact .effect h.instructionStart
  | instructionCompletion => exact .effect h.completeInstruction
  | fieldPhaseEnd => exact .effect h.fieldPhaseEnd
  | fieldSweepEnd => exact .effect h.fieldSweepEnd
  | snapshotCommit => exact .effect h.snapshotCommit
  | haloRecord => exact .effect h.haloRecord
  | haloHandshake => exact .effect h.haloHandshake
  | haloStall => exact .effect h.haloStall
  | fieldErrorRollback => exact .effect h.fieldErrorRollback
  | checkErrorReplay => exact .effect h.checkErrorReplay
  | syncTimeout => exact .effect h.syncTimeout
  | remoteSignal => exact .effect h.remoteSignal
  | barrierArrival => exact .effect h.barrierArrival
  | barrierRelease => exact .effect h.barrierRelease
  | barrierForward => exact .effect h.barrierForward
  | lanePositioningDone => exact .effect (.settle h.lanePositioningDone)
  | islandPark => exact .effect h.islandPark
  | islandResume => exact .effect h.islandResume
  | mapChanged => exact .effect h.mapChanged
  | croftSwitch => exact .effect h.croftSwitch
  | croftMove => exact .effect h.croftMove
  | generatorCheck => exact .effect (h.powered h.generatorCheck)
  | granaryForcedScrub => exact .effect h.granaryForcedScrub
  | granaryRowRepair => exact .effect h.granaryRowRepair
  | patrolScrub => exact .effect (h.powered h.patrolScrub)
  | memoryRepair => exact .effect (h.powered h.memoryRepair)
  | unfit => exact .effect (h.powered h.unfit)
  | ageMeasure => exact .effect h.ageMeasure
  | ageRetire => exact .effect (h.powered h.ageRetire)
  | ageNoSpare => exact .effect (h.powered h.ageNoSpare)
  | routerFailure => exact .effect (h.powered h.routerFailure)
  | multicastAcceptance => exact .effect h.multicastAcceptance
  | writeAcknowledgement => exact .effect h.writeAcknowledgement
  | meshAckTimeout => exact .effect h.meshAckTimeout
  | submissionDoorbell => exact .effect (h.powered h.submissionDoorbell)
  | completionDoorbell => exact .effect (h.powered h.completionDoorbell)
  | queueEnable | queueDisable => exact .effect (h.powered h.writeConfig)
  | registerWrite => exact .effect h.registerWrite
  | queueFetch => exact .effect (h.powered h.queueFetch)
  | launch => exact .effect h.launch
  | copy => exact .effect h.copy
  | multicast => exact .effect h.multicast
  | collective => exact .effect h.collective
  | modelLoad => exact .effect h.modelLoad
  | fieldRun => exact .effect h.fieldRun
  | fence => exact .effect h.fence_
  | timestamp => exact .effect h.timestamp
  | ledgerClose => exact .effect h.ledgerClose
  | commandStart => exact .effect h.commandStart
  | commandCompletion => exact .effect h.commandCompletion
  | contribution => exact .effect h.contribution
  | refuse => exact .effect h.refuse
  | collTimeout => exact .effect h.collTimeout
  | fohalFlit => exact .effect (h.powered h.fohalFlit)
  | nak => exact .effect (h.powered h.nak)
  | laneSpared => exact .effect (h.powered h.laneSpared)
  | portSignalDetect => exact .effect (h.powered h.portSignalDetect)
  | portPhaseDone => exact .effect (h.powered h.portPhaseDone)
  | portStateTimeout => exact .effect (h.powered h.portStateTimeout)
  | capabilityRecord => exact .effect (h.powered h.capabilityRecord)
  | rttRemeasure => exact .effect (h.powered h.rttRemeasure)
  | leave => exact .effect (h.powered h.leave)
  | linkStateRecord => exact .effect (h.powered h.linkStateRecord)
  | routesUpdated => exact .effect (h.powered h.routesUpdated)
  | messageRestart => exact .effect (h.powered h.messageRestart)
  | timeExchange => exact .effect (h.powered h.timeExchange)
  | emergencyNotice => exact .effect h.emergencyNotice
  | read => exact .effectKept (.ite h h.serve)
  | write | info => exact .effectKept (.ite h.serve h)
  | dtlsHandshake => exact .effect h.dtlsHandshake
  | sessionIdleClose => exact .effect h.sessionIdleClose
  | mailboxGo => exact .effect h.mailboxGo
  | mailboxDoneClear => exact .effect h.mailboxDoneClear
  | smbusRead => exact .effect h.smbusRead
  | commit | shadowWrite | roleEntryWrite | powerLimitWrite | traceEnableWrite | wellEnableWrite | testRequest
  | imageStage | activate | confirm | revokeKey | powerRequestStandby | powerRequestReady =>
    exact .effectKept h.serveAt
  | commitApplied => exact .effect h.commitApplied
  | testStart => exact .effect h.testStart
  | testDone => exact .effect h.testDone
  | testWaitExpiry => exact .effect h.testWaitExpiry
  | activationSwitch => exact .effect (h.powered h.activationSwitch)
  | activationTimeout => exact .effect h.activationTimeout
  | powerDown => exact .effect h.powerDown
  | getVersion | getCapabilities | negotiateAlgorithms | getDigests | getCertificate | challenge | getMeasurements
  | unsupportedRequest =>
    exact .effect h.serveSpdm
  | ethTailWrite => exact .effect (h.powered h.ethTailWrite)
  | ethFrameReceive => exact .effect (h.powered h.ethFrameReceive)
  | ethFrameTransmitDone => exact .effect (h.powered h.ethFrameTransmitDone)
  | pcieInbound => exact .effect h.pcieInbound
  | seedCsrRead => exact .effect h.seedCsrRead
  | wellBlockTested => exact .effect h.wellBlockTested
  | wellGenerate => exact .effect h.wellGenerate
  | wellTrimUpdate => exact .effect h.wellTrimUpdate
  | wellCellSettled => exact .effect h.wellCellSettled
  | wellCalibration => exact .effect h.wellCalibration
  | wellDelivery => exact .effect h.wellDelivery
  | eventAggregateFlush => exact .effect h.eventAggregateFlush
  | resetInNAssert => exact .effect h.resetAssert
  | resetInNRelease => exact .effectKept h.resetRelease
  | dremosLoad => exact .effect h.dremosLoad
  | vauxOutOfRange => exact .effect h.vauxOut
  | powerUpSequence => exact .effect (.wellCheck h.powerUp)
  | powerFail => exact .effect h.powerFail
  | supplyOutOfRange => exact .effect h.supplyOutOfRange
  | powerEvaluation => exact .effect h.powerEvaluation
  | tjSample => exact .effect h.tjSample
  | emergencyClear => exact .effect h.emergencyClear
  | thermtrip => exact .effect h.thermtrip
  | pmbusPoll => exact .effect h.pmbusPoll
  | pmbusScan => exact .effect h.pmbusScan
  | pmbAlertN => exact .effect h.pmbAlertN
  | railMeasurement => exact .effect h.railMeasurement
  | refclkLoss => exact .effect h.refclkLoss
  | clockLost => exact .effect h.clockLost
  | refclkReturn => exact .effect h.refclkReturn
  | droopStretch => exact .effect h.droopStretch
  | ppsInEdge => exact .effect h.ppsInEdge
  | ppsOutSecond => exact .effect h.ppsOutSecond
  | vauxInRange => exact .effect h.vauxIn
  | ethLinkChange => exact .effect h.ethLinkChange
  | mgmtLinkChange => exact .effect h.mgmtLinkChange
  | pcieLinkChange => exact .effect h.pcieLinkChange
  | ppsInAbsent => exact .effect h.ppsInAbsent
  | tapTckEdge => exact .effect h.tapTckEdge
  | trstNAssert => exact .effect h.trstNAssert

theorem Dev.memoriesWf.fohalTime {d : Dev} (h : d.memoriesWf) {units : Nat} : (d.fohalTime units).memoriesWf :=
  .ite h.ship.pump h

theorem Dev.memoriesWf.tick {d : Dev} (h : d.memoriesWf) : d.tick.memoriesWf := h.fohalTime.pass

/-- One step: idling for a cycle, or the command at the front of the queue. -/
theorem step_nextWf {s : State} (h : s.dev.memoriesWf) : nextWf (step s) := by
  unfold step
  split
  · exact .effect h.tick
  · exact exec_nextWf (by exact h)

/-- Settles O4: every operation on the device keeps each of its byte memories in canonical form, because all of them write with
`writeBytes` or `clearBytes`, empty a memory, or carry a whole one from a croft to its slot. -/
theorem memoriesKept : Obligations.MemoriesKept := by
  unfold Obligations.MemoriesKept
  exact fun s t h ht => step_nextWf h t ht

end Sys2Proof.Machine
end

section
/-!
SUPPORT. What a pass of a Mill computes (02_mill_arithmetic.md R45, R52, R57 to R68): the numbers of exact values, the sum of
a group, the running sums of plain and compensated tiles, and the passes of an instruction on one entry.
-/

namespace Sys2Proof.Machine

/-! ## Exact values and their numbers -/

@[simp] theorem Fval.rat_fin (s : Bool) (m : Nat) (e : Int) :
    (Fval.fin s m e).rat = (if s then -1 else 1) * m * (2 : ℚ) ^ e := rfl

/-- A signed integer times a power of two is the number it names. -/
@[simp] theorem rat_ofDy (m e : Int) : (ofDy m e).rat = m * (2 : ℚ) ^ e := by
  have hm : ((if m < 0 then -1 else 1 : ℚ)) * (m.natAbs : ℚ) = m := by
    rw [Nat.cast_natAbs]
    split
    next h => rw [abs_of_neg h]; push_cast; ring
    next h => rw [abs_of_nonneg (not_lt.mp h)]; ring
  rw [← hm]
  simp only [ofDy, Fval.rat_fin, decide_eq_true_eq]

/-- The mantissa of a finite value taken at a smaller exponent, times that power of two, is its number. -/
theorem mantAt_mul_zpow (s : Bool) (m : Nat) {e q : Int} (h : q ≤ e) :
    ((Fval.fin s m e).mantAt q : ℚ) * (2 : ℚ) ^ q = (Fval.fin s m e).rat := by
  have h2 : (2 : ℚ) ^ (e - q).toNat * (2 : ℚ) ^ q = (2 : ℚ) ^ e := by
    rw [← zpow_natCast, ← zpow_add₀ two_ne_zero, Int.toNat_of_nonneg (sub_nonneg.mpr h), sub_add_cancel]
  simp only [Fval.mantAt, Fval.rat_fin, ← h2]
  push_cast
  split <;> ring

/-- The sum of finite values is finite, and its number is the sum of theirs. -/
theorem Fval.add_finite {x y : Fval} (hx : x.isFinite = true) (hy : y.isFinite = true) :
    (x.add y).isFinite = true ∧ (x.add y).rat = x.rat + y.rat := by
  obtain ⟨a, m, e⟩ | _ | ⟨a, m, e⟩ := x <;> cases hx
  obtain ⟨b, n, f⟩ | _ | ⟨b, n, f⟩ := y <;> cases hy
  simp only [Fval.add]
  split
  next h =>
    obtain ⟨rfl, rfl⟩ := h
    simp [Fval.isFinite]
  · refine ⟨rfl, ?_⟩
    rw [rat_ofDy, Int.cast_add, add_mul, mantAt_mul_zpow _ _ (min_le_left e f), mantAt_mul_zpow _ _ (min_le_right e f)]

/-- The product of finite values is finite, and its number is the product of theirs. -/
theorem Fval.mul_finite {x y : Fval} (hx : x.isFinite = true) (hy : y.isFinite = true) :
    (x.mul y).isFinite = true ∧ (x.mul y).rat = x.rat * y.rat := by
  obtain ⟨a, m, e⟩ | _ | ⟨a, m, e⟩ := x <;> cases hx
  obtain ⟨b, n, f⟩ | _ | ⟨b, n, f⟩ := y <;> cases hy
  refine ⟨rfl, ?_⟩
  simp only [Fval.mul, Fval.rat_fin, zpow_add₀ (two_ne_zero (α := ℚ))]
  push_cast
  cases a <;> cases b <;> simp <;> ring

/-- Finite values added one after the other to a finite one. -/
theorem Fval.foldl_add_finite {l : List Fval} {v : Fval} (hv : v.isFinite = true) (hl : ∀ x ∈ l, x.isFinite = true) :
    (l.foldl Fval.add v).isFinite = true ∧ (l.foldl Fval.add v).rat = v.rat + (l.map Fval.rat).sum := by
  induction l generalizing v with
  | nil => simpa using hv
  | cons x l ih =>
    obtain ⟨hf, hr⟩ := Fval.add_finite hv (hl x List.mem_cons_self)
    obtain ⟨hf', hr'⟩ := ih hf fun y hy => hl y (List.mem_cons_of_mem _ hy)
    refine ⟨hf', ?_⟩
    rw [List.foldl_cons, hr', hr, List.map_cons, List.sum_cons, add_assoc]

/-- An invalid product is of an infinity and a zero, and is NaN. -/
theorem Fval.mul_of_mulInvalid {x y : Fval} (h : x.mulInvalid y = true) : x.mul y = .nan := by
  rcases x with _ | a | ⟨a, m, e⟩ <;> rcases y with _ | b | ⟨b, n, f⟩ <;>
    simp_all [Fval.mulInvalid, Fval.isInf, Fval.isZero, Fval.mul]

/-! ## The sum of a group (R62, R63) -/

/-- A group of finite products: its sum is exact and nothing is invalid. -/
theorem groupSum_finite {ps : List (Fval × Fval)} (h : ∀ p ∈ ps, p.1.isFinite = true ∧ p.2.isFinite = true) :
    (groupSum ps).1.isFinite = true ∧ (groupSum ps).2 = false
      ∧ (groupSum ps).1.rat = (ps.map fun p => p.1.rat * p.2.rat).sum := by
  have hprod : ∀ v ∈ ps.map fun p => p.1.mul p.2, v.isFinite = true :=
    List.forall_mem_map.mpr fun p hp => (Fval.mul_finite (h p hp).1 (h p hp).2).1
  have hinf : ((ps.map fun p => p.1.mul p.2).any fun v => v == .inf true) = false := by
    simp only [List.any_eq_false, beq_iff_eq]
    rintro v hv rfl
    exact Bool.false_ne_true (hprod _ hv)
  have hnan : (ps.map fun p => p.1.mul p.2).any Fval.isNan = false := by
    simp only [List.any_eq_false]
    intro v hv hn
    have := hprod v hv
    cases v <;> simp_all [Fval.isFinite, Fval.isNan]
  have hbad : (ps.any fun p => p.1.mulInvalid p.2) = false := by
    simp only [List.any_eq_false]
    intro p hp hi
    have := hprod _ (List.mem_map_of_mem hp)
    rw [Fval.mul_of_mulInvalid hi] at this
    exact Bool.false_ne_true this
  have hrat : ps.map (fun p => p.1.rat * p.2.rat) = (ps.map fun p => p.1.mul p.2).map Fval.rat := by
    rw [List.map_map]
    exact List.map_congr_left fun p hp => (Fval.mul_finite (h p hp).1 (h p hp).2).2.symm
  simp only [groupSum, hinf, hnan, hbad, Bool.false_and, Bool.false_eq_true, if_false, hrat]
  split
  next he => simp [he, Fval.isFinite]
  next v t he =>
    rw [he] at hprod ⊢
    obtain ⟨hf, hr⟩ := Fval.foldl_add_finite (hprod v List.mem_cons_self) fun x hx => hprod x (List.mem_cons_of_mem _ hx)
    exact ⟨hf, rfl, by rw [hr, List.map_cons, List.sum_cons]⟩

/-- A group with an infinity times a zero, or with products that are infinities of both signs, gives NaN and is invalid. -/
theorem groupSum_invalid {ps : List (Fval × Fval)}
    (h : (∃ p ∈ ps, p.1.mulInvalid p.2 = true)
      ∨ ((∃ p ∈ ps, p.1.mul p.2 = .inf true) ∧ ∃ p ∈ ps, p.1.mul p.2 = .inf false)) : groupSum ps = (.nan, true) := by
  unfold groupSum
  rcases h with ⟨p, hp, hi⟩ | ⟨⟨p, hp, ht⟩, q, hq, hf⟩
  · have hbad : (ps.any fun p => p.1.mulInvalid p.2) = true := List.any_eq_true.mpr ⟨p, hp, hi⟩
    have hnan : (ps.map fun p => p.1.mul p.2).any Fval.isNan = true :=
      List.any_eq_true.mpr ⟨_, List.mem_map_of_mem hp, by rw [Fval.mul_of_mulInvalid hi]; rfl⟩
    simp only [hbad, hnan, if_true, ite_self]
  · have hneg : ((ps.map fun p => p.1.mul p.2).any fun v => v == .inf true) = true :=
      List.any_eq_true.mpr ⟨_, List.mem_map_of_mem hp, by simp [ht]⟩
    have hpos : ((ps.map fun p => p.1.mul p.2).any fun v => v == .inf false) = true :=
      List.any_eq_true.mpr ⟨_, List.mem_map_of_mem hq, by simp [hf]⟩
    simp only [hneg, hpos, Bool.and_self, if_true]

/-! ## Integer passes (R58) -/

theorem foldl_products_eq_sum (ps : List (Int × Int)) :
    ps.foldl (fun a p => a + p.1 * p.2) 0 = (ps.map fun p => p.1 * p.2).sum := by
  rw [List.sum_eq_foldl, List.foldl_map]

/-- Saturation to 48 bits clamps, and is flagged exactly when the value lies outside. -/
theorem sat48_eq (v : Int) : (sat48 v).1 = max (-(2 ^ 47)) (min (2 ^ 47 - 1) v)
    ∧ ((sat48 v).2 = true ↔ v < -(2 ^ 47) ∨ 2 ^ 47 - 1 < v) := by
  unfold sat48
  split
  · exact ⟨by omega, by simp; omega⟩
  · split
    · exact ⟨by omega, by simp; omega⟩
    · exact ⟨by omega, by simp; omega⟩

/-- A saturated value is its own encoding in an entry. -/
theorem toInt_ofInt_sat48 (v : Int) : (BitVec.ofInt 64 (sat48 v).1).toInt = (sat48 v).1 := by
  rw [(sat48_eq v).1]
  exact BitVec.toInt_ofInt_eq_self (by decide) (by omega) (by omega)

/-! ## Running sums of a float pass (R59, R68) -/

/-- A fold that tells the first element of a list from the others. -/
theorem foldl_zipIdx_first {α σ : Type} (f : Bool → σ → α → σ) (s : σ) (a : α) (l : List α) :
    ((a :: l).zipIdx).foldl (fun s p => f (p.2 == 0) s p.1) s = l.foldl (f false) (f true s a) := by
  have later : ∀ (l : List α) (k : Nat) (s : σ),
      (l.zipIdx (k + 1)).foldl (fun s p => f (p.2 == 0) s p.1) s = l.foldl (f false) s := by
    intro l
    induction l with
    | nil => intro _ _; rfl
    | cons b l ih => intro k s; exact ih (k + 1) _
  exact later l 0 _

/-- The first group of a plain tile is the running sum. -/
theorem plainGroup_first_hi (r : Run) (g : List (Fval × Fval)) : (plainGroup true r g).hi = rn32 (groupSum g).1 := rfl

/-- A later group of a plain tile is added, the sum rounded. -/
theorem plainGroup_next_hi (r : Run) (g : List (Fval × Fval)) :
    (plainGroup false r g).hi = fadd r.hi (rn32 (groupSum g).1) := rfl

/-- High and low part of one group of a compensated tile (R68, R63). -/
def compPart (g : List (Fval × Fval)) : Word32 × Word32 :=
  let v := (groupSum g).1
  (rn32 v, lowOf (rn32 v) (rn32 (v.add (fpVal (rn32 v)).neg)))

/-- The sum of two pairs of high and low parts (R68, R63). -/
def compAdd (a b : Word32 × Word32) : Word32 × Word32 :=
  let t := twoSum a.1 b.1
  (t.1, lowOf t.1 (fadd a.2 (fadd b.2 t.2)))

/-- High and low part of a running sum. -/
def Run.parts (r : Run) : Word32 × Word32 := (r.hi, r.lo)

theorem compGroup_first_parts (r : Run) (g : List (Fval × Fval)) : (compGroup true r g).parts = compPart g := rfl

theorem compGroup_next_parts (r : Run) (g : List (Fval × Fval)) :
    (compGroup false r g).parts = compAdd r.parts (compPart g) := rfl

/-- The running sum of a pass of a plain tile: each group rounded, and the groups added in order. -/
theorem passRun_plain_hi (r0 : Run) (g : List (Fval × Fval)) (gs : List (List (Fval × Fval))) :
    (passRun false r0 (g :: gs)).hi = (gs.map fun g => rn32 (groupSum g).1).foldl fadd (rn32 (groupSum g).1) := by
  have h := foldl_zipIdx_first plainGroup r0 g gs
  have hp : passRun false r0 (g :: gs) = gs.foldl (plainGroup false) (plainGroup true r0 g) := h
  rw [hp, List.foldl_map, ← plainGroup_first_hi r0 g]
  exact (List.foldl_hom Run.hi fun r g => (plainGroup_next_hi r g).symm).symm

/-- The running sum of a pass of a compensated tile, as its two parts. -/
theorem passRun_comp_parts (r0 : Run) (g : List (Fval × Fval)) (gs : List (List (Fval × Fval))) :
    (passRun true r0 (g :: gs)).parts = (gs.map compPart).foldl compAdd (compPart g) := by
  have h := foldl_zipIdx_first compGroup r0 g gs
  have hp : passRun true r0 (g :: gs) = gs.foldl (compGroup false) (compGroup true r0 g) := h
  rw [hp, List.foldl_map, ← compGroup_first_parts r0 g]
  exact (List.foldl_hom Run.parts fun r g => (compGroup_next_parts r g).symm).symm

/-- A word behind zeros is the word extended. -/
theorem zero_append_eq_setWidth (v : Word32) : (0#32 ++ v : Word64) = v.setWidth 64 := by
  apply BitVec.eq_of_toNat_eq
  rw [BitVec.toNat_append, BitVec.toNat_setWidth_of_le (by decide)]
  simp

/-! ## A pass of a float pair on an entry (R59, R63, R68) -/

theorem floatPass_plain_opening (e : Entry) (groups : List (List (Fval × Fval))) :
    (floatPass false true e groups).1.raw = (passRun false ⟨0, 0, none, true, ⟨false, false⟩⟩ groups).hi.setWidth 64 :=
  zero_append_eq_setWidth _

theorem floatPass_plain_acc (e : Entry) (groups : List (List (Fval × Fval))) :
    (floatPass false false e groups).1.raw
      = (fadd (e.raw.setWidth 32) (passRun false ⟨0, 0, e.eMax, e.finite, ⟨false, false⟩⟩ groups).hi).setWidth 64 :=
  zero_append_eq_setWidth _

theorem floatPass_comp_opening (e : Entry) (groups : List (List (Fval × Fval))) :
    let p := (passRun true ⟨0, 0, none, true, ⟨false, false⟩⟩ groups).parts
    (floatPass true true e groups).1.raw = p.2 ++ p.1 := rfl

theorem floatPass_comp_acc (e : Entry) (groups : List (List (Fval × Fval))) :
    let p := compAdd (e.raw.setWidth 32, (e.raw >>> 32).setWidth 32)
      (passRun true ⟨0, 0, e.eMax, e.finite, ⟨false, false⟩⟩ groups).parts
    (floatPass true false e groups).1.raw = p.2 ++ p.1 := rfl

/-! ## Formats that widen another (R45) -/

theorem bitsOf_eq (v lo w : Nat) : bitsOf v lo w = v / 2 ^ lo % 2 ^ w := rfl

theorem bitsOf_shift (d raw lo w : Nat) : bitsOf (2 ^ d * raw) (d + lo) w = bitsOf raw lo w := by
  rw [bitsOf_eq, Nat.pow_add, Nat.mul_div_mul_left _ _ (Nat.two_pow_pos d), bitsOf_eq]

theorem bitsOf_low_shift (d raw w : Nat) : bitsOf (2 ^ d * raw) 0 (d + w) = 2 ^ d * bitsOf raw 0 w := by
  simp only [bitsOf_eq, Nat.pow_zero, Nat.div_one, Nat.pow_add, Nat.mul_mod_mul_left]

theorem bitOf_shift (d raw i : Nat) : bitOf (2 ^ d * raw) (d + i) = bitOf raw i := by
  simp [bitOf, Nat.testBit_two_pow_mul]

/-- A mantissa with `d` bits more, at an exponent lower by `d`, is the same number. -/
theorem rat_fin_shift (s : Bool) (d m : Nat) (e : Int) : (Fval.fin s (2 ^ d * m) (e - d)).rat = (Fval.fin s m e).rat := by
  simp only [Fval.rat_fin, zpow_sub₀ (two_ne_zero (α := ℚ)), zpow_natCast]
  push_cast
  field_simp

/-- Of two formats with infinities and the same exponent, the one with `d` fraction bits more decodes an encoding followed by
`d` zeros to the value that the other gives the encoding. -/
theorem decode_widen {f g : FloatShape} {d : Nat} (he : g.eb = f.eb) (hm : g.mb = d + f.mb) (hf : f.hasInf = true)
    (hg : g.hasInf = true) (raw : Nat) :
    (f.decode raw).isFinite = (g.decode (2 ^ d * raw)).isFinite ∧ (f.decode raw).rat = (g.decode (2 ^ d * raw)).rat := by
  have hb : g.bias = f.bias := by rw [FloatShape.bias, he, FloatShape.bias]
  have hs : bitOf (2 ^ d * raw) (f.eb + (d + f.mb)) = bitOf raw (f.eb + f.mb) := by
    rw [Nat.add_left_comm, bitOf_shift]
  have hx (a : Int) : a - ((d + f.mb : Nat) : Int) = a - f.mb - d := by omega
  simp only [FloatShape.decode, hf, hg, hb, he, hm, hs, hx, bitsOf_shift, bitsOf_low_shift, true_and, not_true_eq_false,
    false_and, and_false, if_false]
  split
  · simp only [Nat.mul_eq_zero, Nat.pow_eq_zero, OfNat.ofNat_ne_zero, false_and, false_or, and_self]
  · split
    · exact ⟨rfl, (rat_fin_shift _ d _ _).symm⟩
    · rw [Nat.pow_add, ← Nat.mul_add]
      exact ⟨rfl, (rat_fin_shift _ d _ _).symm⟩

/-! ## The passes of an instruction on one entry (R52, R58 to R61, R68) -/

theorem chunks_zero {α : Type} (n : Nat) (l : List α) : chunks n 0 l = [] := rfl

theorem chunks_succ {α : Type} (n k : Nat) (l : List α) : chunks n (k + 1) l = l.take n :: chunks n k (l.drop n) := rfl

/-- A fold whose state carries a part that the rest does not read. -/
theorem foldl_fst_eq {α β σ : Type} (f : σ → α → σ) (g : σ × β → α → σ × β) (hfg : ∀ s a, (g s a).1 = f s.1 a) (s : σ × β)
    (l : List α) : (l.foldl g s).1 = l.foldl f s.1 :=
  (List.foldl_hom Prod.fst fun s a => (hfg s a).symm).symm

/-- One pass of a float pair on one entry, from its operand pairs. -/
def MillOp.passOn (o : MillOp) (comp opening : Bool) (e : Entry) (ps : List (Fval × Fval)) : Entry × ElemFlags :=
  floatPass comp opening e (chunks (o.g * (o.kPass / 64)) (64 / o.g) ps)

theorem elementPasses_fst (o : MillOp) (comp : Bool) (e : Entry) (ps : List (Fval × Fval)) :
    (elementPasses o false comp e ps).1
      = ((chunks o.kPass (ps.length / o.kPass) ps).zipIdx).foldl
          (fun e p => (o.passOn comp (!o.acc && p.2 == 0) e p.1).1) e :=
  foldl_fst_eq _ _ (fun _ _ => rfl) _ _

/-- The first pass of an instruction, then the passes that follow, which accumulate. -/
theorem elementPasses_cons (o : MillOp) (comp : Bool) (e : Entry) {ps : List (Fval × Fval)} (qs : List (Fval × Fval))
    (hk : 0 < o.kPass) (hp : ps.length = o.kPass) :
    (elementPasses o false comp e (ps ++ qs)).1
      = (chunks o.kPass (qs.length / o.kPass) qs).foldl (fun e l => (o.passOn comp false e l).1)
          (o.passOn comp (!o.acc) e ps).1 := by
  have hn : (ps ++ qs).length / o.kPass = qs.length / o.kPass + 1 := by
    rw [List.length_append, hp, Nat.add_div_left _ hk]
  have hc : chunks o.kPass (qs.length / o.kPass + 1) (ps ++ qs) = ps :: chunks o.kPass (qs.length / o.kPass) qs := by
    rw [chunks_succ, ← hp, List.take_left, List.drop_left]
  rw [elementPasses_fst, hn, hc]
  have h := foldl_zipIdx_first (fun first e l => (o.passOn comp (!o.acc && first) e l).1) e ps
    (chunks o.kPass (qs.length / o.kPass) qs)
  simpa using h

/-- Passes that all accumulate. -/
theorem elementPasses_acc (o : MillOp) (comp : Bool) (e : Entry) (qs : List (Fval × Fval)) :
    (elementPasses { o with acc := true } false comp e qs).1
      = (chunks o.kPass (qs.length / o.kPass) qs).foldl (fun e l => (o.passOn comp false e l).1) e := by
  rw [elementPasses_fst]
  have h := List.foldl_map (f := Prod.fst) (g := fun e l => (o.passOn comp false e l).1) (init := e)
    (l := (chunks o.kPass (qs.length / o.kPass) qs).zipIdx)
  rw [List.zipIdx_map_fst] at h
  exact h.symm

/-- An instruction of one pass on one entry: the pass and its flags. -/
theorem elementPasses_one (o : MillOp) (comp : Bool) (e : Entry) {ps : List (Fval × Fval)} (hk : 0 < o.kPass)
    (hp : ps.length = o.kPass) :
    (elementPasses o false comp e ps).1 = (o.passOn comp (!o.acc) e ps).1
      ∧ (elementPasses o false comp e ps).2 = (⟨false, false⟩ : ElemFlags).or (o.passOn comp (!o.acc) e ps).2 := by
  have hn : ps.length / o.kPass = 1 := by rw [hp, Nat.div_self hk]
  have hc : chunks o.kPass 1 ps = [ps] := by rw [chunks_succ, ← hp, List.take_length, chunks_zero]
  unfold elementPasses
  simp only [hn, hc]
  simp [MillOp.passOn]

/-- Settles O18: integer passes are the sum of the products and `sat48`; the sum of a finite group is exact because addition
and multiplication of finite values are; the running sums are `passRun` as a fold over the groups; BF16 and E5M2 widen by
zeros to FP32 and FP16; and the passes of an instruction are a first one and those that accumulate. -/
theorem millPasses : Obligations.MillPasses := by
  unfold Obligations.MillPasses
  refine ⟨?integer, ?group, ?plain, ?compensated, ?bf16, ?e5m2, ?passes⟩
  case integer =>
    intro e ps
    have hv := foldl_products_eq_sum ps
    refine ⟨⟨?_, rfl⟩, ?_, ?_⟩
    · simp only [intPass, if_true, hv]
    · simp only [intPass, Bool.false_eq_true, if_false, hv]
      rw [toInt_ofInt_sat48, (sat48_eq _).1]
    · simp only [intPass, Bool.false_eq_true, if_false, hv]
      exact (sat48_eq _).2
  case group => exact fun ps => ⟨groupSum_finite, groupSum_invalid⟩
  case plain =>
    intro e groups
    rw [floatPass_plain_opening, floatPass_plain_acc]
    cases groups with
    | nil => exact ⟨rfl, rfl⟩
    | cons g gs => simp only [passRun_plain_hi]; exact ⟨rfl, rfl⟩
  case compensated =>
    intro e groups
    rw [floatPass_comp_opening, floatPass_comp_acc]
    cases groups with
    | nil => exact ⟨rfl, rfl⟩
    | cons g gs => simp only [passRun_comp_parts]; exact ⟨rfl, rfl⟩
  case bf16 =>
    intro k hk
    have h : (BitVec.ofNat 32 (65536 * k)).toNat = 2 ^ 16 * k := by simp; omega
    rw [fpVal, h]
    exact decode_widen (f := shapeBF16) (g := shapeFP32) (d := 16) rfl rfl rfl rfl k
  case e5m2 =>
    intro k _
    exact decode_widen (f := shapeE5M2) (g := shapeFP16) (d := 8) rfl rfl rfl rfl k
  case passes =>
    intro o comp e ps qs hk hp _
    obtain ⟨hone, hflags⟩ := elementPasses_one o comp e hk hp
    exact ⟨hone, hflags, (elementPasses_cons o comp e qs hk hp).trans (elementPasses_acc o comp _ qs).symm⟩

end Sys2Proof.Machine
end

section
/-!
SUPPORT. Which bytes of a memory several writes change, and what they leave in them; and a croft that is mapped in its device.
-/

namespace Sys2Proof.Machine

/-! ## Bytes that stay -/

/-- The byte at `a` lies in a range, given by its first byte and its length. -/
def inRange (p : Nat × Nat) (a : Nat) : Prop := p.1 ≤ a ∧ a < p.1 + p.2

theorem inRange_iff (p : Nat × Nat) (a : Nat) : inRange p a ↔ p.1 ≤ a ∧ a < p.1 + p.2 := Iff.rfl

/-- The byte at `a` lies in one of several ranges. -/
def inRanges (l : List (Nat × Nat)) (a : Nat) : Prop := ∃ p ∈ l, inRange p a

/-- A byte outside every range, as the statements write it. -/
theorem not_inRanges {l : List (Nat × Nat)} {a : Nat} (h : ∀ p ∈ l, a < p.1 ∨ p.1 + p.2 ≤ a) : ¬ inRanges l a := by
  rintro ⟨p, hp, h1, h2⟩
  rcases h p hp with h | h <;> omega

/-- From a memory in canonical form, `m'` is in canonical form and every byte that is not in `S` reads as before. -/
def Cells.SameOff (S : Nat → Prop) (m m' : Cells) : Prop :=
  Cells.wf m = true → Cells.wf m' = true ∧ ∀ a, ¬ S a → readByte m' a = readByte m a

namespace Cells.SameOff
variable {S T : Nat → Prop} {m m' m'' : Cells}

theorem refl : SameOff S m m := fun h => ⟨h, fun _ _ => rfl⟩

theorem trans (h : SameOff S m m') (h' : SameOff S m' m'') : SameOff S m m'' := fun hm => by
  obtain ⟨hm', hr⟩ := h hm
  obtain ⟨hm'', hr'⟩ := h' hm'
  exact ⟨hm'', fun a ha => (hr' a ha).trans (hr a ha)⟩

theorem mono (h : SameOff S m m') (hST : ∀ a, S a → T a) : SameOff T m m' := fun hm => by
  obtain ⟨hm', hr⟩ := h hm
  exact ⟨hm', fun a ha => hr a fun hs => ha (hST a hs)⟩

theorem writeBytes {a : Nat} {bs : List Byte} : SameOff (inRange (a, bs.length)) m (writeBytes m a bs) := fun hm =>
  ⟨wf_writeBytes _ _ _ hm, fun k hk => readByte_writeBytes_outside _ _ _ _ hm (by
    simp only [inRange_iff] at hk
    omega)⟩

/-- A fold each of whose steps changes no byte outside `S`. -/
theorem foldl {α σ : Type} {f : σ → α → σ} {g : σ → Cells} {l : List α} {s : σ}
    (h : ∀ s, ∀ a ∈ l, SameOff S (g s) (g (f s a))) : SameOff S (g s) (g (l.foldl f s)) :=
  List.foldlRecOn (motive := fun t => SameOff S (g s) (g t)) l f refl fun t ht a ha => ht.trans (h t a ha)

theorem outside {l : List (Nat × Nat)} (h : SameOff (inRanges l) m m') (hm : Cells.wf m = true) :
    ∀ a, (∀ p ∈ l, a < p.1 ∨ p.1 + p.2 ≤ a) → readByte m' a = readByte m a :=
  fun a ha => (h hm).2 a (not_inRanges ha)

end Cells.SameOff

/-! ## Bytes that are written -/

@[simp] theorem length_leBytes (n v : Nat) : (leBytes n v).length = n := by
  induction n generalizing v with
  | zero => rfl
  | succ n ih => simp [leBytes, ih]

@[simp] theorem length_readBytes (m : Cells) (a n : Nat) : (readBytes m a n).length = n := by simp [readBytes]

theorem getElem?_readBytes (m : Cells) {a n i : Nat} (h : i < n) : (readBytes m a n)[i]? = some (readByte m (a + i)) := by
  simp [readBytes, h]

/-- A byte of a range that was just written. -/
theorem readByte_writeBytes_at (m : Cells) (a : Nat) (bs : List Byte) {i : Nat} (hm : Cells.wf m = true) (hi : i < bs.length) :
    readByte (writeBytes m a bs) (a + i) = bs.getD i 0 := by
  rw [readByte_writeBytes _ _ _ _ hm, if_pos ⟨Nat.le_add_right a i, Nat.add_lt_add_left hi a⟩, Nat.add_sub_cancel_left]

/-- Bytes that read as a list does are the list. -/
theorem readBytes_eq_of {m : Cells} {a : Nat} {bs : List Byte} (h : ∀ i < bs.length, readByte m (a + i) = bs.getD i 0) :
    readBytes m a bs.length = bs := by
  refine List.ext_getElem (length_readBytes m a _) fun i hi hi' => ?_
  have := h i hi'
  simpa [readBytes, hi'] using this

/-- The bytes of a range that was just written. -/
theorem readBytes_writeBytes (m : Cells) (a : Nat) (bs : List Byte) (hm : Cells.wf m = true) :
    readBytes (writeBytes m a bs) a bs.length = bs :=
  readBytes_eq_of fun _ hi => readByte_writeBytes_at m a bs hm hi

/-- Two writes, the second right behind the first. -/
theorem readBytes_writeBytes_behind {m : Cells} (hm : Cells.wf m = true) (a : Nat) (xs ys : List Byte) :
    let m' := writeBytes (writeBytes m a xs) (a + xs.length) ys
    (∀ k, k < a ∨ a + (xs.length + ys.length) ≤ k → readByte m' k = readByte m k)
      ∧ readBytes m' a xs.length = xs ∧ readBytes m' (a + xs.length) ys.length = ys := by
  have hm' : Cells.wf (writeBytes m a xs) = true := wf_writeBytes _ _ _ hm
  have hkeep (k : Nat) (hk : k < a + xs.length ∨ a + xs.length + ys.length ≤ k) :
      readByte (writeBytes (writeBytes m a xs) (a + xs.length) ys) k = readByte (writeBytes m a xs) k :=
    readByte_writeBytes_outside _ _ _ _ hm' hk
  refine ⟨fun k hk => ?_, readBytes_eq_of fun i hi => ?_, readBytes_writeBytes _ _ _ hm'⟩
  · exact (hkeep k (by omega)).trans (readByte_writeBytes_outside _ _ _ _ hm (by omega))
  · exact (hkeep _ (.inl (Nat.add_lt_add_left hi a))).trans (readByte_writeBytes_at _ _ _ hm hi)

/-- A memory after `n` rows are written in order, row `k` at `at_ k`. -/
def writeRows (at_ : Nat → Nat) (row : Nat → List Byte) (n : Nat) (m : Cells) : Cells :=
  (List.range n).foldl (fun m k => writeBytes m (at_ k) (row k)) m

section
variable {at_ : Nat → Nat} {row : Nat → List Byte} {m : Cells}

theorem writeRows_succ (n : Nat) : writeRows at_ row (n + 1) m = writeBytes (writeRows at_ row n m) (at_ n) (row n) := by
  rw [writeRows, List.range_succ, List.foldl_concat, writeRows]

theorem writeRows_sameOff (n : Nat) :
    Cells.SameOff (inRanges ((List.range n).map fun k => (at_ k, (row k).length))) m (writeRows at_ row n m) :=
  Cells.SameOff.foldl (g := id) fun _ _ hk => Cells.SameOff.writeBytes.mono fun _ ha => ⟨_, List.mem_map_of_mem hk, ha⟩

/-- Where no later row covers a byte of a row, it is the row's byte. -/
theorem readByte_writeRows_last (hm : Cells.wf m = true) {n k i : Nat} (hk : k < n) (hi : i < (row k).length)
    (hlast : ∀ l, k < l → l < n → ¬ inRange (at_ l, (row l).length) (at_ k + i)) :
    readByte (writeRows at_ row n m) (at_ k + i) = (row k).getD i 0 := by
  induction n with
  | zero => omega
  | succ n ih =>
    have hwf := (writeRows_sameOff (at_ := at_) (row := row) n hm).1
    rw [writeRows_succ]
    rcases Nat.lt_succ_iff_lt_or_eq.mp hk with hkn | rfl
    · have hn := hlast n hkn (Nat.lt_succ_self n)
      rw [(Cells.SameOff.writeBytes hwf).2 _ hn]
      exact ih hkn fun l h1 h2 => hlast l h1 (Nat.lt_succ_of_lt h2)
    · exact readByte_writeBytes_at _ _ _ hwf hi

/-- Rows of zeros leave zeros in every row. -/
theorem readByte_writeRows_zeros (hm : Cells.wf m = true) {n b a : Nat} (h : ∃ k < n, inRange (at_ k, b) a) :
    readByte (writeRows at_ (fun _ => List.replicate b 0) n m) a = 0 := by
  induction n with
  | zero => simp at h
  | succ n ih =>
    have hwf := (writeRows_sameOff (at_ := at_) (row := fun _ => List.replicate b 0) n hm).1
    rw [writeRows_succ, readByte_writeBytes _ _ _ _ hwf, List.length_replicate]
    split
    · rw [List.getD_eq_getElem?_getD, List.getElem?_replicate]
      split <;> rfl
    next hn =>
      obtain ⟨k, hk, ha⟩ := h
      rcases Nat.lt_succ_iff_lt_or_eq.mp hk with hk | rfl
      · exact ih ⟨k, hk, ha⟩
      · exact absurd ha hn

end

/-! ## A croft mapped in its device -/

theorem Dev.croft_eq (d : Dev) (c : CroftRef) : d.croft c = d.crofts.find? fun x => x.job == c.job && x.n == c.n := rfl

theorem Dev.onCroft_eq (d : Dev) (c : CroftRef) (f : Croft → Croft) : d.onCroft c f
    = { d with crofts := d.crofts.map fun x => if x.job == c.job && x.n == c.n then f x else x } := rfl

/-- A croft found is a matter of the list of crofts. -/
theorem Dev.croft_congr {d e : Dev} (h : d.crofts = e.crofts) (c : CroftRef) : d.croft c = e.croft c := by
  simp only [Dev.croft_eq, h]

/-- Another croft than the one set is found as before, by its reference. -/
theorem Dev.croft_setCroft_ne {d : Dev} {c c' : CroftRef} {y : Croft} (hj : y.job = c.job) (hn : y.n = c.n) (h : c' ≠ c) :
    (d.setCroft y).croft c' = d.croft c' := by
  refine Dev.croft_setCroft_other ?_
  rw [hj, hn]
  by_contra hcon
  obtain ⟨h1, h2⟩ := not_or.mp hcon
  cases c; cases c'
  exact h (by simp_all)

/-- A map of crofts that keeps which croft each is. -/
def Croft.KeepsRef (f : Croft → Croft) : Prop := ∀ x, (f x).job = x.job ∧ (f x).n = x.n

theorem Dev.croft_onCroft {f : Croft → Croft} (hf : Croft.KeepsRef f) (d : Dev) (c : CroftRef) :
    (d.onCroft c f).croft c = (d.croft c).map f := by
  have hp (x : Croft) : ((if x.job == c.job && x.n == c.n then f x else x).job == c.job
      && (if x.job == c.job && x.n == c.n then f x else x).n == c.n) = (x.job == c.job && x.n == c.n) := by
    split
    · rw [(hf x).1, (hf x).2]
    · rfl
  simp only [Dev.croft_eq, Dev.onCroft_eq, List.find?_map, Function.comp_def, hp]
  cases hx : d.crofts.find? _ with
  | none => rfl
  | some x => rw [Option.map_some, Option.map_some, if_pos (List.find?_some hx)]

theorem Dev.croft_onCroft_other {f : Croft → Croft} (hf : Croft.KeepsRef f) (d : Dev) {c c' : CroftRef} (h : c' ≠ c) :
    (d.onCroft c f).croft c' = d.croft c' := by
  have hp (x : Croft) : ((if x.job == c.job && x.n == c.n then f x else x).job == c'.job
      && (if x.job == c.job && x.n == c.n then f x else x).n == c'.n) = (x.job == c'.job && x.n == c'.n) := by
    split
    · rw [(hf x).1, (hf x).2]
    · rfl
  simp only [Dev.croft_eq, Dev.onCroft_eq, List.find?_map, Function.comp_def, hp]
  cases hx : d.crofts.find? _ with
  | none => rfl
  | some x =>
    have hx' := List.find?_some hx
    simp only [Bool.and_eq_true, beq_iff_eq] at hx'
    obtain ⟨hj, hn⟩ := hx'
    rw [Option.map_some, if_neg]
    simp only [Bool.and_eq_true, beq_iff_eq, hj, hn]
    rintro ⟨h1, h2⟩
    cases c; cases c'
    exact h (by simp_all)

/-- Two maps of one croft, one after the other. -/
theorem Dev.onCroft_onCroft {f : Croft → Croft} (hf : Croft.KeepsRef f) (d : Dev) (c : CroftRef) (g : Croft → Croft) :
    (d.onCroft c f).onCroft c g = d.onCroft c fun x => g (f x) := by
  simp only [Dev.onCroft_eq, List.map_map, Dev.mk.injEq, true_and, and_true]
  refine List.map_congr_left fun x _ => ?_
  by_cases h : (x.job == c.job && x.n == c.n) = true
  · simp only [Function.comp_apply, if_pos h, (hf x).1, (hf x).2]
  · simp only [Function.comp_apply, if_neg h]

/-- Maps of one croft folded are one map of it. -/
theorem Dev.foldl_onCroft {α : Type} {f : Croft → α → Croft} (hf : ∀ a, Croft.KeepsRef fun x => f x a) (d : Dev) (c : CroftRef)
    (l : List α) : l.foldl (fun d a => d.onCroft c fun x => f x a) d = d.onCroft c fun x => l.foldl f x := by
  induction l generalizing d with
  | nil =>
    have hid : (fun y : Croft => if y.job == c.job && y.n == c.n then y else y) = id := funext fun y => ite_self y
    simp only [List.foldl_nil, Dev.onCroft_eq, hid, List.map_id]
  | cons a l ih => rw [List.foldl_cons, ih, Dev.onCroft_onCroft (hf a)]; rfl

/-- Rows written to a croft's Granary change its Granary and its poison. -/
theorem Croft.foldl_write (x : Croft) (at_ : Nat → Nat) (row : Nat → List Byte) (n : Nat) :
    ∃ poison, (List.range n).foldl (fun x k => x.write (at_ k) (row k)) x
      = { x with granary := writeRows at_ row n x.granary, poison := poison } := by
  induction n with
  | zero => exact ⟨x.poison, rfl⟩
  | succ n ih =>
    obtain ⟨p, hp⟩ := ih
    rw [List.range_succ, List.foldl_concat, hp, writeRows_succ]
    exact ⟨_, rfl⟩

end Sys2Proof.Machine
end

section
/-!
SUPPORT. The completion of an instruction (07_croft_instruction_set.md R196, R207): what it does to the unit, the semaphores and
the device, whatever the unit's own effect is.
-/

namespace Sys2Proof.Machine

/-! ## Units and signals -/

theorem Croft.running_setRunning_same (x : Croft) (u : UnitId) : (x.setRunning u none).running u = none := by
  cases u <;> simp [Croft.setRunning, Croft.running, List.getD_eq_getElem?_getD, List.getElem?_set]
  all_goals split <;> rfl

theorem Croft.running_setRunning_other (x : Croft) {u v : UnitId} (r : Option Running) (h : v ≠ u) :
    (x.setRunning u r).running v = x.running v := by
  have entry (l : List (Option Running)) {i j : Fin 4} (hij : j ≠ i) : (l.set i.val r).getD j.val none = l.getD j.val none := by
    simp [List.getD_eq_getElem?_getD, Fin.val_ne_of_ne hij.symm]
  cases u <;> cases v
  case mill.mill => exact entry _ fun hij => h (congrArg _ hij)
  case drain.drain => exact entry _ fun hij => h (congrArg _ hij)
  case row.row => exact entry _ fun hij => h (congrArg _ hij)
  case field.field | move.move | mesh.mesh => exact absurd rfl h
  all_goals rfl

/-- Setting what runs on a unit changes the units only, and no queue. -/
theorem Croft.setRunning_eq (x : Croft) (u : UnitId) (r : Option Running) :
    x.setRunning u r = { x with units := (x.setRunning u r).units } ∧ (x.setRunning u r).units.queues = x.units.queues := by
  cases u <;> exact ⟨rfl, rfl⟩

/-- The signal of a completed instruction that fits its semaphore. -/
theorem Croft.signal_fits {x : Croft} {w : InstrWord} (index : Nat)
    (h : InstrWord.sigEn w = true → x.sem (InstrWord.sigSem w) + 1 ≤ 65535) :
    ∃ sems own, x.signal w index = .ok { x with seq := { x.seq with sems := sems, semOwn := own } }
      ∧ ∀ k < x.seq.sems.length,
        ({ x with seq := { x.seq with sems := sems, semOwn := own } } : Croft).sem k = x.sem k + signalTo w k := by
  by_cases hw : InstrWord.sigEn w = true
  · have hfit := h hw
    have hno : x.semOverflows (InstrWord.sigSem w) 1 = false := by simp only [Croft.semOverflows, decide_eq_false_iff_not]; omega
    let y := x.addSem (InstrWord.sigSem w) 1 (InstrWord.ownSem w)
    refine ⟨y.seq.sems, y.seq.semOwn, ?_, fun k hk => ?_⟩
    · rw [Croft.signal, if_pos hw, hno, if_neg Bool.false_ne_true]
      rfl
    · refine (Croft.sem_addSem x _ 1 k _ hk).trans ?_
      simp only [signalTo, hw, Bool.true_and, beq_iff_eq]
      by_cases he : InstrWord.sigSem w = k
      · subst he
        simp only [if_true]
        omega
      · simp only [if_neg he, Nat.add_zero]
  · exact ⟨x.seq.sems, x.seq.semOwn, by rw [Croft.signal, if_neg hw], fun k _ => by simp [signalTo, hw]⟩

/-! ## What comes after the effect -/

theorem Dev.settle_of_not_held {d : Dev} {c : CroftRef} {x : Croft} (hx : d.croft c = some x) (hh : x.seq.held = false) :
    d.settle c = d := by simp only [Dev.settle, hx, hh, Bool.false_eq_true, if_false]

theorem Dev.fieldRunEnd_of_not_reeve {d : Dev} {c : CroftRef} {x : Croft} (hx : d.croft c = some x) (hr : x.seq.state ≠ .reeve) :
    d.fieldRunEnd c = d := by
  simp only [Dev.fieldRunEnd, hx]
  split
  next y _ hy _ =>
    cases hy
    rw [if_pos]
    simp [hr]
  · rfl

/-! ## The effect of a unit at completion -/

/-- The croft `y` is `x` with its program, its queues and its units as they were. -/
abbrev Croft.SameProgram (x y : Croft) : Prop := y.job = x.job ∧ y.n = x.n ∧ y.seq = x.seq ∧ y.units = x.units

/-- From `d` to `e` croft `c` became `y`, as `Croft.SameProgram` says, and of memory, jobs, slots and other crofts nothing
changed; but an instruction `w` of the drain or the sampler counts the croft cycles of a free-mode job in its slot. -/
abbrev Dev.OnlyCroft (d e : Dev) (c : CroftRef) (free : Bool) (w : InstrWord) (x y : Croft) : Prop :=
  e.croft c = some y ∧ x.SameProgram y ∧ e.mem = d.mem ∧ (∀ c', c' ≠ c → e.croft c' = d.croft c') ∧ e.jobs = d.jobs
  ∧ (free = false ∨ (InstrWord.cls w ≠ 3 ∧ InstrWord.cls w ≠ 4) → e.slots = d.slots)

section
variable {d : Dev} {c : CroftRef} {x y : Croft} {free : Bool} {w : InstrWord}

theorem Dev.OnlyCroft.refl (hx : d.croft c = some x) : d.OnlyCroft d c free w x x :=
  ⟨hx, ⟨rfl, rfl, rfl, rfl⟩, rfl, fun _ _ => rfl, rfl, fun _ => rfl⟩

theorem Dev.OnlyCroft.setCroft (hx : d.croft c = some x) (hy : x.SameProgram y) : d.OnlyCroft (d.setCroft y) c free w x y := by
  obtain ⟨hj, hn⟩ := Dev.croft_ref hx
  have hj := hy.1.trans hj
  have hn := hy.2.1.trans hn
  exact ⟨Dev.croft_setCroft hx hj hn, hy, rfl, fun _ hc => Dev.croft_setCroft_ne hj hn hc, rfl, fun _ => rfl⟩

theorem Dev.OnlyCroft.onCroft {f : Croft → Croft} (hx : d.croft c = some x) (hf : Croft.KeepsRef f)
    (hy : x.SameProgram (f x)) : d.OnlyCroft (d.onCroft c f) c free w x (f x) :=
  ⟨by rw [Dev.croft_onCroft hf, hx, Option.map_some], hy, rfl, fun _ hc => Dev.croft_onCroft_other hf d hc, rfl, fun _ => rfl⟩

/-- The croft cycles of a drain or sampler instruction are counted in a free-mode job only. -/
theorem Dev.OnlyCroft.freeCycles {e : Dev} {job : Job} {r : Running}
    (h : d.OnlyCroft e c job.params.laneFree r.ins.word x y)
    (hw : InstrWord.cls r.ins.word = 3 ∨ InstrWord.cls r.ins.word = 4) :
    d.OnlyCroft (e.freeCycles x job r) c job.params.laneFree r.ins.word x y := by
  obtain ⟨hc, hp, hm, ho, hj, hs⟩ := h
  unfold Dev.freeCycles
  dsimp only
  split
  next s _ =>
    by_cases hf : job.params.laneFree = true
    · rw [if_pos hf]
      refine ⟨hc, hp, hm, ho, hj, fun hno => ?_⟩
      rcases hno with hno | ⟨h3, h4⟩
      · rw [hf] at hno; cases hno
      · rcases hw with hw | hw
        · exact absurd hw h3
        · exact absurd hw h4
    · rw [if_neg hf]
      exact ⟨hc, hp, hm, ho, hj, hs⟩
  · exact ⟨hc, hp, hm, ho, hj, hs⟩

end

/-! ## INSTRUCTION_COMPLETION -/

/-- What an INSTRUCTION_COMPLETION answers: unit `u` of croft `c` is free, the signal of `w` is added, the croft is otherwise as `P`
says, and the rest of the device is as it was. -/
def Dev.Completed (d : Dev) (c : CroftRef) (x : Croft) (job : Job) (u : UnitId) (w : InstrWord) (P : Croft → Prop) (t : Dev) : Prop :=
  (∃ y : Croft, t.croft c = some y ∧ y.running u = none ∧ (∀ v, v ≠ u → y.running v = x.running v)
    ∧ (∀ k < 32, y.sem k = x.sem k + signalTo w k) ∧ y.seq.pc = x.seq.pc ∧ y.seq.areg = x.seq.areg
    ∧ y.units.queues = x.units.queues ∧ P y)
  ∧ t.mem = d.mem ∧ (∀ c' : CroftRef, c' ≠ c → t.croft c' = d.croft c') ∧ t.jobs = d.jobs
  ∧ (job.params.laneFree = false ∨ (InstrWord.cls w ≠ 3 ∧ InstrWord.cls w ≠ 4) → t.slots = d.slots)

/-- An instruction runs on unit `u` of croft `c`, as the statement on completions has it: nothing is held at issue, no FIELD_RUN
occupies the croft, and the signal fits. -/
abbrev State.Runs (s : State) (c : CroftRef) (x : Croft) (job : Job) (u : UnitId) (r : Running) : Prop :=
  (s.dev.croft c = some x ∧ x.Shaped ∧ Cells.wf x.granary = true) ∧ s.dev.job c.job = some job ∧ x.running u = some r
  ∧ x.seq.held = false ∧ x.seq.state ≠ .reeve
  ∧ (InstrWord.sigEn r.ins.word = true → x.sem (InstrWord.sigSem r.ins.word) + 1 ≤ 65535)

section
variable {s : State} {c : CroftRef} {x : Croft} {job : Job} {u : UnitId} {r : Running} (h : s.Runs c x job u r)
include h

theorem State.Runs.croft : s.dev.croft c = some x := h.1.1
theorem State.Runs.shaped : x.Shaped := h.1.2.1
theorem State.Runs.wf : Cells.wf x.granary = true := h.1.2.2

/-- A unit that cannot complete yet changes nothing. -/
theorem State.Runs.waits (hf : s.dev.finishUnit c x job r = none) : Becomes (.instructionCompletion c u) s s.dev := by
  obtain ⟨⟨hcroft, _, _⟩, hjob, hruns, _, hown, _⟩ := h
  have he : s.dev.completeInstruction c u = s.dev := by
    simp only [Dev.completeInstruction, Dev.instructionCompletion, hcroft, hjob, hruns, hf]
    exact Dev.fieldRunEnd_of_not_reeve hcroft hown
  exact Dev.bare_of_effect (Dev.completeInstruction c u) s (fun t => t.bare = s.dev.bare) fun t ht _ => by rw [ht, he]

/-- A unit that completes: its effect, then the unit free and the signal. The effect's croft is given to `P` with any sequencer and
units, since `P` speaks of neither. -/
theorem State.Runs.completes {e : Dev} {y : Croft} {P : Croft → Prop} (hf : s.dev.finishUnit c x job r = some e)
    (he : s.dev.OnlyCroft e c job.params.laneFree r.ins.word x y)
    (hP : ∀ seq units, P { y with seq := seq, units := units }) :
    Answers (.instructionCompletion c u) s (s.dev.Completed c x job u r.ins.word P) := by
  obtain ⟨⟨hcroft, hshaped, _⟩, hjob, hruns, hfree, hown, hfits⟩ := h
  obtain ⟨hc, ⟨_, _, hpseq, hpunits⟩, hm, ho, hj, hs⟩ := he
  obtain ⟨hu, hq⟩ := Croft.setRunning_eq y u none
  have hseq : (y.setRunning u none).seq = x.seq := by rw [hu]; exact hpseq
  have hsem (k : Nat) : (y.setRunning u none).sem k = x.sem k := by rw [Croft.sem, hseq, Croft.sem]
  obtain ⟨sems, own, hok, hadd⟩ := Croft.signal_fits (x := y.setRunning u none) (w := r.ins.word) r.ins.index
    (by rw [hsem]; exact hfits)
  let z : Croft := { y.setRunning u none with seq := { (y.setRunning u none).seq with sems := sems, semOwn := own } }
  have hzj : z.job = c.job := by simp only [z]; rw [hu]; exact (Dev.croft_ref hc).1
  have hzn : z.n = c.n := by simp only [z]; rw [hu]; exact (Dev.croft_ref hc).2
  have hzc : (e.setCroft z).croft c = some z := Dev.croft_setCroft hc hzj hzn
  have heff : s.dev.completeInstruction c u = e.setCroft z := by
    simp only [Dev.completeInstruction, Dev.instructionCompletion, hcroft, hjob, hruns, hf, hc, hok]
    rw [Dev.settle_of_not_held hzc (by simp only [z, hseq]; exact hfree)]
    exact Dev.fieldRunEnd_of_not_reeve hzc (by simp only [z, hseq]; exact hown)
  refine Dev.bare_of_effect (Dev.completeInstruction c u) s _ fun t ht hcr => ?_
  rw [heff] at ht hcr
  obtain ⟨_, _, hslots, hjobs, _, _, _, hmem, _⟩ := Dev.bare_congr ht
  have running (v : UnitId) : z.running v = (y.setRunning u none).running v := by cases v <;> rfl
  refine ⟨⟨z, (Dev.croft_congr hcr c).trans hzc, ?_, ?_, ?_, ?_, ?_, ?_, ?_⟩, hmem.trans hm, ?_, hjobs.trans hj,
    fun hno => hslots.trans (hs hno)⟩
  · rw [running, Croft.running_setRunning_same]
  · intro v hv
    rw [running, Croft.running_setRunning_other _ _ hv]
    cases v <;> simp only [Croft.running, hpunits]
  · intro k hk
    rw [hadd k (by rw [hseq, hshaped.sems]; exact hk), hsem]
  · simp only [z, hseq]
  · simp only [z, hseq]
  · simp only [z, hq, hpunits]
  · have := hP z.seq z.units
    simp only [z] at this ⊢
    rw [hu] at this ⊢
    exact this
  · intro c' hc'
    rw [Dev.croft_congr hcr c', Dev.croft_setCroft_ne hzj hzn hc', ho c' hc']

end

end Sys2Proof.Machine
end

section
/-!
SUPPORT. Where the rows of a drain and of a sampler instruction write (03_drain_and_reductions.md R80, R87, R91, R96;
05_dense_sampling.md R125, R130): only in the ranges that their descriptors name.
-/

namespace Sys2Proof.Machine

/-! ## The rows of a DRAIN.RED -/

theorem length_packElems (w : Nat) (xs : List Nat) : (packElems w xs).length = (xs.length * w + 7) / 8 := by
  simp [packElems]

/-- The bytes of an output row. -/
theorem length_convRow (d : DrainDesc) (t : Tile) {es : List Entry} {zs : List Word32} (us : List Nat) (he : es.length = 64)
    (hz : zs.length = 64) : (convRow d t es zs us).1.length = outRowBytes d.outFmt (entryWidth t.isInt t.comp) := by
  unfold convRow outRowBytes
  split
  next h => simp [h]
  · split
    · rw [List.length_flatMap]
      simp only [length_leBytes]
      rw [List.map_const', List.sum_replicate, he, smul_eq_mul]
    · simp only [length_packElems, List.length_map, List.length_zipIdx, hz]
      omega

@[simp] theorem length_expnRow (c : Ctx) (ys : List Word32) : (expnRow c ys).1.length = ys.length := by
  unfold expnRow
  dsimp only
  split <;> exact List.length_map _

/-- The values of a row, whether EXPN acts on them or not. -/
theorem length_exRow {c : Option Ctx} {p : Bool} {ys : List Word32} (h : ys.length = 64) :
    (match c with
      | some c => if p then expnRow c ys else (ys, false)
      | none => (ys, false)).1.length = 64 := by
  split
  · split
    · rw [length_expnRow, h]
    · exact h
  · exact h

/-- The output of row `i` lies in the ranges that the instruction writes. -/
theorem DrainAcc.putRow_sameOff (d : DrainDesc) (w : Nat) {n i : Nat} (hi : i < n) {s s' : DrainAcc} (hs : s'.granary = s.granary)
    {bs : List Byte} (hb : bs.length = outRowBytes d.outFmt w) :
    Cells.SameOff (inRanges (d.writes n w)) s.granary (if bs.isEmpty then s' else s'.put (d.dst + i * d.dstStride) bs).granary := by
  rw [← hs]
  split
  · exact .refl
  next hne =>
    have h0 : outRowBytes d.outFmt w ≠ 0 := by rw [← hb]; simpa using hne
    refine Cells.SameOff.writeBytes.mono fun k hk => ⟨_, ?_, hk⟩
    rw [DrainDesc.writes, if_neg h0, hb]
    exact List.mem_append_left _ (List.mem_map_of_mem (f := fun i => (d.dst + i * d.dstStride, outRowBytes d.outFmt w))
      (List.mem_range.mpr hi))

/-- So does the sum of row `i`. -/
theorem DrainAcc.putSum_sameOff (d : DrainDesc) (w : Nat) {n i : Nat} (hi : i < n) (hs : d.sum = true) (s : DrainAcc) (v : Nat) :
    Cells.SameOff (inRanges (d.writes n w)) s.granary (s.put (d.sumDst + 4 * i) (leBytes 4 v)).granary := by
  refine Cells.SameOff.writeBytes.mono fun k hk => ⟨(d.sumDst, 4 * n), ?_, ?_⟩
  · rw [DrainDesc.writes, if_pos hs]
    exact List.mem_append_right _ List.mem_cons_self
  · simp only [inRange_iff, length_leBytes] at hk ⊢
    omega

/-- Row `i` of a DRAIN.RED changes only bytes of its output row and of its row sum. -/
theorem drainRow_sameOff (d : DrainDesc) (t : Tile) (fam : Bool) (s : DrainAcc) {n i : Nat} (hi : i < n) :
    Cells.SameOff (inRanges (d.writes n (entryWidth t.isInt t.comp))) s.granary (drainRow d t fam s i).granary := by
  dsimp only [drainRow]
  split
  next hs =>
    refine Cells.SameOff.trans ?_ (DrainAcc.putSum_sameOff d _ hi hs _ _)
    refine DrainAcc.putRow_sameOff d _ hi (s := s) ?_ ?_
    · rfl
    · exact length_convRow d t _ (by simp) (length_exRow (by simp))
  · refine DrainAcc.putRow_sameOff d _ hi (s := s) ?_ ?_
    · rfl
    · exact length_convRow d t _ (by simp) (length_exRow (by simp))

/-! ## The rows of a sampler instruction -/

theorem SampAcc.put_sameOff (s : SampAcc) {s' : SampAcc} (hs : s'.granary = s.granary) (a : Nat) (bs : List Byte) :
    Cells.SameOff (inRange (a, bs.length)) s.granary (s'.put a bs).granary := by
  rw [← hs]
  unfold SampAcc.put
  split
  · exact .refl
  · exact .writeBytes

/-- Columns written from `a` on, `w` bytes each, of which only the first `n` hold a value. -/
theorem SampAcc.putCols_sameOff (s : SampAcc) (a w : Nat) {n : Nat} {cols : List (Option Nat)}
    (hc : ∀ j v, cols[j]? = some (some v) → j < n) :
    Cells.SameOff (inRange (a, w * n)) s.granary (s.putCols a w cols).granary := by
  refine Cells.SameOff.foldl (g := id) fun g p hp => ?_
  obtain ⟨c, j⟩ := p
  rw [List.mem_zipIdx_iff_getElem?] at hp
  cases c with
  | none => exact .refl
  | some v =>
    have hw : w * j + w ≤ w * n := Nat.mul_le_mul_left w (hc j v hp)
    refine Cells.SameOff.writeBytes.mono fun k hk => ?_
    simp only [inRange_iff, length_leBytes] at hk ⊢
    omega

/-- Of columns taken under a mask of 64 bits, only the first 64 hold a value. -/
theorem masked_column_lt {α β : Type} {l : List α} {f : α × Nat → Option β} {mask : Nat} (hm : mask < 2 ^ 64)
    (hf : ∀ p b, f p = some b → bitOf mask p.2 = true) : ∀ j b, ((l.zipIdx).map f)[j]? = some (some b) → j < 64 := by
  intro j b h
  rw [List.getElem?_map, Option.map_eq_some_iff] at h
  obtain ⟨⟨a, k⟩, hk, hb⟩ := h
  rw [List.getElem?_zipIdx, Option.map_eq_some_iff] at hk
  obtain ⟨_, _, hk⟩ := hk
  obtain rfl : j = k := by simpa using congrArg Prod.snd hk
  have hbit := Nat.ge_two_pow_of_testBit (hf _ _ hb)
  exact (Nat.pow_lt_pow_iff_right (by decide)).mp (Nat.lt_of_le_of_lt hbit hm)

/-- Of 64 columns only the first 64 hold a value. -/
theorem column_lt {β : Type} {f : Nat → Option β} : ∀ j b, ((List.range 64).map f)[j]? = some (some b) → j < 64 := by
  intro j b h
  have := (List.getElem?_eq_some_iff.mp h).1
  simpa using this

/-- The bytes of the output row `i` of a sampler instruction. -/
def sampSpan (op : Op) (d : SampDesc) (i : Nat) : Nat × Nat := (d.dst + i * d.dstStride, sampRowBytes op d)

theorem sampSpan_eq (op : Op) (d : SampDesc) (i : Nat) : sampSpan op d i = (d.dst + i * d.dstStride, sampRowBytes op d) := rfl

section
variable {op : Op} {d : SampDesc}

theorem sampRowBytes_bits (h : d.out = 0) : sampRowBytes op d = 8 := by delta sampRowBytes; rw [h]; rfl

theorem sampRowBytes_u8 (h : d.out = 1) : sampRowBytes op d = if op = .take then d.span else 64 := by
  delta sampRowBytes; rw [h]; rfl

theorem sampRowBytes_index (h : d.out = 2) :
    sampRowBytes op d = if op = .take then 4 else 4 * (64 / (segColumns d.seg).getD 64) := by
  delta sampRowBytes; rw [h]; rfl

theorem sampRowBytes_fp32 (h : d.out = 3) : sampRowBytes op d = 256 := by delta sampRowBytes; rw [h]; rfl

theorem sampRowBytes_bf16 (h : d.out = 4) : sampRowBytes op d = 128 := by delta sampRowBytes; rw [h]; rfl

theorem sampRowBytes_none (h : d.out = 5) : sampRowBytes op d = 0 := by delta sampRowBytes; rw [h]; rfl

end

/-- A row of draws as BITS or U8. -/
theorem SampAcc.putDraws_sameOff {op : Op} {d : SampDesc} (hop : op ≠ .take) (ho : d.out = 0 ∨ d.out = 1) (s : SampAcc)
    {s' : SampAcc} (hs : s'.granary = s.granary) (i : Nat) {cols : List (Option Bool)}
    (hc : ∀ j b, cols[j]? = some (some b) → j < 64) :
    Cells.SameOff (inRange (sampSpan op d i)) s.granary (s'.putDraws d i cols).granary := by
  unfold SampAcc.putDraws
  rcases ho with ho | ho
  · simp only [ho, if_true, sampSpan_eq, sampRowBytes_bits ho]
    have h := s.put_sameOff hs (d.dst + i * d.dstStride)
      (leBytes 8 ((cols.zipIdx).foldl (fun v p => if p.1 = some true then v + 2 ^ p.2 else v) 0))
    rwa [length_leBytes] at h
  · simp only [ho, one_ne_zero, if_false, sampSpan_eq, sampRowBytes_u8 ho, if_neg hop]
    rw [← hs]
    refine s'.putCols_sameOff _ 1 (n := 64) fun j v h => ?_
    rw [List.getElem?_map, Option.map_eq_some_iff] at h
    obtain ⟨c, hj, hv⟩ := h
    obtain ⟨b, rfl, _⟩ := Option.map_eq_some_iff.mp hv
    exact hc j b hj

theorem bernRow_sameOff {d : SampDesc} (hm : d.colMask < 2 ^ 64) (ho : d.out = 0 ∨ d.out = 1) (s : SampAcc) (i : Nat)
    (ys : List Word32) : Cells.SameOff (inRange (sampSpan .bern d i)) s.granary (bernRow d s i ys).granary := by
  refine SampAcc.putDraws_sameOff (op := .bern) (by decide) ho s ?_ i (masked_column_lt hm fun p b h => ?_)
  · rfl
  split at h
  · assumption
  · cases h

theorem gibbsRow_sameOff {d : SampDesc} (hm : d.colMask < 2 ^ 64) (ho : d.out = 0 ∨ d.out = 1) (s : SampAcc) (i : Nat)
    (ys : List Word32) : Cells.SameOff (inRange (sampSpan .gibbs d i)) s.granary (gibbsRow d s i ys).granary := by
  refine SampAcc.putDraws_sameOff (op := .gibbs) (by decide) ho s ?_ i (masked_column_lt hm fun p b h => ?_)
  · rfl
  split at h
  · cases h
  next hn => simp only [Bool.or_eq_true, not_or, Bool.not_eq_true, Bool.not_eq_false'] at hn; exact hn.1

/-- A running draw writes nothing; a direct one its segments' columns or indices. -/
theorem gumbRow_sameOff {d : SampDesc} (ho : segColumns d.seg ≠ none → d.out = 1 ∨ d.out = 2) (s : SampAcc) (base i : Nat)
    (ys : List Word32) : Cells.SameOff (inRange (sampSpan .gumb d i)) s.granary (gumbRow d s base i ys).granary := by
  unfold gumbRow
  dsimp only
  split
  · split <;> exact .refl
  next n hn =>
    rcases ho (by simp [hn]) with ho | ho
    · rw [if_neg (by omega)]
      refine SampAcc.putDraws_sameOff (op := .gumb) (by decide) (.inr ho) s ?_ i column_lt
      rfl
    · rw [if_pos ho]
      refine (SampAcc.put_sameOff s ?_ _ _).mono fun k hk => ?_
      · rfl
      rw [List.length_flatMap] at hk
      simp only [length_leBytes, List.map_const', List.sum_replicate, List.length_map, List.length_range, smul_eq_mul] at hk
      simpa [sampSpan_eq, sampRowBytes_index ho, hn, Nat.mul_comm] using hk

theorem takeRow_sameOff {d : SampDesc} (ho : d.out = 1 ∨ d.out = 2) (s : SampAcc) (i : Nat) :
    Cells.SameOff (inRange (sampSpan .take d i)) s.granary (takeRow d s i).granary := by
  unfold takeRow
  split
  · exact .refl
  · refine (SampAcc.put_sameOff s rfl _ _).mono fun k hk => ?_
    rcases ho with ho | ho
    · simpa [ho, sampSpan_eq, sampRowBytes_u8 ho] using hk
    · simpa [ho, sampSpan_eq, sampRowBytes_index ho] using hk

theorem maskRow_sameOff {d : SampDesc} (s : SampAcc) (i : Nat) {ys : Option (List Word32)}
    (ho : if ys = none then d.out = 0 ∨ d.out = 1 else d.out = 3) :
    Cells.SameOff (inRange (sampSpan .mask d i)) s.granary (maskRow d s i ys).granary := by
  cases ys with
  | none => exact SampAcc.putDraws_sameOff (op := .mask) (by decide) (by simpa using ho) s rfl i column_lt
  | some ys =>
    refine (SampAcc.putCols_sameOff _ _ _ column_lt).mono fun k hk => ?_
    have ho : d.out = 3 := by simpa using ho
    simpa [sampSpan_eq, sampRowBytes_fp32 ho] using hk

theorem fillRow_sameOff {d : SampDesc} (ho : d.out = 3 ∨ d.out = 4) (s : SampAcc) (i : Nat) (o1 o2 : List Word64) :
    Cells.SameOff (inRange (sampSpan .fill d i)) s.granary (fillRow d s i o1 o2).granary := by
  refine (SampAcc.putCols_sameOff _ _ _ column_lt).mono fun k hk => ?_
  rcases ho with ho | ho
  · simpa [ho, sampSpan_eq, sampRowBytes_fp32 ho] using hk
  · simpa [ho, sampSpan_eq, sampRowBytes_bf16 ho] using hk

/-- The sampler's operations (R125). -/
def samplerOps : List Op := [.bern, .gibbs, .gumb, .take, .mask, .fill]

/-- Row `i` of a sampler instruction whose OUT, SRC and SEG form a combination of R125 changes only bytes of its output row. -/
theorem sampRow_sameOff {op : Op} {src : Nat} {d : SampDesc} {rows : Option (List (List Word32))} (hop : op ∈ samplerOps)
    (hm : d.colMask < 2 ^ 64) (hc : sampCombo op src d = true) (hrows : rows = none ↔ src = 0) (fam : Bool) (base : Nat)
    (s : SampAcc) (i : Nat) :
    Cells.SameOff (inRange (sampSpan op d i)) s.granary (sampRow op d fam base rows s i).granary := by
  simp only [samplerOps, List.mem_cons, List.not_mem_nil, or_false] at hop
  rcases hop with rfl | rfl | rfl | rfl | rfl | rfl <;>
    simp only [sampCombo, Bool.and_eq_true, Bool.or_eq_true, beq_iff_eq, bne_iff_ne] at hc
  · exact bernRow_sameOff hm hc.2 s i _
  · exact gibbsRow_sameOff hm (.inr hc.2) s i _
  · refine gumbRow_sameOff (fun hseg => ?_) s base i _
    have h0 : d.seg ≠ 0 := fun h => hseg (by rw [h]; rfl)
    simpa [h0] using hc.2
  · exact takeRow_sameOff (by tauto) s i
  · refine maskRow_sameOff s i ?_
    by_cases h : src = 0
    · have hn := hrows.mpr h
      simpa [h, hn] using hc
    · have hn : rows ≠ none := fun hr => h (hrows.mp hr)
      simp only [h, if_false, Bool.and_eq_true, beq_iff_eq] at hc
      simpa [hn] using hc.2
  · unfold sampRow
    dsimp only
    split
    · exact fillRow_sameOff hc.2 _ i _ _
    · exact fillRow_sameOff hc.2 _ i _ _

@[simp] theorem SampAcc.put_gens (s : SampAcc) (a : Nat) (bs : List Byte) : (s.put a bs).gens = s.gens := by
  unfold SampAcc.put
  split <;> rfl

/-- SAMP.TAKE consumes no output. -/
@[simp] theorem takeRow_gens (d : SampDesc) (s : SampAcc) (i : Nat) : (takeRow d s i).gens = s.gens := by
  unfold takeRow
  split
  · rfl
  · exact SampAcc.put_gens s _ _

end Sys2Proof.Machine
end

section
/-!
SUPPORT. What each unit leaves at the completion of its instruction (R60, R79, R87, R99, R131, R173, R189, R190, R201, R204, R245).
-/

namespace Sys2Proof.Machine

/-! ## Fields of the word -/

/-- A word's class, by its operation: 3 for a DRAIN.RED, 4 for a sampler instruction. -/
theorem cls_of_operation {w : InstrWord} {op : Op} (h : InstrWord.operation w = some op) :
    (op = .red → InstrWord.cls w = 3) ∧ (op ∈ samplerOps → InstrWord.cls w = 4) := by
  unfold InstrWord.operation at h
  revert h
  generalize InstrWord.cls w = a
  generalize InstrWord.op w = b
  intro h
  split at h <;> cases h <;> simp [samplerOps]

theorem InstrWord.unit_lt (w : InstrWord) : InstrWord.unit w < 4 := Nat.mod_lt _ (by decide)

theorem InstrWord.rows_pos (w : InstrWord) : 0 < InstrWord.rows w := by simp [InstrWord.rows, mOf]

/-! ## The effect of a unit, by its instruction -/

section
variable {d : Dev} {c : CroftRef} {x : Croft} {job : Job} {r : Running}

theorem Dev.finishUnit_mm (hop : InstrWord.operation r.ins.word = some .mm) :
    d.finishUnit c x job r = some (d.setCroft (x.finishMill r)) := by
  delta Dev.finishUnit; rw [hop]

theorem Dev.finishUnit_red (hop : InstrWord.operation r.ins.word = some .red) : d.finishUnit c x job r
    = if x.handRoom r then some ((d.setCroft (x.finishRed job.params.laneFree r)).freeCycles x job r) else none := by
  delta Dev.finishUnit; rw [hop]

theorem Dev.finishUnit_emit (hop : InstrWord.operation r.ins.word = some .emit) :
    d.finishUnit c x job r = some (d.setCroft (x.finishEmit r)) := by
  delta Dev.finishUnit; rw [hop]

/-- The Field's operations. -/
def fieldOps : List Op := [.load, .sweep, .snap, .read]

theorem Dev.finishUnit_field {op : Op} (hm : op ∈ fieldOps) (hop : InstrWord.operation r.ins.word = some op) :
    d.finishUnit c x job r = (x.finishField job.params.staleness r).map d.setCroft := by
  delta Dev.finishUnit; rw [hop]
  simp only [fieldOps, List.mem_cons, List.not_mem_nil, or_false] at hm
  rcases hm with rfl | rfl | rfl | rfl <;> rfl

theorem Dev.finishUnit_landed {op : Op} (hm : op ∈ [Op.dma, .zero, .put]) (hop : InstrWord.operation r.ins.word = some op)
    (hl : r.landed = true) : d.finishUnit c x job r = some d := by
  delta Dev.finishUnit; rw [hop]
  simp only [List.mem_cons, List.not_mem_nil, or_false] at hm
  rcases hm with rfl | rfl | rfl <;> exact if_pos hl

/-- A move to the own Granary that the mesh did not carry. -/
theorem Dev.finishUnit_move (zero : Bool) (hop : InstrWord.operation r.ins.word = some (if zero then .zero else .dma))
    (hl : r.landed = false) (ho : (moveDesc r.desc).dst.isOwn = true) :
    d.finishUnit c x job r = some (d.moveData (d.unitMap x false) c zero (moveDesc r.desc)) := by
  delta Dev.finishUnit; rw [hop]
  cases zero <;> exact (if_neg (by rw [hl]; exact Bool.false_ne_true)).trans (if_pos ho)

theorem Dev.finishUnit_mcast (hop : InstrWord.operation r.ins.word = some .mcast) (hl : r.landed = true) :
    d.finishUnit c x job r = some (d.mcastResult c r.desc) := by
  delta Dev.finishUnit; rw [hop]
  exact if_pos hl

theorem Dev.finishUnit_sampler {op : Op} (hm : op ∈ samplerOps) (hop : InstrWord.operation r.ins.word = some op) :
    d.finishUnit c x job r = (x.finishSamp job.params.laneFree r op).map fun y => (d.setCroft y).freeCycles x job r := by
  delta Dev.finishUnit; rw [hop]
  simp only [samplerOps, List.mem_cons, List.not_mem_nil, or_false] at hm
  rcases hm with rfl | rfl | rfl | rfl | rfl | rfl <;> rfl

end

/-! ## Tiles of a bank -/

theorem findTile_shape {bank : List Tile} {m num : Nat} {t : Tile} (h : findTile bank m num = some t) :
    t.m = m ∧ t.num = num := by
  simpa using List.find?_some h

theorem findTile_putTile (bank : List Tile) {t : Tile} {m num : Nat} (ht : t.m = m ∧ t.num = num) :
    findTile (putTile bank t) m num = some t := by
  obtain ⟨rfl, rfl⟩ := ht
  simp [findTile, putTile]

theorem findTile_closeTile (bank : List Tile) (m num : Nat) : findTile (closeTile bank m num) m num = none := by
  simp only [findTile, closeTile, List.find?_eq_none, List.mem_filter]
  rintro t ⟨_, ht⟩
  simpa only [Bool.not_eq_true', Bool.not_eq_true] using ht

theorem getD_set_same {α : Type} {l : List α} {i : Nat} (hi : i < l.length) (a b : α) : (l.set i a).getD i b = a := by
  simp [List.getD_eq_getElem?_getD, hi]

theorem MillOp.apply_shape (o : MillOp) (sets : List WeightSet) (g : Cells) (t : Tile) :
    (o.apply sets g t).m = t.m ∧ (o.apply sets g t).num = t.num := by
  unfold MillOp.apply
  split <;> exact ⟨rfl, rfl⟩

/-! ## Transfers -/

@[simp] theorem length_getAt (d : Dev) (map : MapCopy) (c : CroftRef) (ref : MemRef) (a n : Nat) :
    (d.getAt map c ref a n).length = n := by
  unfold Dev.getAt
  split
  · exact length_readBytes _ _ _
  · split
    · exact length_readBytes _ _ _
    · exact List.length_replicate

theorem Dev.getAt_device (d : Dev) (map : MapCopy) (c : CroftRef) (o a n : Nat) :
    d.getAt map c (.device o) a n = readBytes d.mem a n := rfl

theorem Dev.getAt_own {d : Dev} {c : CroftRef} {x : Croft} (hx : d.croft c = some x) (map : MapCopy) (o a n : Nat) :
    d.getAt map c (.own o) a n = readBytes x.granary a n := by
  have ht : d.translated map c (.own o) = some c := rfl
  simp only [Dev.getAt, ht, hx, Croft.read]

/-- The bytes that row `k` of a move takes to its destination. -/
def Dev.moveRow (d : Dev) (map : MapCopy) (c : CroftRef) (zero : Bool) (m : MoveDesc) (k : Nat) : List Byte :=
  if zero then List.replicate m.rowBytes 0 else d.getAt map c m.src (m.src.offset + k * m.srcStride) m.rowBytes

@[simp] theorem Dev.length_moveRow (d : Dev) (map : MapCopy) (c : CroftRef) (zero : Bool) (m : MoveDesc) (k : Nat) :
    (d.moveRow map c zero m k).length = m.rowBytes := by
  unfold Dev.moveRow
  split <;> simp

/-- A move to the croft's own Granary writes its rows there. -/
theorem Dev.moveData_own (d : Dev) (map : MapCopy) (c : CroftRef) (zero : Bool) {m : MoveDesc} (ho : m.dst.isOwn = true) :
    d.moveData map c zero m = d.onCroft c fun x => (List.range m.rows).foldl (fun x k =>
      x.write (m.dst.offset + k * m.dstStride) (d.moveRow map c zero m k)) x := by
  have hz : ((List.range m.rows).map (d.moveRow map c zero m)).zipIdx
      = (List.range m.rows).map fun k => (d.moveRow map c zero m k, k) := by
    refine List.ext_getElem (by simp) fun i _ _ => by simp
  have ht : d.moveData map c zero m = (List.range m.rows).foldl (fun e k =>
      e.putAt map c m.dst (m.dst.offset + k * m.dstStride) (d.moveRow map c zero m k)) d := by
    show (((List.range m.rows).map (d.moveRow map c zero m)).zipIdx).foldl _ d = _
    rw [hz, List.foldl_map]
  have hp (e : Dev) (a : Nat) (bs : List Byte) : e.putAt map c m.dst a bs = e.onCroft c fun x => x.write a bs := by
    simp only [Dev.putAt, Dev.translated, ho, if_true]
  simp only [ht, hp]
  exact Dev.foldl_onCroft (f := fun x k => x.write (m.dst.offset + k * m.dstStride) (d.moveRow map c zero m k))
    (fun _ _ => ⟨rfl, rfl⟩) d c (List.range m.rows)

section
variable {s : State} {c : CroftRef} {x : Croft} {job : Job} {u : UnitId} {r : Running} (h : s.Runs c x job u r)
include h

/-- A transfer whose data have landed changes nothing more. -/
theorem State.Runs.transferLanded {P : Croft → Prop}
    (hop : InstrWord.operation r.ins.word = some .dma ∨ InstrWord.operation r.ins.word = some .zero
      ∨ InstrWord.operation r.ins.word = some .put) (hl : r.landed = true) (hP : ∀ seq units, P { x with seq := seq, units := units }) :
    Answers (.instructionCompletion c u) s (s.dev.Completed c x job u r.ins.word P) := by
  refine h.completes (e := s.dev) ?_ (.refl h.croft) hP
  rcases hop with hop | hop | hop <;> exact Dev.finishUnit_landed (by simp) hop hl

/-- A move to the croft's own Granary, carried out at its completion, writes its rows. -/
theorem State.Runs.moveOwn {P : Croft → Prop} (zero : Bool)
    (hop : InstrWord.operation r.ins.word = some (if zero then .zero else .dma)) (hl : r.landed = false)
    (ho : (moveDesc r.desc).dst.isOwn = true)
    (hP : ∀ seq units poison, P { x with
      seq := seq, units := units, poison := poison
      granary := writeRows (fun k => (moveDesc r.desc).dst.offset + k * (moveDesc r.desc).dstStride)
        (s.dev.moveRow (s.dev.unitMap x false) c zero (moveDesc r.desc)) (moveDesc r.desc).rows x.granary }) :
    Answers (.instructionCompletion c u) s (s.dev.Completed c x job u r.ins.word P) := by
  have hrows (y : Croft) := Croft.foldl_write y (fun k => (moveDesc r.desc).dst.offset + k * (moveDesc r.desc).dstStride)
    (s.dev.moveRow (s.dev.unitMap x false) c zero (moveDesc r.desc)) (moveDesc r.desc).rows
  have hf := Dev.finishUnit_move (d := s.dev) (c := c) (x := x) (job := job) zero hop hl ho
  rw [Dev.moveData_own _ _ _ _ ho] at hf
  obtain ⟨p, hp⟩ := hrows x
  refine h.completes hf (.onCroft h.croft (fun y => ?_) ?_) fun seq units => ?_
  · obtain ⟨q, hq⟩ := hrows y
    rw [hq]
    exact ⟨rfl, rfl⟩
  · rw [hp]
    exact ⟨rfl, rfl, rfl, rfl⟩
  · rw [hp]
    exact hP seq units p

end

/-! ## MILL.MM -/

/-- A MILL.MM replaces its tile and changes the Mill's weight registers. -/
theorem Croft.finishMill_eq {x : Croft} {r : Running} {t : Tile}
    (ht : findTile (x.banks.getD (millOp r.ins).unit []) (millOp r.ins).m (millOp r.ins).tile = some t) :
    ∃ weights, x.finishMill r = { x with
      banks := modifyAt x.banks (millOp r.ins).unit fun b => putTile b ((millOp r.ins).apply (x.millPasses r).1 x.granary t)
      weights := weights } := by
  have preload (y : Croft) (n : Nat) : ∃ weights, y.preload n = { y with weights := weights } := by
    unfold Croft.preload
    split
    · exact ⟨_, rfl⟩
    · split <;> exact ⟨_, rfl⟩
  simp only [Croft.finishMill, ht]
  split
  · exact ⟨_, rfl⟩
  · obtain ⟨weights, hw⟩ := preload _ (millOp r.ins).unit
    exact ⟨weights, hw⟩

/-! ## DRAIN.EMIT -/

/-- One row of a DRAIN.EMIT. -/
def Croft.emitRow (d : DrainDesc) (x : Croft) (i : Nat) : Croft :=
  match x.ctxs[d.ctx0 + i]? with
  | some c => x.write (d.dst + i * d.dstStride) c.emitRecord
  | none => x

/-- The bytes that row `i` of a DRAIN.EMIT writes. -/
def Croft.emitBytes (x : Croft) (d : DrainDesc) (i : Nat) : List Byte := ((x.ctxs[d.ctx0 + i]?).map Ctx.emitRecord).getD []

@[simp] theorem Ctx.length_emitRecord (c : Ctx) : c.emitRecord.length = 32 := by
  simp [Ctx.emitRecord]

theorem Croft.length_emitBytes_le (x : Croft) (d : DrainDesc) (i : Nat) : (x.emitBytes d i).length ≤ 32 := by
  unfold Croft.emitBytes
  cases x.ctxs[d.ctx0 + i]? <;> simp

theorem Croft.emitBytes_of_ctx {x : Croft} {d : DrainDesc} {i : Nat} {c : Ctx} (h : x.ctxs[d.ctx0 + i]? = some c) :
    x.emitBytes d i = c.emitRecord := by
  rw [Croft.emitBytes, h, Option.map_some, Option.getD_some]

theorem Croft.finishEmit_eq (x : Croft) (r : Running) : ∃ poison, x.finishEmit r = { x with
    granary := writeRows (fun k => (drainDesc r.desc).dst + k * (drainDesc r.desc).dstStride) (x.emitBytes (drainDesc r.desc))
      (InstrWord.rows r.ins.word) x.granary
    poison := poison } := by
  show ∃ poison, (List.range (InstrWord.rows r.ins.word)).foldl (Croft.emitRow (drainDesc r.desc)) x = _
  induction InstrWord.rows r.ins.word with
  | zero => exact ⟨x.poison, rfl⟩
  | succ n ih =>
    obtain ⟨p, hp⟩ := ih
    rw [List.range_succ, List.foldl_concat, hp, writeRows_succ]
    unfold Croft.emitRow Croft.emitBytes
    cases x.ctxs[(drainDesc r.desc).ctx0 + n]? with
    | none => exact ⟨p, rfl⟩
    | some c => exact ⟨_, rfl⟩

/-! ## DRAIN.RED and the sampler -/

/-- The set that gave the outputs, after them. -/
theorem Croft.getElem?_consume {x : Croft} {u : Nat} {l₀ : LaneSet} (hl : x.lanes[u]? = some l₀) (free : Bool) (n : Nat)
    (l : LaneSet) : (x.consume free u n l)[u]? = some l := by
  have hu := (List.getElem?_eq_some_iff.mp hl).1
  unfold Croft.consume
  split
  · simp [hl]
  · simp [hu]

theorem Croft.consume_seeded (x : Croft) (u n : Nat) (l : LaneSet) : x.consume false u n l = x.lanes.set u l := rfl

theorem consumed_seeded (l : LaneSet) (gens : List Gen) (n : Nat) :
    consumed false l gens n = { l with gens := gens, count := l.count + n } := rfl

theorem Croft.sameProgram_finishRed (x : Croft) (free : Bool) (r : Running) : x.SameProgram (x.finishRed free r) := by
  unfold Croft.finishRed
  dsimp only
  split <;> exact ⟨rfl, rfl, rfl, rfl⟩

theorem Croft.sameProgram_finishSamp {x y : Croft} {free : Bool} {r : Running} {op : Op} (h : x.finishSamp free r op = some y) :
    x.SameProgram y := by
  dsimp only [Croft.finishSamp] at h
  split at h <;> cases h
  exact ⟨rfl, rfl, rfl, rfl⟩

/-- The rows of the hand-over or of the Granary are there exactly when SRC is not NONE. -/
theorem Croft.sampRows_isNone {x : Croft} {r : Running} {d : SampDesc} {src : Nat × Option (List (List Word32))}
    (h : x.sampRows r d = some src) : src.2 = none ↔ InstrWord.src r.ins.word = 0 := by
  unfold Croft.sampRows at h
  dsimp only at h
  split at h
  next h0 => cases h; simp [h0]
  next h1 =>
    obtain ⟨b, _, rfl⟩ := Option.map_eq_some_iff.mp h
    simp [h1]
  next h0 _ => cases h; simpa using h0

theorem leNat_lt_pow (l : List Byte) : leNat l < 256 ^ l.length := by
  induction l with
  | nil => simp [leNat]
  | cons b t ih =>
    have := b.isLt
    simp only [leNat, List.length_cons, Nat.pow_succ]
    omega

/-- COLMASK has 64 bits. -/
theorem sampDesc_colMask_lt (bs : List Byte) : (sampDesc bs).colMask < 2 ^ 64 := by
  have hl : (slice bs 0x18 8).length = 8 := by simp [slice]
  exact (leNat_lt_pow (slice bs 0x18 8)).trans_le (by rw [hl]; decide)

/-- Only SAMP.TAKE gives no outputs. -/
theorem sampOutputs_eq_zero {op : Op} {d : SampDesc} {w : InstrWord} (hop : op ∈ samplerOps)
    (h : sampOutputs op d (InstrWord.rows w) = 0) : op = .take := by
  have hpos := InstrWord.rows_pos w
  simp only [samplerOps, List.mem_cons, List.not_mem_nil, or_false] at hop
  rcases hop with rfl | rfl | rfl | rfl | rfl | rfl
  case inr.inr.inr.inl => rfl
  case inr.inr.inr.inr.inr =>
    simp only [sampOutputs] at h
    split at h <;> omega
  all_goals
    simp only [sampOutputs] at h
    omega

/-- The output rows are the ranges that the instruction writes; a running draw has none. -/
theorem sampSpan_writes {op : Op} {d : SampDesc} {n i k : Nat} (hi : i ∈ List.range n) (hk : inRange (sampSpan op d i) k) :
    inRanges (sampWrites op d n) k := by
  refine ⟨sampSpan op d i, ?_, hk⟩
  rw [sampWrites, if_neg]
  · exact List.mem_map_of_mem hi
  · intro ho
    simp only [inRange_iff, sampSpan_eq, sampRowBytes_none ho] at hk
    omega

/-- Rows of SAMP.TAKE leave the generators as they are. -/
theorem foldl_take_gens (d : SampDesc) (fam : Bool) (base : Nat) (rows : Option (List (List Word32))) (l : List Nat) (s : SampAcc) :
    (l.foldl (sampRow .take d fam base rows) s).gens = s.gens :=
  List.foldlRecOn (motive := fun t => t.gens = s.gens) l _ rfl fun t ht i _ => (takeRow_gens d t i).trans ht

/-! ## FIELD.SNAP, FIELD.READ and MESH.MCAST -/

/-- Zeros behind a list read as what is past its end. -/
theorem getD_append_zeros (data : List Byte) (n k : Nat) : (data ++ List.replicate n 0).getD k 0 = data.getD k 0 := by
  simp only [List.getD_eq_getElem?_getD]
  by_cases h : k < data.length
  · rw [List.getElem?_append_left h]
  · rw [List.getElem?_append_right (not_lt.mp h), List.getElem?_replicate, List.getElem?_eq_none (not_lt.mp h)]
    split <;> rfl

theorem Croft.length_readRecord (x : Croft) : x.readRecord.length = 64 := by
  simp only [Croft.readRecord, List.length_append, length_leBytes]

theorem length_stateImage (st : Array Bool) : (stateImage st).length = 4096 := by
  rw [stateImage, List.length_map, List.length_range]

section
variable {x : Croft} {s : Nat} {r : Running}

theorem Croft.finishField_load (hop : InstrWord.operation r.ins.word = some .load) : x.finishField s r = some x := by
  delta Croft.finishField; rw [hop]

/-- A sweep that has made its sweeps, with no plane pending. -/
theorem Croft.finishField_sweep (hop : InstrWord.operation r.ins.word = some .sweep) (hphase : x.field.phase = 0)
    (htarget : x.field.target ≤ x.runSweeps) (hpend : x.field.pending = []) :
    x.finishField s r = some { x with ctxs := copyPosition x.ctxs x.lanes 4 } := by
  delta Croft.finishField; rw [hop]
  exact if_pos (by simp [hphase, htarget, hpend])

/-- The record of FIELD.SNAP, padded with zeros to its size. -/
theorem Croft.finishField_snap {hist : List Byte} (hop : InstrWord.operation r.ins.word = some .snap)
    (hsync : x.field.synced = true) (hhist : x.field.snapHistory s x.runSweeps = some hist) :
    x.finishField s r = some (x.write (leAt r.desc 8 4) (stateImage x.field.states ++ hist
      ++ List.replicate (snapBytes x.field.image s - (stateImage x.field.states ++ hist).length) 0)) := by
  delta Croft.finishField; rw [hop]
  refine (if_neg (by rw [hsync]; exact Bool.false_ne_true)).trans ?_
  rw [hhist, Option.map_some]

theorem Croft.finishField_read (hop : InstrWord.operation r.ins.word = some .read) (hsync : x.field.synced = true)
    (hedge : x.field.edgePresent x.runSweeps = true) :
    x.finishField s r = some (if bitOf (leAt r.desc 0 4) 0
      then (x.write (leAt r.desc 8 4) x.readRecord).write (leAt r.desc 8 4 + 64) (stateImage x.field.best)
      else x.write (leAt r.desc 8 4) x.readRecord) := by
  delta Croft.finishField; rw [hop]
  exact if_neg (by rw [hsync, hedge]; exact Bool.false_ne_true)

end

/-- A mask at RESULT, and PARTIAL when it is not the whole of what was asked for. -/
def Croft.takeMask (result : Nat) (mask : List Byte) (whole : Prop) [Decidable whole] (x : Croft) : Croft :=
  let y := x.write result mask
  if whole then y else { y with report := y.report ||| 0x20 }

theorem Croft.takeMask_eq (result : Nat) (mask : List Byte) (whole : Prop) [Decidable whole] (x : Croft) :
    Croft.takeMask result mask whole x = { x with
      granary := writeBytes x.granary result mask, poison := unpoison x.poison result mask.length
      report := if whole then x.report else x.report ||| 0x20 } := by
  by_cases hw : whole
  · simp only [Croft.takeMask, if_pos hw]; rfl
  · simp only [Croft.takeMask, if_neg hw]; rfl

theorem Dev.mcastResult_eq (d : Dev) (c : CroftRef) (bs : List Byte) :
    let m := meshDesc bs
    let got := maskOf (d.deliverable c.job ((m.targets c.n).filter fun t => bitOf (leAt bs 64 32) t.val))
    d.mcastResult c bs = d.onCroft c (Croft.takeMask m.result (leBytes 32 got) (got = maskOf (m.targets c.n))) := rfl

end Sys2Proof.Machine
end

section
/-!
SUPPORT. INSTRUCTION_COMPLETION, instruction by instruction (Obligations.InstructionCompletion).
-/

namespace Sys2Proof.Machine

section
variable {s : State} {c : CroftRef} {x : Croft} {job : Job} {u : UnitId} {r : Running} (h : s.Runs c x job u r)
include h

/-- A MILL.MM leaves its tile as the instruction computes it. -/
theorem State.Runs.millMm {tile : Tile} (hop : InstrWord.operation r.ins.word = some .mm)
    (ht : findTile (x.banks.getD (millOp r.ins).unit []) (millOp r.ins).m (millOp r.ins).tile = some tile) :
    Answers (.instructionCompletion c u) s (s.dev.Completed c x job u r.ins.word fun y => y.granary = x.granary ∧ y.ctxs = x.ctxs
      ∧ findTile (y.banks.getD (millOp r.ins).unit []) (millOp r.ins).m (millOp r.ins).tile
        = some ((millOp r.ins).apply (x.millPasses r).1 x.granary tile)) := by
  obtain ⟨weights, hw⟩ := Croft.finishMill_eq ht
  have hu : (millOp r.ins).unit < x.banks.length := by rw [h.shaped.banks]; exact InstrWord.unit_lt _
  refine h.completes (Dev.finishUnit_mm hop) (.setCroft h.croft ?_) fun _ _ => ?_
  · rw [hw]; exact ⟨rfl, rfl, rfl, rfl⟩
  · rw [hw]
    refine ⟨rfl, rfl, ?_⟩
    have hb (f : List Tile → List Tile) : (modifyAt x.banks (millOp r.ins).unit f).getD (millOp r.ins).unit []
        = f (x.banks.getD (millOp r.ins).unit []) := by
      simp only [List.getD_eq_getElem?_getD, modifyAt_getElem?, if_true, List.getElem?_eq_getElem hu, Option.map_some,
        Option.getD_some]
    obtain ⟨hm, hn⟩ := findTile_shape ht
    obtain ⟨hm', hn'⟩ := (millOp r.ins).apply_shape (x.millPasses r).1 x.granary tile
    simp only [hb]
    exact findTile_putTile _ ⟨hm'.trans hm, hn'.trans hn⟩

/-- A MOVE.ZERO on the own Granary leaves zeros in every destination row. -/
theorem State.Runs.moveZero (hop : InstrWord.operation r.ins.word = some .zero) (hl : r.landed = false)
    (ho : (moveDesc r.desc).dst.isOwn = true) :
    let m := moveDesc r.desc
    Answers (.instructionCompletion c u) s (s.dev.Completed c x job u r.ins.word fun y => y.banks = x.banks ∧ y.ctxs = x.ctxs
      ∧ ∀ a, readByte y.granary a =
        if ∃ k < m.rows, m.dst.offset + k * m.dstStride ≤ a ∧ a < m.dst.offset + k * m.dstStride + m.rowBytes then 0
        else readByte x.granary a) := by
  intro m
  refine h.moveOwn true hop hl ho fun _ _ _ => ⟨rfl, rfl, fun a => ?_⟩
  show readByte (writeRows (fun k => m.dst.offset + k * m.dstStride) (fun _ => List.replicate m.rowBytes 0) m.rows x.granary) a = _
  split
  next hin => exact readByte_writeRows_zeros h.wf hin
  next hout =>
    refine (writeRows_sameOff m.rows h.wf).2 a ?_
    simp only [inRanges, List.mem_map, List.mem_range, List.length_replicate]
    rintro ⟨_, ⟨k, hk, rfl⟩, ha⟩
    exact hout ⟨k, hk, ha⟩

/-- A MOVE.DMA into the own Granary leaves the source's bytes in the destination rows, the last row deciding. -/
theorem State.Runs.moveDma (hop : InstrWord.operation r.ins.word = some .dma) (hl : r.landed = false)
    (ho : (moveDesc r.desc).dst.isOwn = true) :
    let m := moveDesc r.desc
    Answers (.instructionCompletion c u) s (s.dev.Completed c x job u r.ins.word fun y => y.banks = x.banks ∧ y.ctxs = x.ctxs
      ∧ (∀ a, (∀ p ∈ (List.range m.rows).map fun k => (m.dst.offset + k * m.dstStride, m.rowBytes), a < p.1 ∨ p.1 + p.2 ≤ a) →
        readByte y.granary a = readByte x.granary a)
      ∧ ∀ k < m.rows, ∀ i < m.rowBytes,
        (∀ l, k < l → l < m.rows → ¬ (m.dst.offset + l * m.dstStride ≤ m.dst.offset + k * m.dstStride + i
          ∧ m.dst.offset + k * m.dstStride + i < m.dst.offset + l * m.dstStride + m.rowBytes)) →
        some (readByte y.granary (m.dst.offset + k * m.dstStride + i))
          = (s.dev.getAt (s.dev.unitMap x false) c m.src (m.src.offset + k * m.srcStride) m.rowBytes)[i]?) := by
  intro m
  refine h.moveOwn false hop hl ho fun _ _ _ => ⟨rfl, rfl, ?_, fun k hk i hi hlast => ?_⟩
  · have hoff := writeRows_sameOff (at_ := fun k => m.dst.offset + k * m.dstStride)
      (row := s.dev.moveRow (s.dev.unitMap x false) c false m) (m := x.granary) m.rows
    simp only [Dev.length_moveRow] at hoff
    exact hoff.outside h.wf
  · have hb := readByte_writeRows_last (at_ := fun k => m.dst.offset + k * m.dstStride)
      (row := s.dev.moveRow (s.dev.unitMap x false) c false m) h.wf hk (by rwa [Dev.length_moveRow])
      fun l h1 h2 hin => hlast l h1 h2 (by simpa only [inRange_iff, Dev.length_moveRow] using hin)
    refine (congrArg some hb).trans ?_
    have hlen : i < (s.dev.moveRow (s.dev.unitMap x false) c false m k).length := by rwa [Dev.length_moveRow]
    show _ = (s.dev.moveRow (s.dev.unitMap x false) c false m k)[i]?
    rw [List.getD_eq_getElem?_getD, List.getElem?_eq_getElem hlen, Option.getD_some]

/-- The bytes that a MOVE.DMA reads from device memory or the own Granary are as they were. -/
theorem State.Runs.moveSource (m : MoveDesc) (k i : Nat) (hi : i < m.rowBytes) :
    let source := (s.dev.getAt (s.dev.unitMap x false) c m.src (m.src.offset + k * m.srcStride) m.rowBytes)[i]?
    (∀ a, m.src = .device a → source = some (readByte s.dev.mem (a + k * m.srcStride + i)))
      ∧ (∀ o, m.src = .own o → source = some (readByte x.granary (o + k * m.srcStride + i))) := by
  refine ⟨fun a ha => ?_, fun o ho => ?_⟩
  · simp only [ha, Dev.getAt_device, getElem?_readBytes _ hi, MemRef.offset]
  · simp only [ho, Dev.getAt_own h.croft, getElem?_readBytes _ hi, MemRef.offset]

/-- A DRAIN.RED leaves what its rows make, its flags and the generators it consumed. -/
theorem State.Runs.drainRed {tile : Tile} {l : LaneSet} (hop : InstrWord.operation r.ins.word = some .red)
    (ht : findTile (x.banks.getD (InstrWord.unit r.ins.word) []) (InstrWord.rows r.ins.word) (InstrWord.drainTile r.ins.word)
      = some tile) (hl : x.lanes[InstrWord.unit r.ins.word]? = some l) (hroom : x.handRoom r = true) :
    let w := r.ins.word
    let n := InstrWord.rows w
    let unit := InstrWord.unit w
    let d := drainDesc r.desc
    let acc := (List.range n).foldl (drainRow d tile l.family) ⟨x.granary, x.poison, x.ctxs, ⟨false, false⟩, l.gens, []⟩
    let flags := tile.reported acc.flags
    Answers (.instructionCompletion c u) s (s.dev.Completed c x job u w fun y => y.granary = acc.granary
        ∧ (∀ a, (∀ p ∈ d.writes n (entryWidth tile.isInt tile.comp), a < p.1 ∨ p.1 + p.2 ≤ a) →
          readByte y.granary a = readByte x.granary a)
        ∧ (d.consumes = false → y.ctxs = acc.ctxs ∧ y.lanes = x.lanes)
        ∧ (d.consumes = true → y.ctxs = copyPosition acc.ctxs y.lanes unit ∧ (y.lanes[unit]?).map (·.gens) = some acc.gens
          ∧ (job.params.laneFree = false → y.lanes = x.lanes.set unit { l with gens := acc.gens, count := l.count + n }))
        ∧ y.report = x.report ||| flags.cflags
        ∧ findTile (y.banks.getD unit []) n (InstrWord.drainTile w)
          = (if InstrWord.release w then none else some { tile with flags := flags })
        ∧ y.tally = (if InstrWord.release w then x.tally.release flags else x.tally)
        ∧ y.hand = (if d.toSampler then x.hand.set unit { x.handOf unit with
            buffer := (x.handOf unit).buffer ++ [⟨r.ins.seq, d.idxBase, acc.handed⟩] } else x.hand)) := by
  intro w n unit d acc flags
  have hoff : Cells.SameOff (inRanges (d.writes n (entryWidth tile.isInt tile.comp))) x.granary acc.granary :=
    Cells.SameOff.foldl (g := DrainAcc.granary) (f := drainRow d tile l.family)
      (s := ⟨x.granary, x.poison, x.ctxs, ⟨false, false⟩, l.gens, []⟩) fun a i hi =>
        drainRow_sameOff d tile l.family a (List.mem_range.mp hi)
  have hu : unit < x.banks.length := by rw [h.shaped.banks]; exact InstrWord.unit_lt _
  refine h.completes ((Dev.finishUnit_red hop).trans (if_pos hroom))
    (.freeCycles (.setCroft h.croft (Croft.sameProgram_finishRed x _ r)) (.inl ((cls_of_operation hop).1 rfl))) fun _ _ => ?_
  simp only [Croft.finishRed, ht, hl]
  refine ⟨rfl, hoff.outside h.wf, fun hc => ?_, fun hc => ?_, rfl, ?_, rfl, rfl⟩
  · have hc : ¬ (drainDesc r.desc).consumes = true := by rw [show (drainDesc r.desc).consumes = false from hc]; decide
    exact ⟨if_neg hc, if_neg hc⟩
  · simp only [show (drainDesc r.desc).consumes = true from hc, if_true]
    refine ⟨rfl, ?_, fun hf => ?_⟩
    · rw [Croft.getElem?_consume hl]
      rfl
    · rw [hf, Croft.consume_seeded, consumed_seeded]
  · rw [getD_set_same hu]
    split
    · exact findTile_closeTile _ _ _
    · obtain ⟨htm, htn⟩ := findTile_shape ht
      exact findTile_putTile _ ⟨htm, htn⟩

/-- A DRAIN.EMIT writes the record of each context. -/
theorem State.Runs.drainEmit (hop : InstrWord.operation r.ins.word = some .emit) :
    let d := drainDesc r.desc
    let n := InstrWord.rows r.ins.word
    32 ≤ d.dstStride → d.ctx0 + n ≤ 64 →
    Answers (.instructionCompletion c u) s (s.dev.Completed c x job u r.ins.word fun y => y.ctxs = x.ctxs ∧ y.banks = x.banks
      ∧ (∀ a, (∀ p ∈ d.emitWrites n, a < p.1 ∨ p.1 + p.2 ≤ a) → readByte y.granary a = readByte x.granary a)
      ∧ ∀ k < n, ∀ v, x.ctxs[d.ctx0 + k]? = some v → readBytes y.granary (d.dst + k * d.dstStride) 32 = v.emitRecord) := by
  intro d n hstride _
  obtain ⟨poison, hy⟩ := Croft.finishEmit_eq x r
  refine h.completes (Dev.finishUnit_emit hop) (.setCroft h.croft ?_) fun _ _ => ?_
  · rw [hy]; exact ⟨rfl, rfl, rfl, rfl⟩
  rw [hy]
  have hoff := writeRows_sameOff (at_ := fun k => d.dst + k * d.dstStride) (row := x.emitBytes d) (m := x.granary) n
  refine ⟨rfl, rfl, (hoff.mono ?_).outside h.wf, fun k hk v hv => ?_⟩
  · rintro a ⟨p, hp, ha⟩
    obtain ⟨k, hk, rfl⟩ := List.mem_map.mp hp
    have hle := x.length_emitBytes_le d k
    refine ⟨_, List.mem_map_of_mem hk, ?_⟩
    simp only [inRange_iff] at ha ⊢
    omega
  · have hb := Croft.emitBytes_of_ctx hv
    rw [← hb, ← show (x.emitBytes d k).length = 32 by rw [hb, Ctx.length_emitRecord]]
    refine readBytes_eq_of fun i hi => readByte_writeRows_last (at_ := fun k => d.dst + k * d.dstStride) h.wf hk hi ?_
    intro j hkj _ hin
    have hi32 := Nat.lt_of_lt_of_le hi (x.length_emitBytes_le d k)
    have hmul : (k + 1) * d.dstStride ≤ j * d.dstStride := Nat.mul_le_mul_right _ hkj
    rw [Nat.add_mul, Nat.one_mul] at hmul
    simp only [inRange_iff] at hin
    omega

/-- A sampler instruction leaves what its rows make, its outputs counted and its hand-over rows taken. -/
theorem State.Runs.sampler {op : Op} {src : Nat × Option (List (List Word32))} {l : LaneSet} (hm : op ∈ samplerOps)
    (hop : InstrWord.operation r.ins.word = some op) (hsrc : x.sampRows r (sampDesc r.desc) = some src)
    (hl : x.lanes[InstrWord.unit r.ins.word]? = some l)
    (hfmt : sampFormatBad op (InstrWord.src r.ins.word) (sampDesc r.desc) = false) :
    let w := r.ins.word
    let n := InstrWord.rows w
    let unit := InstrWord.unit w
    let d := sampDesc r.desc
    let acc := (List.range n).foldl (sampRow op d l.family src.1 src.2) ⟨x.granary, x.poison, x.ctxs, l.gens, false, false⟩
    let outs := sampOutputs op d n
    let ctxs := if d.phaseAdv then (acc.ctxs.zipIdx).map fun p =>
      if d.ctx0 ≤ p.2 ∧ p.2 < d.ctx0 + n then phaseAdvance p.1 else p.1 else acc.ctxs
    Answers (.instructionCompletion c u) s (s.dev.Completed c x job u w fun y => y.granary = acc.granary
      ∧ (∀ a, (∀ p ∈ sampWrites op d n, a < p.1 ∨ p.1 + p.2 ≤ a) → readByte y.granary a = readByte x.granary a)
      ∧ y.banks = x.banks ∧ y.ctxs = (if outs = 0 then ctxs else copyPosition ctxs y.lanes unit)
      ∧ (outs = 0 → y.lanes = x.lanes)
      ∧ (job.params.laneFree = false → y.lanes = x.lanes.set unit { l with gens := acc.gens, count := l.count + outs })
      ∧ y.report = x.report ||| sampCflags acc.invalid acc.empty ∧ y.tally = x.tally.sampler acc.invalid acc.empty
      ∧ (y.handOf unit).buffer = (x.handOf unit).buffer.filter fun b => some b.seq != r.ins.matched) := by
  intro w n unit d acc outs ctxs
  have hcombo : sampCombo op (InstrWord.src w) d = true := by
    simp only [sampFormatBad, Bool.or_eq_false_iff, Bool.not_eq_false'] at hfmt
    exact hfmt.1.1.1.1
  have hoff : Cells.SameOff (inRanges (sampWrites op d n)) x.granary acc.granary :=
    Cells.SameOff.foldl (g := SampAcc.granary) (f := sampRow op d l.family src.1 src.2)
      (s := ⟨x.granary, x.poison, x.ctxs, l.gens, false, false⟩) fun a i hi =>
        (sampRow_sameOff hm (sampDesc_colMask_lt _) hcombo (Croft.sampRows_isNone hsrc) _ _ a i).mono fun k hk =>
          sampSpan_writes hi hk
  have hu : unit < x.hand.length := by rw [h.shaped.hand]; exact InstrWord.unit_lt _
  obtain ⟨y, hy⟩ : ∃ y, x.finishSamp job.params.laneFree r op = some y := by
    simp only [Croft.finishSamp, hsrc, hl]
    exact ⟨_, rfl⟩
  refine h.completes (by rw [Dev.finishUnit_sampler hm hop, hy, Option.map_some])
    (.freeCycles (.setCroft h.croft (Croft.sameProgram_finishSamp hy)) (.inr ((cls_of_operation hop).2 hm))) fun _ _ => ?_
  simp only [Croft.finishSamp, hsrc, hl, Option.some.injEq] at hy
  subst hy
  refine ⟨rfl, hoff.outside h.wf, rfl, ?_, fun h0 => if_pos h0, fun hf => ?_, rfl, rfl, ?_⟩
  · simp only [Bool.and_eq_true, decide_eq_true_eq]
    rfl
  · simp only [hf, Croft.consume_seeded, consumed_seeded]
    split
    next h0 =>
      obtain rfl := sampOutputs_eq_zero hm h0
      rw [foldl_take_gens]
      obtain ⟨hlt, rfl⟩ := List.getElem?_eq_some_iff.mp hl
      exact (List.set_getElem_self hlt).symm
    next => rfl
  · rw [Croft.handOf, getD_set_same hu]

/-- A FIELD.LOAD has nothing left to do. -/
theorem State.Runs.fieldLoad (hop : InstrWord.operation r.ins.word = some .load) :
    Answers (.instructionCompletion c u) s (s.dev.Completed c x job u r.ins.word fun y =>
      y.granary = x.granary ∧ y.ctxs = x.ctxs ∧ y.field = x.field) := by
  have hf := congrArg (Option.map s.dev.setCroft) (Croft.finishField_load (x := x) (s := job.params.staleness) hop)
  exact h.completes ((Dev.finishUnit_field (by simp [fieldOps]) hop).trans hf) (.setCroft h.croft ⟨rfl, rfl, rfl, rfl⟩)
    fun _ _ => ⟨rfl, rfl, rfl⟩

/-- A FIELD.SWEEP that has made its sweeps gives its contexts the set's position. -/
theorem State.Runs.fieldSweep (hop : InstrWord.operation r.ins.word = some .sweep) (hphase : x.field.phase = 0)
    (htarget : x.field.target ≤ x.runSweeps) (hpend : x.field.pending = []) :
    Answers (.instructionCompletion c u) s (s.dev.Completed c x job u r.ins.word fun y =>
      y.granary = x.granary ∧ y.field = x.field ∧ y.ctxs = copyPosition x.ctxs x.lanes 4) := by
  have hf := congrArg (Option.map s.dev.setCroft)
    (Croft.finishField_sweep (s := job.params.staleness) hop hphase htarget hpend)
  exact h.completes ((Dev.finishUnit_field (by simp [fieldOps]) hop).trans hf) (.setCroft h.croft ⟨rfl, rfl, rfl, rfl⟩)
    fun _ _ => ⟨rfl, rfl, rfl⟩

/-- An effect that writes `data`, padded with zeros to `z` bytes. -/
theorem State.Runs.padded {a z : Nat} {data : List Byte} (hz : data.length ≤ z)
    (hf : s.dev.finishUnit c x job r = some (s.dev.setCroft (x.write a (data ++ List.replicate (z - data.length) 0)))) :
    Answers (.instructionCompletion c u) s (s.dev.Completed c x job u r.ins.word fun y => y.ctxs = x.ctxs ∧ y.field = x.field
      ∧ x.granarySame y a z ∧ ∀ k < z, readByte y.granary (a + k) = data.getD k 0) := by
  have hlen : (data ++ List.replicate (z - data.length) 0).length = z := by
    rw [List.length_append, List.length_replicate, Nat.add_sub_of_le hz]
  refine h.completes hf (.setCroft h.croft ⟨rfl, rfl, rfl, rfl⟩) fun _ _ => ⟨rfl, rfl, fun k hk => ?_, fun k hk => ?_⟩
  · exact readByte_writeBytes_outside _ _ _ _ h.wf (by rw [hlen]; exact hk)
  · exact (readByte_writeBytes_at _ _ _ h.wf (by rw [hlen]; exact hk)).trans (getD_append_zeros data _ k)

/-- A FIELD.SNAP writes the states and their history, padded with zeros. -/
theorem State.Runs.fieldSnap {hist : List Byte} (hop : InstrWord.operation r.ins.word = some .snap) (hsync : x.field.synced = true)
    (hhist : x.field.snapHistory job.params.staleness x.runSweeps = some hist) :
    let a := leAt r.desc 8 4
    let z := snapBytes x.field.image job.params.staleness
    let data := stateImage x.field.states ++ hist
    data.length ≤ z →
    Answers (.instructionCompletion c u) s (s.dev.Completed c x job u r.ins.word fun y => y.ctxs = x.ctxs ∧ y.field = x.field
      ∧ x.granarySame y a z ∧ ∀ k < z, readByte y.granary (a + k) = data.getD k 0) :=
  fun hz => h.padded hz ((Dev.finishUnit_field (by simp [fieldOps]) hop).trans
    (congrArg (Option.map s.dev.setCroft) (Croft.finishField_snap hop hsync hhist)))

/-- An effect that writes a record of 64 bytes and, with `best`, an image of 4096 behind it. -/
theorem State.Runs.recorded {a : Nat} {best : Bool} {bytes image : List Byte} (hlen : bytes.length = 64)
    (himg : image.length = 4096) (hf : s.dev.finishUnit c x job r = some (s.dev.setCroft
      (if best then (x.write a bytes).write (a + 64) image else x.write a bytes))) :
    Answers (.instructionCompletion c u) s (s.dev.Completed c x job u r.ins.word fun y => y.ctxs = x.ctxs ∧ y.field = x.field
      ∧ x.granarySame y a (if best then 4160 else 64) ∧ readBytes y.granary a 64 = bytes
      ∧ (best = true → readBytes y.granary (a + 64) 4096 = image)) := by
  cases best with
  | false =>
    have hout := readByte_writeBytes_outside x.granary a bytes (h := h.wf)
    have hat := readBytes_writeBytes x.granary a bytes h.wf
    rw [hlen] at hout hat
    exact h.completes hf (.setCroft h.croft ⟨rfl, rfl, rfl, rfl⟩) fun _ _ => ⟨rfl, rfl, hout, hat, nofun⟩
  | true =>
    obtain ⟨hout, hat, hbehind⟩ := readBytes_writeBytes_behind h.wf a bytes image
    rw [hlen, himg] at hout hbehind
    rw [hlen] at hat
    exact h.completes hf (.setCroft h.croft ⟨rfl, rfl, rfl, rfl⟩) fun _ _ => ⟨rfl, rfl, hout, hat, fun _ => hbehind⟩

/-- A FIELD.READ writes its record and, with BEST, the best states. -/
theorem State.Runs.fieldRead (hop : InstrWord.operation r.ins.word = some .read) (hsync : x.field.synced = true)
    (hedge : x.field.edgePresent x.runSweeps = true) :
    let a := leAt r.desc 8 4
    let best := bitOf (leAt r.desc 0 4) 0
    Answers (.instructionCompletion c u) s (s.dev.Completed c x job u r.ins.word fun y => y.ctxs = x.ctxs ∧ y.field = x.field
      ∧ x.granarySame y a (if best then 4160 else 64) ∧ readBytes y.granary a 64 = x.readRecord
      ∧ (best = true → readBytes y.granary (a + 64) 4096 = stateImage x.field.best)) :=
  h.recorded x.length_readRecord (length_stateImage x.field.best)
    ((Dev.finishUnit_field (by simp [fieldOps]) hop).trans
      (congrArg (Option.map s.dev.setCroft) (Croft.finishField_read hop hsync hedge)))

/-- A MESH.MCAST whose data have landed writes the mask that was delivered, and reports a delivery that is not whole. -/
theorem State.Runs.meshMcast (hop : InstrWord.operation r.ins.word = some .mcast) (hl : r.landed = true) :
    let m := meshDesc r.desc
    let got := s.dev.deliverable c.job ((m.targets c.n).filter fun t => bitOf (leAt r.desc 64 32) t.val)
    Answers (.instructionCompletion c u) s (s.dev.Completed c x job u r.ins.word fun y => y.ctxs = x.ctxs ∧ y.banks = x.banks
      ∧ x.granarySame y m.result 32 ∧ readBytes y.granary m.result 32 = leBytes 32 (maskOf got)
      ∧ y.report = (if maskOf got = maskOf (m.targets c.n) then x.report else x.report ||| 0x20)) := by
  intro m got
  have hf : s.dev.finishUnit c x job r = some (s.dev.onCroft c (Croft.takeMask m.result (leBytes 32 (maskOf got))
      (maskOf got = maskOf (m.targets c.n)))) :=
    (Dev.finishUnit_mcast hop hl).trans (congrArg some (Dev.mcastResult_eq s.dev c r.desc))
  have hlen : (leBytes 32 (maskOf got)).length = 32 := length_leBytes 32 _
  generalize leBytes 32 (maskOf got) = mask at hf hlen ⊢
  have hout := readByte_writeBytes_outside x.granary m.result mask (h := h.wf)
  have hat := readBytes_writeBytes x.granary m.result mask h.wf
  rw [hlen] at hout hat
  refine h.completes hf (.onCroft h.croft (fun x => ?_) ?_) fun _ _ => ?_
  · rw [Croft.takeMask_eq]; exact ⟨rfl, rfl⟩
  · rw [Croft.takeMask_eq]; exact ⟨rfl, rfl, rfl, rfl⟩
  · rw [Croft.takeMask_eq]
    exact ⟨rfl, rfl, hout, hat, rfl⟩

end

/-- Settles O17: the unit's own effect, instruction by instruction, and around it the unit freed and the signal added
(`State.Runs.completes`). -/
theorem instructionCompletion : Obligations.InstructionCompletion := by
  unfold Obligations.InstructionCompletion
  intro s c x job u r hx hj hr hshape hheld hreeve hwf hsig w n unit free done outside
  have h : s.Runs c x job u r := ⟨⟨hx, hshape, hwf⟩, hj, hr, hheld, hreeve, hsig⟩
  refine ⟨fun hop hl => h.transferLanded hop hl fun _ _ => ⟨rfl, rfl, rfl⟩, fun tile hop ht => h.millMm hop ht,
    fun hop hl ho => h.moveZero hop hl ho, fun hop hl ho => ⟨fun k i hi => h.moveSource _ k i hi, h.moveDma hop hl ho⟩,
    fun tile l hop ht hl hroom => h.drainRed hop ht hl hroom, fun hop hroom => h.waits ?_, fun hop => h.drainEmit hop,
    fun op src l hm hop hsrc hl hfmt => h.sampler hm hop hsrc hl hfmt, fun hop => h.fieldLoad hop,
    fun hop hp ht hn => h.fieldSweep hop hp ht hn, fun hist hop hs hh => h.fieldSnap hop hs hh,
    fun hop hs he => h.fieldRead hop hs he, fun hop hl => h.meshMcast hop hl⟩
  exact (Dev.finishUnit_red hop).trans (if_neg (by rw [hroom]; exact Bool.false_ne_true))

end Sys2Proof.Machine
end

section
/-!
SUPPORT. Facts about the device that several of the statements on slots and rails share: what holds of a device holds of every
device that differs from it only in what every command may touch, and where a croft is found after its slot or its log changed.
-/

namespace Sys2Proof.Machine

/-- The parts of the log and of the hub that `Dev.bare` keeps, beside those of `Dev.bare_congr`. -/
theorem Dev.bare_congr_rest {d e : Dev} (h : d.bare = e.bare) : d.mapGen = e.mapGen ∧ d.logs.count = e.logs.count
    ∧ d.hub.commits = e.hub.commits ∧ d.live = e.live ∧ d.bars = e.bars ∧ d.hub.sessions = e.hub.sessions :=
  ⟨congrArg (·.mapGen) h, congrArg (·.logs.count) h, congrArg (·.hub.commits) h, congrArg (·.live) h, congrArg (·.bars) h,
    congrArg (·.hub.sessions) h⟩

/-- A command answers what holds of every device that agrees with its effect apart from what every command may touch. -/
theorem answers_of_effect {i : Instr} {s : State} {f : Dev → Dev} {P : Dev → Prop} (hi : exec i s = effect f s)
    (h : ∀ t : Dev, t.bare = (f s.dev).bare → P t) : Answers i s P := by
  unfold Answers
  rw [hi]
  exact Dev.bare_of_effect f s P fun t ht _ => h t ht

/-- A job found is a matter of the list of jobs. -/
theorem Dev.job_congr {d e : Dev} (h : d.jobs = e.jobs) (j : Fin 64) : d.job j = e.job j := by simp only [Dev.job, h]

/-- A slot found is a matter of the list of slots. -/
theorem Dev.slot_congr {d e : Dev} (h : d.slots = e.slots) (n : Fin 80) : d.slot n = e.slot n := by simp only [Dev.slot, h]

/-- The state of a slot that is there. -/
theorem Dev.slotIs_of_slot {d : Dev} {n : Fin 80} {u : Slot} (h : d.slot n = some u) (st : SpareState) :
    d.slotIs n.val st = (u.spare == st) := by
  have h' : d.slots[n.val]? = some u := h
  simp only [Dev.slotIs, h', Option.map_some, Option.getD_some]

/-- A slot on which some croft stands carries one. -/
theorem Dev.carried_isSome {d : Dev} {c : CroftRef} {x : Croft} {n : Fin 80} (hx : d.croft c = some x)
    (hs : x.slot = some n) : (d.carried n).isSome = true :=
  List.find?_isSome.mpr ⟨x, Dev.croft_mem hx, by simp [hs]⟩

/-- Events of several slots, one after the other, change the log and the draw counter alone. -/
theorem Dev.foldl_eventOpen_keeps (event kind : Nat) (l : List (Fin 80)) (d : Dev) :
    ∃ logs k, l.foldl (fun d t => d.eventOpen event kind t.val) d = { d with logs := logs, freeCount := k } := by
  induction l generalizing d with
  | nil => exact ⟨d.logs, d.freeCount, rfl⟩
  | cons t l ih =>
    obtain ⟨logs, k, h⟩ := ih (d.eventOpen event kind t.val)
    exact ⟨logs, k, h⟩

/-- The commands refused as one changes the log alone. -/
theorem Dev.foldl_commandFault_keeps (code n : Nat) (d : Dev) :
    ∃ logs, (List.range n).foldl (fun d _ => d.commandFault code) d = { d with logs := logs } := by
  induction n with
  | zero => exact ⟨d.logs, rfl⟩
  | succ n ih =>
    obtain ⟨logs, h⟩ := ih
    rw [List.range_succ, List.foldl_concat, h]
    exact ⟨_, rfl⟩

/-- An entry of a fault in the log changes the log alone. -/
theorem Dev.faultEvent_keeps (d : Dev) (code : Nat) (slot : Option (Fin 80)) (detail : Word64) :
    ∃ logs, d.faultEvent code slot detail = { d with logs := logs } := by
  cases slot <;> exact ⟨_, rfl⟩

/-- The first fault of a job is its fault from then on; its parameters stay, and memory stays. -/
theorem Dev.haltJob_first {d : Dev} {j : Fin 64} {job : Job} (hj : d.job j = some job) (hf : job.fault = none) (fr : FaultRec)
    (slot : Option (Fin 80)) (carrier : Option Nat) (other : Nat) :
    (d.haltJob j fr slot carrier other).mem = d.mem
      ∧ (d.haltJob j fr slot carrier other).job j = some { job with fault := some fr, colls := [] } := by
  simp only [Dev.haltJob, hj, hf, Option.isSome_none, Bool.false_eq_true, if_false]
  generalize (d.cmds.filter _).length = ends
  generalize d.crofts.map _ = crofts
  generalize d.cmds.map _ = cmds
  generalize d.signals.filter _ = signals
  generalize d.bars.filter _ = bars
  let halted := { d with crofts := crofts, cmds := cmds, signals := signals, bars := bars }
  have hjob (e : Dev) (he : e.jobs = (halted.onJob j fun q => { q with fault := some fr, colls := [] }).jobs) :
      e.job j = some { job with fault := some fr, colls := [] } := by
    have hd : halted.job j = some job := hj
    rw [Dev.job_congr he, Dev.job_onJob, if_pos rfl, hd, Option.map_some]
  have hend (e : Dev) : ∃ logs, (List.range ends).foldl (fun d _ => d.commandFault other) (e.faultEvent fr.code slot fr.detail)
      = { e with logs := logs } := by
    obtain ⟨l, hl⟩ := Dev.faultEvent_keeps e fr.code slot fr.detail
    rw [hl]
    exact Dev.foldl_commandFault_keeps other ends { e with logs := l }
  obtain ⟨logs, hlogs⟩ := hend (if 1 < job.params.devices then
    (halted.onJob j fun q => { q with fault := some fr, colls := [] }).send
      (.halt j fr ((job.colls.find? fun k => carrier == some k.cmd).map (·.collId)))
    else halted.onJob j fun q => { q with fault := some fr, colls := [] })
  simp only [halted] at hlogs
  rw [hlogs]
  split
  · exact ⟨rfl, hjob _ rfl⟩
  · exact ⟨rfl, hjob _ rfl⟩

/-- A fault of a running croft in a job that has none yet halts the job with it. -/
theorem Dev.croftFault_first {d : Dev} {c : CroftRef} {x : Croft} {job : Job} (hx : d.croft c = some x)
    (hj : d.job c.job = some job) (hf : job.fault = none) (hr : x.seq.state = .running) (code index : Nat) :
    (d.croftFault c code index).mem = d.mem
      ∧ (d.croftFault c code index).job c.job = some { job with
          fault := some ⟨code, x.seq.step, faultDetail c.n.val job.params.ldev index⟩, colls := [] } := by
  simp only [Dev.croftFault, Dev.croftFaultIn, hx, hj, Croft.stepOf, hr]
  exact Dev.haltJob_first hj hf _ _ _ _

end Sys2Proof.Machine
end

section
/-!
SUPPORT. What a check error does (13_checking_replay_test.md R374 to R376): the croft put back to its boundary, and the slot
that counts it.
-/

namespace Sys2Proof.Machine

/-! ## A croft put back to its boundary (R111, R214, R215, R374) -/

/-- A croft after a check error in its step. -/
def Croft.putBack (free : Bool) (x : Croft) : Croft :=
  { x.replay free with failures := x.failures + 1, replays := satAdd 64 x.replays 1, report := x.report ||| 0x80 }

theorem Croft.keepsRef_putBack (free : Bool) : Croft.KeepsRef (Croft.putBack free) := fun _ => ⟨rfl, rfl⟩

section
variable {x : Croft}

/-- The state of a croft can be moved when no word of its step record is uncorrectable. -/
theorem Croft.recordLost_of_readable (h : ∀ o, .journal o ∉ x.lost) : x.recordLost = false := by
  simp only [Croft.recordLost, List.any_eq_false]
  intro w hw
  cases w with
  | journal o => exact absurd hw (h o)
  | _ => exact Bool.false_ne_true

/-- A running croft goes back to the position of its step record. -/
theorem Croft.replay_pc (free : Bool) (hr : x.seq.state = .running) : (x.replay free).seq.pc = x.record.pc := by
  simp only [Croft.replay, hr, Bool.false_eq_true, if_false]

/-- The lane sets of the sampler rows go back, in a seeded job; that of the Field stays. -/
theorem Croft.replay_lanes (hx : x.Shaped) {k : Nat} (hk : k < 4) : (x.replay false).lanes[k]? = x.record.lanes[k]? := by
  have h4 : 4 < x.lanes.length := by rw [hx.lanes]; decide
  simp only [Croft.replay, Bool.false_eq_true, if_false, List.getElem?_eq_getElem h4]
  exact List.getElem?_set_ne (Nat.ne_of_gt hk)

/-- The contexts go back, that of a Field run apart. -/
theorem Croft.replay_ctxs (free : Bool) (hx : x.Shaped) {k : Nat} (hk : k < 64) : (x.replay free).ctxs[k]?
    = if x.field.loaded = true ∧ k = x.field.ctx then x.ctxs[k]? else x.record.ctxs[k]? := by
  by_cases hl : x.field.loaded = true
  · simp only [Croft.replay, hl, if_true, true_and]
    by_cases hc : x.field.ctx < x.ctxs.length
    · simp only [List.getElem?_eq_getElem hc, List.getElem?_set, hx.recCtxs]
      rw [hx.ctxs] at hc
      by_cases he : x.field.ctx = k
      · subst he; simp [hc, hx.ctxs]
      · rw [if_neg he, if_neg (Ne.symm he)]
    · rw [List.getElem?_eq_none (Nat.le_of_not_lt hc)]
      rw [hx.ctxs] at hc
      rw [if_neg (by omega)]
  · simp only [Bool.not_eq_true] at hl
    simp only [Croft.replay, hl, Bool.false_eq_true, if_false, false_and]

/-- A semaphore loses what its own step added, as far as that lies within its range (log 103). -/
theorem Croft.replay_sem (free : Bool) (hx : x.Shaped) {k : Nat} (hk : k < 32) (h0 : 0 ≤ (x.sem k : Int) - x.seq.semOwn.getD k 0)
    (h1 : (x.sem k : Int) - x.seq.semOwn.getD k 0 ≤ 65535) :
    ((x.replay free).sem k : Int) = x.sem k - x.seq.semOwn.getD k 0 := by
  have hk' : k < x.seq.sems.length := by rw [hx.sems]; exact hk
  have hsem : x.sem k = (x.seq.sems[k]).toNat := by
    simp only [Croft.sem, List.getD_eq_getElem?_getD, List.getElem?_eq_getElem hk', Option.getD_some]
  have hrep : (x.replay free).sem k = (BitVec.ofNat 16 ((x.sem k : Int) - x.seq.semOwn.getD k 0).toNat).toNat := by
    rw [hsem]
    simp [Croft.sem, Croft.replay, hk']
  rw [hrep, BitVec.toNat_ofNat]
  generalize (x.sem k : Int) - x.seq.semOwn.getD k 0 = v at h0 h1
  omega

/-- Every queue but the Field's is empty. -/
theorem Croft.replay_queues (free : Bool) (hx : x.Shaped) {k : Nat} (hk : k < 9) (h6 : k ≠ 6) :
    (x.replay free).units.queues[k]? = some [] := by
  have hk' : k < x.units.queues.length := by rw [hx.queues]; exact hk
  simp [Croft.replay, hk', h6]

end

/-- REPLAYED is reported. -/
theorem replayed_reported (r : BitVec 8) : (r ||| 0x80).getLsbD 7 = true := by
  rw [BitVec.getLsbD_or, show (0x80 : BitVec 8).getLsbD 7 = true from by decide, Bool.or_true]

/-! ## The device after it -/

/-- What the statement says of croft `c` and slot `n` after a check error: the croft stands at its boundary, and `P` holds of the
two. -/
def Dev.PutBack (d : Dev) (c : CroftRef) (x : Croft) (job : Job) (n : Fin 80) (P : Croft → Slot → Prop) (t : Dev) : Prop :=
  ∃ y u, t.croft c = some y ∧ t.slot n = some u
      ∧ y.seq.pc = x.record.pc ∧ y.seq.areg = x.record.areg ∧ y.seq.cnt = x.record.cnt
      ∧ y.seq.step = x.seq.step ∧ y.seq.inStep = 0 ∧ y.seq.held = false ∧ y.seq.signals = [] ∧ y.banks = x.record.banks
      ∧ y.hand = x.record.hand ∧ y.tally = x.record.tally ∧ (job.params.laneFree = false → ∀ k < 4, y.lanes[k]? = x.record.lanes[k]?)
      ∧ (∀ k < 64, y.ctxs[k]? = if x.field.loaded = true ∧ k = x.field.ctx then x.ctxs[k]? else x.record.ctxs[k]?)
      ∧ (∀ k < 32, 0 ≤ (x.sem k : Int) - x.seq.semOwn.getD k 0 → (x.sem k : Int) - x.seq.semOwn.getD k 0 ≤ 65535 →
        (y.sem k : Int) = x.sem k - x.seq.semOwn.getD k 0)
      ∧ (∀ k < 9, k ≠ 6 → y.units.queues[k]? = some []) ∧ y.failures = x.failures + 1 ∧ y.report.getLsbD 7 = true
      ∧ y.granary = x.granary ∧ y.field = x.field ∧ t.mem = d.mem ∧ P y u

/-- A device with the croft put back, and any slots `l` fenced by its failures, meets what the statement says of it. -/
theorem Dev.PutBack.of_croft {d t : Dev} {c : CroftRef} {x : Croft} {job : Job} {n : Fin 80} {P : Croft → Slot → Prop} {u : Slot}
    {l : List (Fin 80)} (hx : x.Shaped) (hr : x.seq.state = .running)
    (hc : t.croft c = some { x.putBack job.params.laneFree with fencedBy := l }) (hu : t.slot n = some u) (hm : t.mem = d.mem)
    (hP : P { x.putBack job.params.laneFree with fencedBy := l } u) : d.PutBack c x job n P t := by
  refine ⟨_, u, hc, hu, Croft.replay_pc job.params.laneFree hr, rfl, rfl, rfl, rfl, rfl, rfl, rfl, rfl, rfl, fun hf k hk => ?_,
    fun k hk => Croft.replay_ctxs job.params.laneFree hx hk, fun k hk => Croft.replay_sem job.params.laneFree hx hk,
    fun k hk h6 => Croft.replay_queues job.params.laneFree hx hk h6, rfl, replayed_reported _, rfl, rfl, hm, hP⟩
  rw [hf]
  exact Croft.replay_lanes hx hk

/-- The counters of a slot after a check error of a kind that leaves no poison. -/
def SlotErrors.checked (k : CheckKind) (e : SlotErrors) : SlotErrors :=
  match k with
  | .residue => { e with residue := satAdd 64 e.residue 1, replays := satAdd 64 e.replays 1 }
  | .duplicate => { e with duplicate := satAdd 64 e.duplicate 1, replays := satAdd 64 e.replays 1 }
  | _ => { e with replays := satAdd 64 e.replays 1 }

/-- The device with its croft put back and the error counted on the slot, before the failures of the step are judged. -/
def Dev.stepBack (d : Dev) (c : CroftRef) (n : Fin 80) (k : CheckKind) (free : Bool) : Dev :=
  let d := d.noteCheck c n k
  ((d.onCroft c (Croft.putBack free)).onSlot n (Slot.noteReplay d.elapsedNs d.settings.replayRate)).corrected 0xE001 1 n.val 1

section
variable {d : Dev} {c : CroftRef} {x : Croft} {job : Job} {n : Fin 80} {slot : Slot} {k : CheckKind}

/-- Counting a check error that leaves no poison changes its slot alone. -/
theorem Dev.noteCheck_eq (hk : ∀ v, k ≠ .uncorrectable v true) : ∃ f : Slot → Slot, d.noteCheck c n k = d.onSlot n f
    ∧ ∀ u, (f u).spare = u.spare ∧ { (f u).errors with replays := satAdd 64 (f u).errors.replays 1 } = u.errors.checked k := by
  have hid : d = d.onSlot n id := by
    have : modifyAt d.slots n.val id = d.slots := List.ext_getElem? fun i => by rw [modifyAt_getElem?]; simp
    simp only [Dev.onSlot, this]
  cases k with
  | residue => exact ⟨_, rfl, fun _ => ⟨rfl, rfl⟩⟩
  | duplicate => exact ⟨_, rfl, fun _ => ⟨rfl, rfl⟩⟩
  | parity => exact ⟨id, hid, fun _ => ⟨rfl, rfl⟩⟩
  | uncorrectable w again => cases again with
    | false => exact ⟨id, hid, fun _ => ⟨rfl, rfl⟩⟩
    | true => exact absurd rfl (hk w)

/-- What the device holds with its croft put back. -/
theorem Dev.stepBack_spec (hx : d.croft c = some x) (hn : d.slot n = some slot) (hk : ∀ v, k ≠ .uncorrectable v true) (free : Bool) :
    (d.stepBack c n k free).croft c = some (x.putBack free)
      ∧ (∃ u, (d.stepBack c n k free).slot n = some u ∧ u.spare = slot.spare ∧ u.errors = slot.errors.checked k)
      ∧ (d.stepBack c n k free).mem = d.mem ∧ (d.stepBack c n k free).jobs = d.jobs := by
  obtain ⟨f, hd, hf⟩ := Dev.noteCheck_eq (d := d) (c := c) (n := n) hk
  unfold Dev.stepBack
  rw [hd]
  refine ⟨?_, ⟨Slot.noteReplay d.elapsedNs d.settings.replayRate (f slot), ?_, (hf slot).1, (hf slot).2⟩, rfl, rfl⟩
  · exact (Dev.croft_onCroft (Croft.keepsRef_putBack free) (d.onSlot n f) c).trans (congrArg (Option.map (Croft.putBack free)) hx)
  · refine (Dev.slot_onSlot _ n n _).trans ?_
    rw [if_pos rfl]
    show Option.map _ ((d.onSlot n f).slot n) = _
    rw [Dev.slot_onSlot, if_pos rfl, hn]
    rfl

/-- A check error of a running croft whose step record can be read. -/
theorem Dev.checkErrorReplay_eq (hx : d.croft c = some x) (hj : d.job c.job = some job) (hs : x.slot = some n)
    (hr : x.seq.state = .running) (hf : job.fault = none) (hl : ∀ o, .journal o ∉ x.lost) :
    d.checkErrorReplay c k =
      let e := d.stepBack c n k job.params.laneFree
      if x.failures + 1 < 3 || x.fencedBy.contains n then e
      else if x.fencedBy.isEmpty then (e.onCroft c fun y => { y with fencedBy := [n] }).fence n
      else ((n :: x.fencedBy).foldl (fun d t => d.eventOpen 0xE009 1 t.val) e).croftFault c 0x0A03 x.record.pc := by
  simp only [Dev.checkErrorReplay, hx, hj, hs, hf, hr, Croft.recordLost_of_readable hl, SeqState.live, Option.isSome_none, Bool.not_true, Bool.or_self,
    Bool.false_eq_true, if_false]
  rfl

end

end Sys2Proof.Machine
end

section
/-!
SUPPORT. CHECK_ERROR_REPLAY, by the number of failures of the step (Obligations.CheckErrorReplay).
-/

namespace Sys2Proof.Machine

/-- Fencing an ACTIVE slot that carries a croft changes the slot's state, and the log. -/
theorem Dev.fence_carried {d : Dev} {n : Fin 80} {u : Slot} (hu : d.slot n = some u) (ha : u.spare = .active)
    (hc : (d.carried n).isSome = true) : (d.fence n).slot n = some { u with spare := .fenced }
      ∧ (d.fence n).crofts = d.crofts ∧ (d.fence n).mem = d.mem ∧ (d.fence n).jobs = d.jobs := by
  have hact : d.slotIs n.val .active = true := by rw [Dev.slotIs_of_slot hu, ha]; rfl
  have hbare : (d.carried n).isNone = false := by rw [Option.isNone_eq_false_iff]; exact hc
  have hfence : d.fence n = (d.onSlot n fun t => { t with spare := .fenced }).eventOpen 0xE002 1 n.val := by
    simp only [Dev.fence, hact, hbare, if_true, Bool.false_eq_true, if_false]
  rw [hfence]
  refine ⟨(Dev.slot_onSlot d n n _).trans ?_, rfl, rfl, rfl⟩
  rw [if_pos rfl, hu, Option.map_some]

/-- A running croft on slot `n`, in a job without a fault, whose step record can be read, as the statement on check errors
has it. -/
def State.Fails (s : State) (c : CroftRef) (x : Croft) (job : Job) (n : Fin 80) (slot : Slot) : Prop :=
  s.dev.croft c = some x ∧ s.dev.job c.job = some job ∧ x.slot = some n ∧ s.dev.slot n = some slot ∧ x.seq.state = .running
    ∧ job.fault = none ∧ (∀ o, .journal o ∉ x.lost) ∧ x.Shaped

section
variable {s : State} {c : CroftRef} {x : Croft} {job : Job} {n : Fin 80} {slot : Slot} (h : s.Fails c x job n slot)
  {k : CheckKind} (hk : ∀ v, k ≠ .uncorrectable v true)
include h hk

/-- The first two failures of a step put it back and count the error. -/
theorem State.Fails.replays (hfew : x.failures + 1 < 3) : Answers (.checkErrorReplay c k) s fun t => t.jobs = s.dev.jobs
    ∧ s.dev.PutBack c x job n (fun _ u => u.errors = slot.errors.checked k) t := by
  obtain ⟨hx, hj, hplaced, hslot, hrun, hnone, hread, hshape⟩ := h
  refine answers_of_effect (f := Dev.checkErrorReplay c k) rfl fun t ht => ?_
  rw [Dev.checkErrorReplay_eq hx hj hplaced hrun hnone hread] at ht
  simp only [decide_eq_true hfew, Bool.true_or, if_true] at ht
  obtain ⟨hc, ⟨u, hu, _, he⟩, hm, hjobs⟩ := Dev.stepBack_spec (c := c) hx hslot hk job.params.laneFree
  obtain ⟨_, _, hts, htj, htc, _, _, htm, _⟩ := Dev.bare_congr ht
  exact ⟨htj.trans hjobs, .of_croft (l := x.fencedBy) hshape hrun ((Dev.croft_congr htc c).trans hc)
    ((Dev.slot_congr hts n).trans hu) (htm.trans hm) he⟩

/-- The third failure on the first slot fences it. -/
theorem State.Fails.fences (hmany : 3 ≤ x.failures + 1) (hempty : x.fencedBy = []) (hactive : slot.spare = .active) :
    Answers (.checkErrorReplay c k) s fun t => t.jobs = s.dev.jobs
      ∧ s.dev.PutBack c x job n (fun y u => y.fencedBy = [n] ∧ y.slot = some n ∧ u.spare = .fenced) t := by
  obtain ⟨hx, hj, hplaced, hslot, hrun, hnone, hread, hshape⟩ := h
  refine answers_of_effect (f := Dev.checkErrorReplay c k) rfl fun t ht => ?_
  rw [Dev.checkErrorReplay_eq hx hj hplaced hrun hnone hread] at ht
  simp only [decide_eq_false (Nat.not_lt.mpr hmany), hempty, List.contains_nil, Bool.or_self, Bool.false_eq_true, if_false,
    List.isEmpty_nil, if_true] at ht
  obtain ⟨hc, ⟨u, hu, hsp, _⟩, hm, hjobs⟩ := Dev.stepBack_spec (c := c) hx hslot hk job.params.laneFree
  generalize s.dev.stepBack c n k job.params.laneFree = e at ht hc hu hm hjobs
  have hc' : (e.onCroft c fun y => { y with fencedBy := [n] }).croft c
      = some { x.putBack job.params.laneFree with fencedBy := [n] } := by
    have hkeeps : Croft.KeepsRef fun y => { y with fencedBy := [n] } := fun _ => ⟨rfl, rfl⟩
    rw [Dev.croft_onCroft hkeeps, hc, Option.map_some]
  obtain ⟨hfs, hfc, hfm, hfj⟩ := Dev.fence_carried (d := e.onCroft c fun y => { y with fencedBy := [n] }) hu (hsp.trans hactive)
    (Dev.carried_isSome hc' hplaced)
  obtain ⟨_, _, hts, htj, htc, _, _, htm, _⟩ := Dev.bare_congr ht
  exact ⟨htj.trans (hfj.trans hjobs), .of_croft (l := [n]) hshape hrun ((Dev.croft_congr (htc.trans hfc) c).trans hc')
    ((Dev.slot_congr hts n).trans hfs) (htm.trans (hfm.trans hm)) ⟨rfl, hplaced, rfl⟩⟩

/-- The third failure on a further slot halts the job. -/
theorem State.Fails.exhausts (hmany : 3 ≤ x.failures + 1) (hsome : x.fencedBy ≠ []) (hother : n ∉ x.fencedBy) :
    Answers (.checkErrorReplay c k) s fun t => t.mem = s.dev.mem ∧ ∃ q, t.job c.job = some q ∧ q.params = job.params
      ∧ q.fault = some ⟨0x0A03, x.seq.step, faultDetail c.n.val job.params.ldev x.record.pc⟩ := by
  obtain ⟨hx, hj, hplaced, hslot, hrun, hnone, hread, hshape⟩ := h
  refine answers_of_effect (f := Dev.checkErrorReplay c k) rfl fun t ht => ?_
  rw [Dev.checkErrorReplay_eq hx hj hplaced hrun hnone hread] at ht
  have hnot : x.fencedBy.contains n = false := Bool.eq_false_iff.mpr fun hc => hother (List.contains_iff_mem.mp hc)
  simp only [decide_eq_false (Nat.not_lt.mpr hmany), hnot, List.isEmpty_iff, hsome, Bool.or_self, Bool.false_eq_true,
    if_false] at ht
  obtain ⟨hc, _, hm, hjobs⟩ := Dev.stepBack_spec (c := c) hx hslot hk job.params.laneFree
  generalize s.dev.stepBack c n k job.params.laneFree = e at ht hc hm hjobs
  obtain ⟨logs, count, he⟩ := Dev.foldl_eventOpen_keeps 0xE009 1 (n :: x.fencedBy) e
  rw [he] at ht
  obtain ⟨hfm, hfj⟩ := Dev.croftFault_first (d := { e with logs := logs, freeCount := count }) hc
    ((Dev.job_congr hjobs c.job).trans hj) hnone hrun 0x0A03 x.record.pc
  obtain ⟨_, _, _, htj, _, _, _, htm, _⟩ := Dev.bare_congr ht
  exact ⟨htm.trans (hfm.trans hm), _, (Dev.job_congr htj c.job).trans hfj, rfl, rfl⟩

end

/-- Settles O23: the step put back (`Dev.stepBack_spec`), and what its third failure adds. -/
theorem checkErrorReplay : Obligations.CheckErrorReplay := by
  unfold Obligations.CheckErrorReplay
  intro s c x job n slot hx hj hs hn hr hf hl hshape back counted
  have h : s.Fails c x job n slot := ⟨hx, hj, hs, hn, hr, hf, hl, hshape⟩
  exact ⟨fun hfew => ⟨h.replays nofun hfew, h.replays nofun hfew, h.replays nofun hfew, fun v => h.replays (by simp) hfew⟩,
    fun k hk hmany => ⟨h.fences hk hmany, h.exhausts hk hmany⟩⟩

end Sys2Proof.Machine
end

section
/-!
SUPPORT. Bindings and the map (01_croft_anatomy.md R34 to R41; 13_checking_replay_test.md R380): what taking a croft off its
slot, binding it to another and one change of the map do to crofts and slots, and which slots a replacement looks at.
-/

namespace Sys2Proof.Machine

/-! ## One change of the map -/

/-- The ledgers of the bound jobs alone change with an entry in each. -/
theorem Dev.foldl_onJob_keeps (f : Dev → Fin 64 → Job → Job) (js : List (Fin 64)) (d : Dev) :
    ∃ jobs, js.foldl (fun d j => d.onJob j (f d j)) d = { d with jobs := jobs } := by
  induction js generalizing d with
  | nil => exact ⟨d.jobs, rfl⟩
  | cons j js ih =>
    obtain ⟨jobs, h⟩ := ih (d.onJob j (f d j))
    exact ⟨jobs, h⟩

/-- A slot with the copies of the map that its move unit and its mesh unit hold. -/
def Slot.withMap (m : MapCopy) (t : Slot) : Slot := { t with moveMap := m, meshMap := m }

/-- A change of the map numbers it anew and gives it to every source; crofts and memory stay. -/
theorem Dev.mapChange_spec (d : Dev) (js : List (Fin 64)) :
    (d.mapChange js).crofts = d.crofts ∧ (d.mapChange js).slots = d.slots.map (Slot.withMap ⟨d.mapGen + 1, d.bindings⟩)
      ∧ (d.mapChange js).mem = d.mem ∧ (d.mapChange js).mapGen = d.mapGen + 1 := by
  obtain ⟨jobs, h⟩ := Dev.foldl_onJob_keeps (fun e j q =>
    { q with
      bound := true
      ledger := { q.ledger with
        mapChanges := if q.bound then satAdd 64 q.ledger.mapChanges 1 else q.ledger.mapChanges
        maps := q.ledger.maps ++ [⟨e.mapGen, e.now, e.mapSlots j q.params.crofts⟩] } }) js.eraseDups
    (({ d with mapGen := d.mapGen + 1 }.installMap).event 0xE00D 0 0 0 (BitVec.ofNat 64 (d.mapGen + 1)))
  have hd : d.mapChange js = { (({ d with mapGen := d.mapGen + 1 }.installMap).event 0xE00D 0 0 0 (BitVec.ofNat 64 (d.mapGen + 1)))
      with jobs := jobs } := h
  rw [hd]
  exact ⟨rfl, rfl, rfl, rfl⟩

theorem Dev.slot_mapChange (d : Dev) (js : List (Fin 64)) (n : Fin 80) :
    (d.mapChange js).slot n = (d.slot n).map (Slot.withMap ⟨d.mapGen + 1, d.bindings⟩) := by
  obtain ⟨_, hs, _, _⟩ := d.mapChange_spec js
  simp only [Dev.slot, hs, List.getElem?_map]

theorem Dev.croft_mapChange (d : Dev) (js : List (Fin 64)) (c : CroftRef) : (d.mapChange js).croft c = d.croft c :=
  Dev.croft_congr (d.mapChange_spec js).1 c

/-! ## A croft off its slot, and on another -/

/-- A croft on its new slot, its lane sets to be positioned again. -/
def Croft.settled (s : Fin 80) (x : Croft) : Croft :=
  { (x.switchOut none none).settleOn s with lanes := x.lanes.map fun l => { l with ready := false } }

/-- The slot that takes a croft, which counts the boundary of a launch that found no slot (R212). -/
def Slot.takeFor (x : Croft) (t : Slot) : Slot :=
  if x.seq.opening then { Slot.take x.seq.state.live t with stepsDone := satInc (Slot.take x.seq.state.live t).stepsDone }
  else Slot.take x.seq.state.live t

theorem Slot.takeFor_spare (x : Croft) (t : Slot) : (Slot.takeFor x t).spare = .active := by
  unfold Slot.takeFor
  split <;> rfl

theorem Croft.keepsRef_switchOut (home vacated : Option (Fin 80)) : Croft.KeepsRef (Croft.switchOut home vacated) :=
  fun _ => ⟨rfl, rfl⟩

section
variable {d : Dev} {c : CroftRef} {x : Croft}

/-- Leaving a slot changes slots alone. -/
theorem Dev.leaveSlot_spec (d : Dev) (x : Croft) : ∃ slots, d.leaveSlot x = { d with slots := slots } := by
  unfold Dev.leaveSlot
  split
  · exact ⟨_, rfl⟩
  · exact ⟨d.slots, rfl⟩

/-- Taking a croft off its slot leaves the slot, drops the seeding request, and changes where the croft stands. -/
theorem Dev.unbind_eq (hx : d.croft c = some x) (home vacated : Option (Fin 80)) : ∃ well, d.unbind c home vacated
    = { (d.leaveSlot x).onCroft c (Croft.switchOut home vacated) with well := well } := by
  simp only [Dev.unbind, hx]
  exact ⟨_, rfl⟩

/-- The lane sets of a croft, to be positioned again. -/
def Croft.unpositioned (x : Croft) : Croft := { x with lanes := x.lanes.map fun l => { l with ready := false } }

/-- In a seeded job the lane sets of a croft bound anew are to be positioned again, and its seeding request is dropped. -/
theorem Dev.rebindLanes_seeded {job : Job} (hx : d.croft c = some x) (hj : d.job c.job = some job)
    (hf : job.params.laneFree = false) : ∃ well, d.rebindLanes c = { d.onCroft c Croft.unpositioned with well := well } := by
  simp only [Dev.rebindLanes, hx, hj, hf, Bool.not_false, if_true]
  exact ⟨_, rfl⟩

/-- Binding a croft of a seeded job: it leaves its slot, and the new slot takes it. -/
theorem Dev.bind_seeded {job : Job} (hx : d.croft c = some x) (hj : d.job c.job = some job) (hf : job.params.laneFree = false)
    (s : Fin 80) : ∃ well, d.bind c s
      = { ((d.leaveSlot x).onCroft c (Croft.settled s)).onSlot s (Slot.takeFor x) with well := well } := by
  obtain ⟨well, hu⟩ := Dev.unbind_eq hx none none
  obtain ⟨slots, hl⟩ := d.leaveSlot_spec x
  rw [hl] at hu ⊢
  let e : Dev := { d with slots := slots, well := well }
  have hout : Croft.KeepsRef (Croft.switchOut none none) := Croft.keepsRef_switchOut none none
  have hsettle : Croft.KeepsRef fun y => (y.switchOut none none).settleOn s := fun _ => ⟨rfl, rfl⟩
  have hbound : (e.onCroft c (Croft.switchOut none none)).onCroft c (Croft.settleOn s)
      = e.onCroft c fun y => (y.switchOut none none).settleOn s := Dev.onCroft_onCroft hout e c _
  let b := (e.onCroft c fun y => (y.switchOut none none).settleOn s).onSlot s (Slot.takeFor x)
  have hx' : b.croft c = some ((x.switchOut none none).settleOn s) := by
    refine (Dev.croft_onCroft hsettle e c).trans ?_
    exact congrArg (Option.map _) hx
  obtain ⟨well', hr⟩ := Dev.rebindLanes_seeded (d := b) hx' hj hf
  have hbind : d.bind c s = b.rebindLanes c := by
    simp only [Dev.bind, hx, hu]
    exact congrArg (fun f : Dev => (f.onSlot s (Slot.takeFor x)).rebindLanes c) hbound
  have hlast : (e.onCroft c fun y => (y.switchOut none none).settleOn s).onCroft c Croft.unpositioned
      = e.onCroft c (Croft.settled s) := Dev.onCroft_onCroft hsettle e c _
  refine ⟨well', hbind.trans (hr.trans ?_)⟩
  exact congrArg (fun f : Dev => { f.onSlot s (Slot.takeFor x) with well := well' }) hlast

end

end Sys2Proof.Machine
end

section
/-!
SUPPORT. Generator checks, age measurement and the retirement of a slot (04_lane_generators.md R123; 13_checking_replay_test.md
R380, R386), for Obligations.SlotChecksAndAgeing.
-/

namespace Sys2Proof.Machine

/-! ## Which slot a replacement takes -/

/-- A fold that keeps what it has or takes the next element answers one of the elements. -/
theorem foldl_choice_mem {α : Type} {f : Option α → α → Option α} (hf : ∀ b a, f b a = b ∨ f b a = some a) {l : List α}
    {b : Option α} {k : α} (h : l.foldl f b = some k) : b = some k ∨ k ∈ l := by
  induction l generalizing b with
  | nil => exact .inl h
  | cons a l ih =>
    rcases ih h with hb | hm
    · rcases hf b a with hk | ht
      · exact .inl (hk.symm.trans hb)
      · exact .inr (List.mem_cons.mpr (.inl (Option.some_inj.mp (ht.symm.trans hb)).symm))
    · exact .inr (List.mem_cons_of_mem a hm)

section
variable {d e : Dev}

/-- The SPARE slot nearest to one is a SPARE slot. -/
theorem Dev.nearestSpare_spec {s k : Nat} (h : d.nearestSpare s = some k) : k < 80 ∧ d.slotIs k .spare = true := by
  have hmem := foldl_choice_mem (fun b t => by
    cases b with
    | none => exact .inr rfl
    | some u =>
      by_cases hd : slotDist s t < slotDist s u
      · exact .inr (if_pos hd)
      · exact .inl (if_neg hd)) h
  obtain hk | hk := hmem
  · exact nomatch hk
  · obtain ⟨hr, hs⟩ := List.mem_filter.mp hk
    rw [Bool.and_eq_true] at hs
    exact ⟨List.mem_range.mp hr, hs.1⟩

/-- Which SPARE slot is nearest is a matter of the SPARE slots and the fault regions. -/
theorem Dev.nearestSpare_congr (hs : ∀ t, d.slotIs t .spare = e.slotIs t .spare) (hm : d.mesh = e.mesh) (s : Nat) :
    d.nearestSpare s = e.nearestSpare s := by
  have hr (t : Nat) : d.inRegion t = e.inRegion t := by simp only [Dev.inRegion, hm]
  simp only [Dev.nearestSpare, hs, hr]

/-- Which slot of a job is shared is a matter of its crofts and of the other slots that are ACTIVE. -/
theorem Dev.sharedSlot_congr {n : Fin 80} (hs : ∀ t : Fin 80, t ≠ n → d.slotIs t.val .active = e.slotIs t.val .active)
    (hc : d.crofts = e.crofts) (j : Fin 64) : d.sharedSlot j (some n) = e.sharedSlot j (some n) := by
  have hcarry (s : Fin 80) : d.carries j s = e.carries j s := by simp only [Dev.carries, hc]
  have hfilter : ((List.finRange 80).filter fun s => some s != some n && d.slotIs s.val .active && 0 < d.carries j s)
      = (List.finRange 80).filter fun s => some s != some n && e.slotIs s.val .active && 0 < e.carries j s := by
    refine List.filter_congr fun s _ => ?_
    by_cases hsn : s = n
    · simp [hsn]
    · rw [hs s hsn, hcarry]
  unfold Dev.sharedSlot
  rw [hfilter]
  simp only [hcarry]

end

/-! ## A slot retired (R386) -/

/-- A slot retired, with its event. -/
def Dev.retireSlot (d : Dev) (n : Fin 80) : Dev := (d.onSlot n fun u => { u.off with spare := .retired }).eventOpen 0xE003 1 n.val

section
variable {d : Dev} {n : Fin 80} {t : Slot}

/-- The retired slot. -/
theorem Dev.slot_retireSlot (ht : d.slot n = some t) : (d.retireSlot n).slot n = some { t.off with spare := .retired } := by
  refine (Dev.slot_onSlot d n n _).trans ?_
  rw [if_pos rfl, ht, Option.map_some]

/-- Retiring a slot leaves every other as it is. -/
theorem Dev.slot_retireSlot_other {m : Fin 80} (h : m ≠ n) : (d.retireSlot n).slot m = d.slot m :=
  (Dev.slot_onSlot d n m _).trans (if_neg h)

/-- Whether a slot of the device is in a state is read from the slot. -/
theorem Dev.slotIs_eq_slot (d : Dev) (m : Fin 80) (st : SpareState) :
    d.slotIs m.val st = ((d.slot m).map fun u => u.spare == st).getD false := rfl

theorem Dev.slotIs_retireSlot_other {m : Fin 80} (h : m ≠ n) (st : SpareState) :
    (d.retireSlot n).slotIs m.val st = d.slotIs m.val st := by
  rw [Dev.slotIs_eq_slot, Dev.slotIs_eq_slot, Dev.slot_retireSlot_other h]

/-- Retiring an ACTIVE slot leaves the nearest SPARE slot what it is. -/
theorem Dev.nearestSpare_retireSlot (ht : d.slot n = some t) (ha : t.spare = .active) (s : Nat) :
    (d.retireSlot n).nearestSpare s = d.nearestSpare s := by
  have hmesh : (d.retireSlot n).mesh = d.mesh := rfl
  refine Dev.nearestSpare_congr (fun m => ?_) hmesh s
  by_cases hm : m = n.val
  · rw [hm, Dev.slotIs_of_slot (Dev.slot_retireSlot ht), Dev.slotIs_of_slot ht, ha]
    rfl
  · simp [Dev.slotIs, Dev.retireSlot, Dev.onSlot, Dev.eventOpen, modifyAt_getElem?, hm]

end

/-! ## A croft that leaves its slot (R380) -/

/-- What the statement says of a retired slot and the croft it carried: the slot is RETIRED and off, the croft is `y`, and the
map changed once. -/
def Dev.Vacated (d : Dev) (c : CroftRef) (n : Fin 80) (y : Croft) (e : Dev) : Prop :=
  (∃ u, e.slot n = some u ∧ u.spare = .retired ∧ u.island = .off) ∧ e.croft c = some y ∧ e.mapGen = d.mapGen + 1 ∧ e.mem = d.mem

section
variable {d : Dev} {c : CroftRef} {x y : Croft} {n : Fin 80} {t : Slot}

/-- What a bound or unbound croft leaves behind is a retired slot, once the map has changed and the island is off. -/
theorem Dev.vacated_of_mapChange {b : Dev} (hs : ∃ u, b.slot n = some u ∧ u.spare = .retired) (hc : b.croft c = some y)
    (hg : b.mapGen = d.mapGen) (hm : b.mem = d.mem) (js : List (Fin 64)) :
    d.Vacated c n y ((b.mapChange js).onSlot n Slot.off) := by
  obtain ⟨u, hu, hr⟩ := hs
  obtain ⟨_, _, hmem, hgen⟩ := b.mapChange_spec js
  refine ⟨⟨(Slot.withMap ⟨b.mapGen + 1, b.bindings⟩ u).off, ?_, hr, rfl⟩, ?_, ?_, ?_⟩
  · rw [Dev.slot_onSlot, if_pos rfl, Dev.slot_mapChange, hu, Option.map_some, Option.map_some]
  · exact (Dev.croft_mapChange b js c).trans hc
  · exact hgen.trans (congrArg (· + 1) hg)
  · exact hmem.trans hm

/-- A slot that its croft leaves stays in the state it is in. -/
theorem Slot.vacate_spare (x : Croft) (t : Slot) : (t.vacate x).spare = t.spare := by
  unfold Slot.vacate
  split
  · rfl
  · split <;> rfl

/-- The slot a croft leaves, and another. -/
theorem Dev.slot_leaveSlot (hs : x.slot = some n) (m : Fin 80) :
    (d.leaveSlot x).slot m = if m = n then (d.slot m).map (Slot.vacate x) else d.slot m := by
  simp only [Dev.leaveSlot, hs]
  exact Dev.slot_onSlot d n m _

/-- A croft moved from a RETIRED slot to a SPARE one. -/
theorem Dev.vacated_spare {job : Job} {k : Nat} {v : Slot} (hx : d.croft c = some x) (hj : d.job c.job = some job)
    (hf : job.params.laneFree = false) (hs : x.slot = some n) (ht : d.slot n = some t) (hr : t.spare = .retired)
    (hk : d.nearestSpare n.val = some k) (hne : Fin.ofNat 80 k ≠ n) (hv : d.slot (Fin.ofNat 80 k) = some v) :
    d.Vacated c n (x.settled (Fin.ofNat 80 k)) ((d.moveOff c n).onSlot n Slot.off)
      ∧ ∃ u, ((d.moveOff c n).onSlot n Slot.off).slot (Fin.ofNat 80 k) = some u ∧ u.spare = .active := by
  simp only [Dev.moveOff, hk]
  generalize Fin.ofNat 80 k = m at hne hv ⊢
  obtain ⟨well, hb⟩ := Dev.bind_seeded hx hj hf m
  obtain ⟨slots, hl⟩ := d.leaveSlot_spec x
  have hsettled : Croft.KeepsRef (Croft.settled m) := fun _ => ⟨rfl, rfl⟩
  have hslot (i : Fin 80) : (d.bind c m).slot i = if i = m then ((d.leaveSlot x).slot i).map (Slot.takeFor x)
      else (d.leaveSlot x).slot i := by
    rw [hb]
    exact Dev.slot_onSlot ((d.leaveSlot x).onCroft c (Croft.settled m)) m i _
  refine ⟨Dev.vacated_of_mapChange ?_ ?_ ?_ ?_ _, ?_⟩
  · refine ⟨t.vacate x, ?_, (Slot.vacate_spare x t).trans hr⟩
    rw [hslot, if_neg (Ne.symm hne), Dev.slot_leaveSlot hs, if_pos rfl, ht, Option.map_some]
  · rw [hb]
    refine (Dev.croft_onCroft hsettled (d.leaveSlot x) c).trans ?_
    rw [hl]
    exact congrArg (Option.map _) hx
  · rw [hb, hl]; rfl
  · rw [hb, hl]; rfl
  · refine ⟨(v.takeFor x).withMap ⟨(d.bind c m).mapGen + 1, (d.bind c m).bindings⟩, ?_, Slot.takeFor_spare x v⟩
    rw [Dev.slot_onSlot, if_neg hne, Dev.slot_mapChange, hslot, if_pos rfl, Dev.slot_leaveSlot hs, if_neg hne, hv, Option.map_some,
      Option.map_some]

/-- A croft taken off a RETIRED slot with no SPARE slot left: it shares a slot of its job, or waits for another. -/
theorem Dev.vacated_unbound (hx : d.croft c = some x) (hs : x.slot = some n) (ht : d.slot n = some t) (hr : t.spare = .retired)
    (hk : d.nearestSpare n.val = none) :
    let home := d.sharedSlot c.job (some n)
    d.Vacated c n (x.switchOut home (if home.isSome then none else some n)) ((d.moveOff c n).onSlot n Slot.off) := by
  intro home
  have hoff : d.moveOff c n = (d.unbind c home (if home.isSome then none else some n)).mapChange [c.job] := by
    rcases hh : d.sharedSlot c.job (some n) with _ | h
    · simp [Dev.moveOff, hk, home, hh]
    · simp [Dev.moveOff, hk, home, hh]
  rw [hoff]
  generalize (if home.isSome then none else some n) = vacated
  obtain ⟨well, hu⟩ := Dev.unbind_eq hx home vacated
  obtain ⟨slots, hl⟩ := d.leaveSlot_spec x
  refine Dev.vacated_of_mapChange ⟨t.vacate x, ?_, (Slot.vacate_spare x t).trans hr⟩ ?_ ?_ ?_ _
  · rw [hu]
    show (d.leaveSlot x).slot n = _
    rw [Dev.slot_leaveSlot hs, if_pos rfl, ht, Option.map_some]
  · rw [hu]
    refine (Dev.croft_onCroft (Croft.keepsRef_switchOut home vacated) (d.leaveSlot x) c).trans ?_
    rw [hl]
    exact congrArg (Option.map _) hx
  · rw [hu, hl]; rfl
  · rw [hu, hl]; rfl

end

end Sys2Proof.Machine
end

section
/-!
SUPPORT. GENERATOR_CHECK, AGE_MEASURE, AGE_RETIRE and AGE_NO_SPARE, by what each finds (Obligations.SlotChecksAndAgeing).
-/

namespace Sys2Proof.Machine

/-- Every record is counted, whatever its region. -/
theorem Logs.count_write (l : Logs) (time event severity kind source : Nat) (low : Word64) :
    (l.write time event severity kind source low).count = satAdd 64 l.count 1 := by
  unfold Logs.write
  split <;> rfl

/-- An event counts one record. -/
theorem Dev.count_eventOpen (d : Dev) (event kind source : Nat) :
    (d.eventOpen event kind source).logs.count = satAdd 64 d.logs.count 1 :=
  Logs.count_write d.logs _ event _ kind source _

section
variable {s : State} {n : Fin 80} {t : Slot} (hmain : s.dev.power.main = true)

/-! ## The generator checks (R123, R124) -/

/-- The end of steps 1 to 3 of the check, by whether the polynomials are right. -/
def Dev.polysChecked (right : Bool) (d : Dev) : Dev :=
  let d : Dev := { d with boot := { d.boot with genKat := if right then 1 else 2, genRuns := satAdd 64 d.boot.genRuns 1 } }
  if d.boot.act == .activating && d.boot.actClass = 2 && 1 ≤ d.boot.switched then d.endActivation 0 else d

/-- Steps 1 to 3 of the check, with the polynomials' outcome as an argument: no proof is to evaluate it. -/
theorem Dev.generatorCheck_none (d : Dev) (good : Bool) :
    d.generatorCheck none good = d.polysChecked (polyGood false && polyGood true) := rfl

/-- With no activation under way the check ends there. -/
theorem Dev.polysChecked_idle {d : Dev} (h : d.boot.act = .idle) (right : Bool) : d.polysChecked right
    = { d with boot := { d.boot with genKat := if right then 1 else 2, genRuns := satAdd 64 d.boot.genRuns 1 } } := by
  have hnot : (d.boot.act == ActState.activating) = false := by rw [h]; rfl
  simp only [Dev.polysChecked, hnot, Bool.false_and, Bool.false_eq_true, if_false]

include hmain in
/-- Steps 1 to 3 of the check. -/
theorem State.generatorCheck_all (good : Bool) (hidle : s.dev.boot.act = .idle) : Becomes (.generatorCheck none good) s
    { s.dev with boot := { s.dev.boot with
        genKat := if polyGood false && polyGood true then 1 else 2, genRuns := satAdd 64 s.dev.boot.genRuns 1 } } := by
  refine answers_of_effect (f := powered (Dev.generatorCheck none good)) rfl fun e he => ?_
  rwa [powered_on hmain, Dev.generatorCheck_none, Dev.polysChecked_idle hidle] at he

/-- A slot that no paused croft waits for has nothing to resume. -/
theorem Dev.resumeChecked_none {d : Dev} (h : ∀ x ∈ d.crofts, ¬ (x.paused = true ∧ x.vacated = some n)) :
    d.resumeChecked n = d := by
  have hfind : (d.crofts.find? fun x => x.paused && x.vacated == some n) = none := by
    refine List.find?_eq_none.mpr fun x hx => ?_
    rw [Bool.and_eq_true, beq_iff_eq]
    exact h x hx
  simp only [Dev.resumeChecked, hfind]

section
variable {d : Dev} (ht : d.slot n = some t) (hcheck : d.checkable n t = true)
  (hnone : ∀ x ∈ d.crofts, ¬ (x.paused = true ∧ x.vacated = some n))
include ht hcheck hnone

/-- A slot whose lanes are right. -/
theorem Dev.generatorCheck_good :
    d.generatorCheck (some n) true = d.onSlot n fun u => { u with checked := true, island := .idle } := by
  simp only [Dev.generatorCheck, ht, hcheck, Bool.not_true, Bool.false_eq_true, if_false, if_true]
  exact Dev.resumeChecked_none hnone

/-- A slot whose lanes are wrong. -/
theorem Dev.generatorCheck_bad : d.generatorCheck (some n) false
    = (({ d with boot := { d.boot with genKat := 3 } } : Dev).onSlot n fun u => { u.off with spare := .fenced }).eventOpen
        0xE002 1 n.val := by
  simp only [Dev.generatorCheck, ht, hcheck, Bool.not_true, Bool.false_eq_true, if_false]
  exact Dev.resumeChecked_none hnone

end

include hmain in
/-- Step 4 runs on a slot without a croft that is ACTIVE in Idle, or SPARE. -/
theorem State.checkable (hbare : s.dev.carried n = none) (hkat : s.dev.boot.genKat ≠ 0)
    (hopen : t.spare = .active ∧ t.island = .idle ∨ t.spare = .spare) : s.dev.checkable n t = true := by
  obtain ⟨ha, hi⟩ | hs := hopen
  · simp [Dev.checkable, hbare, hkat, ha, hi]
  · simp [Dev.checkable, hbare, hkat, hs, hmain]

section
variable (ht : s.dev.slot n = some t) (hcheck : s.dev.checkable n t = true)
  (hnone : ∀ x ∈ s.dev.crofts, ¬ (x.paused = true ∧ x.vacated = some n))
include hmain ht hcheck hnone

/-- Step 4 on a slot whose lanes are right. -/
theorem State.generatorCheck_good : Becomes (.generatorCheck (some n) true) s
    (s.dev.onSlot n fun u => { u with checked := true, island := .idle }) := by
  refine answers_of_effect (f := powered (Dev.generatorCheck (some n) true)) rfl fun e he => ?_
  rwa [powered_on hmain, Dev.generatorCheck_good ht hcheck hnone] at he

/-- Step 4 on a slot whose lanes are wrong. -/
theorem State.generatorCheck_bad : Answers (.generatorCheck (some n) false) s fun e => e.boot = { s.dev.boot with genKat := 3 }
    ∧ e.slots = (s.dev.onSlot n fun u => { u with
        spare := .fenced, island := .off, checked := false, view := [], viewPoison := [] }).slots
    ∧ e.crofts = s.dev.crofts ∧ e.mem = s.dev.mem ∧ e.logs.count = satAdd 64 s.dev.logs.count 1 := by
  refine answers_of_effect (f := powered (Dev.generatorCheck (some n) false)) rfl fun e he => ?_
  rw [powered_on hmain, Dev.generatorCheck_bad ht hcheck hnone] at he
  obtain ⟨_, _, hslots, _, hcrofts, _, _, hmem, _, _, _, hboot, _⟩ := Dev.bare_congr he
  obtain ⟨_, hcount, _⟩ := Dev.bare_congr_rest he
  exact ⟨hboot, hslots, hcrofts, hmem, hcount.trans (Dev.count_eventOpen _ _ _ _)⟩

end

/-! ## Age measurement (R386) -/

/-- An age measurement of a powered slot publishes its frequencies and its drift. -/
theorem State.ageMeasure_on (ht : s.dev.slot n = some t) (hon : t.island ≠ .off) (aged ref : Nat) :
    let drift := driftOf aged ref (Config.ageRatio (s.dev.fuses.ageRef.getD n.val 0))
    Answers (.ageMeasure n aged ref) s fun e => e.slots = (s.dev.onSlot n fun u => { u with
        aged := aged, refKhz := ref, drift := drift
        marked := u.marked || (!t.marked && decide (s.dev.settings.ageLimit ≤ drift)) }).slots
      ∧ e.crofts = s.dev.crofts ∧ e.mem = s.dev.mem ∧ e.mapGen = s.dev.mapGen := by
  intro drift
  refine answers_of_effect (f := Dev.ageMeasure n aged ref) rfl fun e he => ?_
  have hoff : (t.island == .off) = false := beq_eq_false_iff_ne.mpr hon
  simp only [Dev.ageMeasure, ht, hoff, Bool.false_eq_true, if_false] at he
  obtain ⟨_, _, hslots, _, hcrofts, _, _, hmem, _⟩ := Dev.bare_congr he
  obtain ⟨hgen, _⟩ := Dev.bare_congr_rest he
  refine ⟨hslots.trans ?_, hcrofts.trans ?_, hmem.trans ?_, hgen.trans ?_⟩ <;> (split <;> rfl)

/-! ## Retirement (R386, R380) -/

section
variable (ht : s.dev.slot n = some t) (hmark : t.marked = true) (hactive : t.spare = .active)
include hmain ht hmark hactive

/-- A marked ACTIVE slot without a croft is retired as it stands. -/
theorem State.ageRetire_bare (hbare : s.dev.carried n = none)
    (hgo : (s.dev.nearestSpare n.val).isSome = true ∨ s.dev.settings.ageLimit + 100 ≤ t.drift) :
    Answers (.ageRetire n) s fun e => e.slots = (s.dev.onSlot n fun u => { u with
        spare := .retired, island := .off, checked := false, view := [], viewPoison := [] }).slots
      ∧ e.crofts = s.dev.crofts ∧ e.mem = s.dev.mem ∧ e.logs.count = satAdd 64 s.dev.logs.count 1 := by
  refine answers_of_effect (f := powered (Dev.ageRetire n)) rfl fun e he => ?_
  have hretire : s.dev.ageRetire n = s.dev.retireSlot n := by
    obtain hs | hd := hgo
    · have hn : (s.dev.nearestSpare n.val).isNone = false := by rw [Option.isNone_eq_false_iff]; exact hs
      simp [Dev.ageRetire, ht, hmark, hactive, hn, hbare, Dev.retireSlot]
    · simp [Dev.ageRetire, ht, hmark, hactive, hd, hbare, Dev.retireSlot]
  rw [powered_on hmain, hretire] at he
  obtain ⟨_, _, hslots, _, hcrofts, _, _, hmem, _⟩ := Dev.bare_congr he
  obtain ⟨_, hcount, _⟩ := Dev.bare_congr_rest he
  exact ⟨hslots, hcrofts, hmem, hcount.trans (Dev.count_eventOpen _ _ _ _)⟩

section
variable {x : Croft} {job : Job} (hcarried : s.dev.carried n = some x) (hx : s.dev.croft ⟨x.job, x.n⟩ = some x)
  (hj : s.dev.job x.job = some job) (hmove : s.dev.movable x job.params.ldev = true) (hread : ∀ o, .journal o ∉ x.lost)
include hcarried hx hj hmove hread

/-- The croft of a marked ACTIVE slot leaves it once it may be moved. -/
theorem State.ageRetire_moves (hready : s.dev.replaceable n = true)
    (hgo : (s.dev.nearestSpare n.val).isSome = true ∨ s.dev.settings.ageLimit + 100 ≤ t.drift) {P : Dev → Prop}
    (hP : ∀ e, e.bare = (((s.dev.retireSlot n).moveOff ⟨x.job, x.n⟩ n).onSlot n Slot.off).bare → P e) :
    Answers (.ageRetire n) s P := by
  refine answers_of_effect (f := powered (Dev.ageRetire n)) rfl fun e he => hP e ?_
  have hlost := Croft.recordLost_of_readable hread
  have hx' : (s.dev.retireSlot n).croft ⟨x.job, x.n⟩ = some x := hx
  have hrelocate : s.dev.ageRetire n = (s.dev.retireSlot n).relocate ⟨x.job, x.n⟩ n true := by
    obtain hs | hd := hgo
    · have hn : (s.dev.nearestSpare n.val).isNone = false := by rw [Option.isNone_eq_false_iff]; exact hs
      simp [Dev.ageRetire, ht, hmark, hactive, hn, hcarried, hj, hmove, hready, hlost, Dev.retireSlot]
    · simp [Dev.ageRetire, ht, hmark, hactive, hd, hcarried, hj, hmove, hready, hlost, Dev.retireSlot]
  rw [powered_on hmain, hrelocate] at he
  simpa only [Dev.relocate, hx', hlost, Bool.not_true, Bool.or_self, Bool.false_eq_true, if_false] using he

/-- With a SPARE slot left, the croft goes to the nearest one. -/
theorem State.ageRetire_spare {k : Nat} (hfree : job.params.laneFree = false) (hk : s.dev.nearestSpare n.val = some k)
    (hready : s.dev.replaceable n = true) (h80 : s.dev.slots.length = 80) :
    Answers (.ageRetire n) s fun e => (∃ u, e.slot n = some u ∧ u.spare = .retired ∧ u.island = .off)
      ∧ (∃ y, e.croft ⟨x.job, x.n⟩ = some y ∧ y.slot = some (Fin.ofNat 80 k) ∧ y.granary = x.granary
        ∧ y.seq.pc = x.seq.pc ∧ y.ctxs = x.ctxs ∧ y.banks = x.banks)
      ∧ (∃ u, e.slot (Fin.ofNat 80 k) = some u ∧ u.spare = .active) ∧ e.mapGen = s.dev.mapGen + 1 ∧ e.mem = s.dev.mem := by
  refine State.ageRetire_moves hmain ht hmark hactive hcarried hx hj hmove hread hready (.inl (by rw [hk]; rfl)) fun e he => ?_
  obtain ⟨hk80, hspare⟩ := Dev.nearestSpare_spec hk
  have hval : (Fin.ofNat 80 k).val = k := Nat.mod_eq_of_lt hk80
  have hne : Fin.ofNat 80 k ≠ n := by
    intro h
    rw [← hval, h, Dev.slotIs_of_slot ht, hactive] at hspare
    exact nomatch hspare
  have hv : s.dev.slot (Fin.ofNat 80 k) = some (s.dev.slots[k]'(by rw [h80]; exact hk80)) := by
    rw [Dev.slot, hval]
    exact List.getElem?_eq_getElem _
  obtain ⟨⟨⟨u, hu, hur, hui⟩, hcroft, hgen, hmem⟩, w, hw, hwa⟩ := Dev.vacated_spare (d := s.dev.retireSlot n) hx hj hfree
    (by simpa using List.find?_some hcarried) (Dev.slot_retireSlot ht) rfl ((Dev.nearestSpare_retireSlot ht hactive _).trans hk) hne
    ((Dev.slot_retireSlot_other hne).trans hv)
  obtain ⟨_, _, hslots, _, hcrofts, _, _, hm, _⟩ := Dev.bare_congr he
  obtain ⟨hg, _⟩ := Dev.bare_congr_rest he
  exact ⟨⟨u, (Dev.slot_congr hslots n).trans hu, hur, hui⟩,
    ⟨_, (Dev.croft_congr hcrofts _).trans hcroft, rfl, rfl, rfl, rfl, rfl⟩, ⟨w, (Dev.slot_congr hslots _).trans hw, hwa⟩,
    hg.trans hgen, hm.trans hmem⟩

/-- With none left, at AGE_LIMIT + 100, the croft shares another slot of its job, or waits. -/
theorem State.ageRetire_forced (hk : s.dev.nearestSpare n.val = none) (hlimit : s.dev.settings.ageLimit + 100 ≤ t.drift) :
    let home := s.dev.sharedSlot x.job (some n)
    Answers (.ageRetire n) s fun e => (∃ u, e.slot n = some u ∧ u.spare = .retired ∧ u.island = .off)
      ∧ (∃ y, e.croft ⟨x.job, x.n⟩ = some y ∧ y.slot = none ∧ y.home = home
        ∧ y.vacated = (if home.isSome then none else some n) ∧ y.granary = x.granary
        ∧ y.seq.pc = x.seq.pc ∧ y.ctxs = x.ctxs ∧ y.banks = x.banks)
      ∧ e.mapGen = s.dev.mapGen + 1 ∧ e.mem = s.dev.mem := by
  intro home
  have hready : s.dev.replaceable n = true := by simp only [Dev.replaceable, hk]
  refine State.ageRetire_moves hmain ht hmark hactive hcarried hx hj hmove hread hready (.inr hlimit) fun e he => ?_
  have hhome : (s.dev.retireSlot n).sharedSlot x.job (some n) = home :=
    Dev.sharedSlot_congr (fun m hm => Dev.slotIs_retireSlot_other hm .active) rfl x.job
  obtain ⟨⟨u, hu, hur, hui⟩, hcroft, hgen, hmem⟩ := Dev.vacated_unbound (d := s.dev.retireSlot n) hx
    (by simpa using List.find?_some hcarried) (Dev.slot_retireSlot ht) rfl ((Dev.nearestSpare_retireSlot ht hactive _).trans hk)
  rw [hhome] at hcroft
  obtain ⟨_, _, hslots, _, hcrofts, _, _, hm, _⟩ := Dev.bare_congr he
  obtain ⟨hg, _⟩ := Dev.bare_congr_rest he
  exact ⟨⟨u, (Dev.slot_congr hslots n).trans hu, hur, hui⟩,
    ⟨_, (Dev.croft_congr hcrofts _).trans hcroft, rfl, rfl, rfl, rfl, rfl, rfl, rfl⟩, hg.trans hgen, hm.trans hmem⟩

end

/-- A marked slot that stays for want of a SPARE slot is logged, when the last entry is a day old. -/
theorem State.ageNoSpare_logged (hk : s.dev.nearestSpare n.val = none)
    (hday : ∀ at_, t.noSpareAt = some at_ → at_ + 86400000000000 ≤ s.dev.elapsedNs) :
    Answers (.ageNoSpare n) s fun e => e.slots = (s.dev.onSlot n fun u => { u with noSpareAt := some s.dev.elapsedNs }).slots
      ∧ e.crofts = s.dev.crofts ∧ e.mem = s.dev.mem ∧ e.logs.count = satAdd 64 s.dev.logs.count 1 := by
  have hall : t.noSpareAt.all (fun at_ => decide (at_ + dayNs ≤ s.dev.elapsedNs)) = true := by
    cases h : t.noSpareAt with
    | none => rfl
    | some at_ =>
      rw [Option.all_some, decide_eq_true_iff, dayNs]
      exact hday at_ h
  refine answers_of_effect (f := powered (Dev.ageNoSpare n)) rfl fun e he => ?_
  rw [powered_on hmain] at he
  simp only [Dev.ageNoSpare, ht, hmark, hactive, hk, hall, BEq.rfl, Option.isNone_none, Bool.and_self, if_true] at he
  obtain ⟨_, _, hslots, _, hcrofts, _, _, hmem, _⟩ := Dev.bare_congr he
  obtain ⟨_, hcount, _⟩ := Dev.bare_congr_rest he
  exact ⟨hslots, hcrofts, hmem, hcount.trans (Dev.count_eventOpen _ _ _ _)⟩

end

end

/-- Settles O30: the checks of the generators, the age measurement, and the retirement of a slot with and without a croft. -/
theorem slotChecksAndAgeing : Obligations.SlotChecksAndAgeing := by
  unfold Obligations.SlotChecksAndAgeing
  refine ⟨⟨fun s good hmain hidle => State.generatorCheck_all hmain good hidle,
    fun s n t hmain ht hbare hkat hopen hnone => ?_⟩, fun s n t hmain ht => ?_⟩
  · have hcheck := State.checkable hmain hbare hkat hopen
    exact ⟨State.generatorCheck_good hmain ht hcheck hnone, State.generatorCheck_bad hmain ht hcheck hnone⟩
  · exact ⟨fun aged ref hon => State.ageMeasure_on ht hon aged ref,
      fun hmark hactive hbare hgo => State.ageRetire_bare hmain ht hmark hactive hbare hgo,
      fun x job k hmark hactive hc hx hj hfree hk hready hmove hread h80 =>
        State.ageRetire_spare hmain ht hmark hactive hc hx hj hmove hread hfree hk hready h80,
      fun x job hmark hactive hc hx hj hk hlimit hmove hread _ =>
        State.ageRetire_forced hmain ht hmark hactive hc hx hj hmove hread hk hlimit,
      fun hmark hactive hk hday => State.ageNoSpare_logged hmain ht hmark hactive hk hday⟩

end Sys2Proof.Machine
end

section
/-!
SUPPORT. Obligations.Launches fails: a job of more than 256 crofts. R312 opens none, but the statement is about every state, and
a state may hold one. There a FIELD_RUN may name croft 256: it lies within the job's range, so the command is not refused, but no
croft has that number. The checks of its lanes are then made for no croft, while the command runs croft 0 (its number mod 256).
-/

namespace Sys2Proof.Machine

/-- A command answers the conjunction of what it answers. -/
theorem Answers.and {i : Instr} {s : State} {P Q : Dev → Prop} (hp : Answers i s P) (hq : Answers i s Q) :
    Answers i s fun t => P t ∧ Q t := by
  obtain ⟨t, ht, hpend, hP⟩ := hp
  obtain ⟨u, hu, _, hQ⟩ := hq
  have htu : t = u := by
    have h := ht.symm.trans hu
    injection h
  exact ⟨t, ht, hpend, hP, htu ▸ hQ⟩

/-! ## The state -/

/-- A job of 300 crofts, in free mode, on one device. -/
def wideJob : Job where
  params := ⟨1, [], 0, 1, 7, false, true, false, false, 0, 0, 300, 1, false, false, 0x300, 0⟩
  collKey := List.replicate 32 0
  devs := [0x7FFF]
  closing := false
  fault := none
  ledger := Ledger.new []
  colls := []
  standing := []
  bound := true
  devLists := []
  remaps := 0

/-- Its croft 0, which runs and has no slot. -/
def wideCroft : Croft :=
  { Croft.first 0 0 wideJob with seq := { Sequencer.idle with state := .running } }

/-- A FIELD_RUN of croft 256 that has started. -/
def wideRun : Cmd where
  id := 3
  queue := 5
  entry := leBytes 4 6 ++ leBytes 4 42 ++ leBytes 4 1 ++ List.replicate 20 0 ++ leBytes 4 256 ++ leBytes 4 1 ++ leBytes 8 0x400
    ++ leBytes 8 0x40000 ++ leBytes 8 0 ++ leBytes 8 0x50000 ++ List.replicate 56 0
  job := some 0
  state := .running
  begun := false
  fetched := 0
  opener := false
  startTime := 9
  status := 0
  cflags := 0
  result := 0
  detail := 0

/-- A powered device with every stack backed, slot 0 ACTIVE, checked and free, and the Well disabled. -/
def wideDev : Dev := { Dev.reset with
  power := { Power.factory with main := true }
  boot := { Boot.factory with step := 8, genKat := 1 }
  units := { MemUnits.factory with hbmPresent := 0xFFF, hbmBacked := List.replicate 12 (2 ^ 36) }
  slots := Dev.reset.slots.set 0 { Slot.factory with spare := .active, island := .idle, checked := true }
  jobs := Dev.reset.jobs.set 0 (some wideJob)
  crofts := [wideCroft]
  cmds := [wideRun] }

/-! ## What the statement asks of it -/

theorem wideCroft_shaped : wideCroft.Shaped :=
  ⟨rfl, rfl, rfl, rfl, rfl, rfl, rfl, rfl, rfl, rfl, rfl, rfl, rfl, rfl, rfl, rfl, rfl⟩

/-- The FIELD_RUN starts, no check refuses it, and it may bind its croft now. -/
theorem wideDev_starts : wideDev.started 3 6 = some (wideRun, 0, wideJob) ∧ lowest (wideDev.runFaults wideRun 0 wideJob) = none
    ∧ wideDev.bindsNow wideRun 0 wideJob = true := by
  decide

theorem wideDev_memoriesWf : wideDev.memoriesWf := by
  refine ⟨by decide, fun x hx => ?_, by decide, by decide, by decide, by decide⟩
  rw [List.mem_singleton.mp hx]
  rfl

/-- The croft it runs is croft 0. -/
theorem wideRun_croft : Fin.ofNat 256 (leAt wideRun.entry 0x20 2) = 0 := by decide

theorem wideDev_croft : wideDev.croft ⟨0, 0⟩ = some wideCroft := rfl

/-- The Well refuses the states of the croft when it is bound, and the job halts. -/
theorem wideDev_halts : ((wideDev.fieldRun 3).croft ⟨0, 0⟩).map (·.seq.state) = some .halted := by decide

/-- Refutes O38, by its second clause: the FIELD_RUN of croft 256 in a job of 300 crofts halts croft 0, which is not left to
Reeves. -/
theorem not_launches : ¬ Obligations.Launches := by
  unfold Obligations.Launches
  rintro ⟨_, hrun, _⟩
  obtain ⟨hstart, hfaults, hbinds⟩ := wideDev_starts
  let s : State := ⟨[], wideDev⟩
  have hruns := hrun s 3 wideRun 0 wideJob hstart hfaults hbinds wideDev_memoriesWf
  rw [wideRun_croft] at hruns
  have hreeve := hruns fun x hx => by
    rw [← Option.some_inj.mp (wideDev_croft.symm.trans hx)]
    exact ⟨nofun, wideCroft_shaped⟩
  have hhalts : Answers (.fieldRun 3) s fun t => (t.croft ⟨0, 0⟩).map (·.seq.state) = some .halted := by
    refine answers_of_effect (f := Dev.fieldRun 3) rfl fun t ht => ?_
    obtain ⟨_, _, _, _, hcrofts, _⟩ := Dev.bare_congr ht
    rw [Dev.croft_congr hcrofts]
    exact wideDev_halts
  obtain ⟨t, _, _, ⟨_, _, y, hy, hstate, _⟩, hhalt⟩ := hreeve.and hhalts
  rw [hy, Option.map_some, hstate] at hhalt
  exact nomatch hhalt

end Sys2Proof.Machine
end

section
/-!
SUPPORT. The main rails going off (16_power_clocks_thermal.md R441 to R444, R453), for Obligations.MainRails: the links that
leave, and what a fault, a lost clock and a requested power-down do beside.
-/

namespace Sys2Proof.Machine

/-- How many Fohal links of a device stand. -/
def Dev.linksUp (d : Dev) : Nat := ((List.range 12).filter fun p => (d.port p).any Port.joined).length

/-- A device with its main rails off, as the statement has it: what `d` held in jobs, crofts, commands and memory is lost, its
fuses, images and settings stay, and no port is up. -/
def Dev.Off (d t : Dev) : Prop := t.power.main = false ∧ t.crofts = [] ∧ t.cmds = [] ∧ t.mem = []
  ∧ t.jobs = d.jobs.map (fun _ => none) ∧ t.fuses = d.fuses ∧ t.boot.flash = d.boot.flash ∧ t.settings = d.settings
  ∧ t.live = d.live ∧ (∀ q ∈ t.fabric.ports, q.state = .down)

theorem Dev.Off.of_bare {d e t : Dev} (ht : t.bare = e.bare) (h : d.Off e) : d.Off t := by
  obtain ⟨hmain, hcrofts, hcmds, hmem, hjobs, hfuses, hflash, hset, hlive, hports⟩ := h
  obtain ⟨hfu, _, _, hj, hc, hcm, _, hm, _, _, hp, hb, _, hfa, hs, _⟩ := Dev.bare_congr ht
  obtain ⟨_, _, _, hl, _⟩ := Dev.bare_congr_rest ht
  exact ⟨(congrArg (·.main) hp).trans hmain, hc.trans hcrofts, hcm.trans hcmds, hm.trans hmem, hj.trans hjobs, hfu.trans hfuses,
    (congrArg (·.flash) hb).trans hflash, hs.trans hset, hl.trans hlive, hfa ▸ hports⟩

section
variable {d : Dev}

/-- Every link of a list of ports that stands leaves with one record. -/
theorem Dev.foldl_linkLeave (l : List Nat) (d : Dev) :
    ∃ logs k, l.foldl (fun d p => if (d.port p).any Port.joined then d.eventNamed .linkLeave 4 p else d) d
        = { d with logs := logs, freeCount := k }
      ∧ satAdd 64 logs.count 1 = satAdd 64 d.logs.count ((l.filter fun p => (d.port p).any Port.joined).length + 1)
      ∧ (d.logs.count < 2 ^ 64 → logs.count = satAdd 64 d.logs.count (l.filter fun p => (d.port p).any Port.joined).length) := by
  induction l generalizing d with
  | nil => exact ⟨d.logs, d.freeCount, rfl, rfl, fun h => by simp only [satAdd, List.filter_nil, List.length_nil]; omega⟩
  | cons p l ih =>
    by_cases hp : (d.port p).any Port.joined = true
    · obtain ⟨logs, k, he, hone, hall⟩ := ih (d.eventNamed .linkLeave 4 p)
      have hcount : (d.eventNamed .linkLeave 4 p).logs.count = satAdd 64 d.logs.count 1 := Dev.count_eventOpen d _ 4 p
      have hfilter : (l.filter fun q => ((d.eventNamed .linkLeave 4 p).port q).any Port.joined)
        = l.filter fun q => (d.port q).any Port.joined := rfl
      rw [hcount, hfilter] at hone hall
      refine ⟨logs, k, ?_, ?_, fun _ => ?_⟩
      · rw [List.foldl_cons, if_pos hp, he]
        rfl
      · rw [hone]
        simp only [List.filter_cons, hp, if_true, List.length_cons, satAdd]
        omega
      · rw [hall (by simp only [satAdd]; omega)]
        simp only [List.filter_cons, hp, if_true, List.length_cons, satAdd]
        omega
    · obtain ⟨logs, k, he, hone, hall⟩ := ih d
      refine ⟨logs, k, ?_, ?_⟩
      · rw [List.foldl_cons, if_neg hp, he]
      · simp only [List.filter_cons, hp, Bool.false_eq_true, if_false]
        exact ⟨hone, hall⟩

/-- The links going down change the ports, and the log by a record for each. -/
theorem Dev.linksDown_spec (d : Dev) : ∃ logs k,
    d.linksDown = { d with
      logs := logs, freeCount := k, fabric := { d.fabric with ports := d.fabric.ports.map Port.fallen, mismatch := [] } }
    ∧ satAdd 64 logs.count 1 = satAdd 64 d.logs.count (d.linksUp + 1)
    ∧ (d.logs.count < 2 ^ 64 → logs.count = satAdd 64 d.logs.count d.linksUp) := by
  obtain ⟨logs, k, h, hone, hall⟩ := Dev.foldl_linkLeave (List.range 12) d
  refine ⟨logs, k, ?_, hone, hall⟩
  unfold Dev.linksDown
  rw [h]

/-- The main rails off. -/
theorem Dev.mainOff_spec (d : Dev) : d.Off d.mainOff ∧ d.mainOff.pins = d.pins ∧ d.mainOff.power.standbyDue = false
    ∧ d.mainOff.hub.commits = d.hub.commits
    ∧ satAdd 64 d.mainOff.logs.count 1 = satAdd 64 d.logs.count (d.linksUp + 1)
    ∧ (d.logs.count < 2 ^ 64 → d.mainOff.logs.count = satAdd 64 d.logs.count d.linksUp) := by
  obtain ⟨logs, k, h, hone, hall⟩ := d.linksDown_spec
  unfold Dev.mainOff
  rw [h]
  refine ⟨⟨rfl, rfl, rfl, rfl, rfl, rfl, rfl, rfl, rfl, fun q hq => ?_⟩, rfl, rfl, rfl, hone, hall⟩
  obtain ⟨p, _, rfl⟩ := List.mem_map.mp hq
  rfl

/-- A fault of power: the main rails off, FATAL_N and one record of the fault; the device powers up again once it may. -/
theorem Dev.powerFault_spec {t : Dev} (code : Nat)
    (ht : t.bare = ((d.powerFault code).onPower fun p => { p with readyDue := true }).bare) :
    d.Off t ∧ t.pins = { d.pins with fatal := true } ∧ t.power.readyDue = true ∧ t.hub.commits = List.replicate 5 none
      ∧ t.logs.count = satAdd 64 d.logs.count (d.linksUp + 1) := by
  obtain ⟨hoff, hpins, _, _, hone, _⟩ := d.mainOff_spec
  unfold Dev.powerFault at ht
  generalize d.mainOff = m at hoff hpins hone ht
  obtain ⟨_, _, _, _, _, _, _, _, _, hp, hpower, _⟩ := Dev.bare_congr ht
  obtain ⟨_, hcount, hcommits, _⟩ := Dev.bare_congr_rest ht
  refine ⟨Dev.Off.of_bare ht hoff, hp.trans ?_, congrArg (·.readyDue) hpower, hcommits,
    hcount.trans ((Logs.count_write m.logs _ _ _ _ _ _).trans hone)⟩
  exact congrArg (fun p : Pins => { p with fatal := true }) hpins

end

section
variable {s : State}

/-- A fault of power, or the loss of PWR_GOOD_IN. -/
theorem State.powerFail_on (lost : Bool) (hmain : s.dev.power.main = true) (hreset : s.dev.pins.resetIn = false) :
    Answers (.powerFail lost) s fun t => s.dev.Off t
      ∧ t.pins.fatal = true ∧ t.power.readyDue = true ∧ t.pins.pwrGood = (if lost then false else s.dev.pins.pwrGood)
      ∧ t.hub.commits = List.replicate 5 none ∧ t.logs.count = satAdd 64 s.dev.logs.count (s.dev.linksUp + 1) := by
  refine answers_of_effect (f := Dev.powerFail lost) rfl fun t ht => ?_
  cases lost with
  | false =>
    simp only [Dev.powerFail, hmain, hreset, Bool.not_true, Bool.or_self, Bool.false_eq_true, if_false] at ht
    obtain ⟨hoff, hp, hready, hcommits, hcount⟩ := Dev.powerFault_spec 0x0C01 ht
    exact ⟨hoff, congrArg (·.fatal) hp, hready, congrArg (·.pwrGood) hp, hcommits, hcount⟩
  | true =>
    simp only [Dev.powerFail, hmain, hreset, Bool.not_true, Bool.or_self, Bool.false_eq_true, if_false, if_true] at ht
    obtain ⟨hoff, hp, hready, hcommits, hcount⟩ := Dev.powerFault_spec 0x0C01 ht
    exact ⟨hoff, congrArg (·.fatal) hp, hready, congrArg (·.pwrGood) hp, hcommits, hcount⟩

/-- The reference clock lost while the main rails are on. -/
theorem State.clockLost_on (hmain : s.dev.power.main = true) (hreset : s.dev.pins.resetIn = false)
    (href : s.dev.power.refUnlocked = true) : Answers .clockLost s fun t => s.dev.Off t
      ∧ t.pins.fatal = true ∧ t.power.readyDue = true ∧ t.hub.commits = List.replicate 5 none
      ∧ t.logs.count = satAdd 64 s.dev.logs.count (s.dev.linksUp + 1) := by
  refine answers_of_effect (f := Dev.clockLost) rfl fun t ht => ?_
  have hon : (s.dev.onPower fun p => { p with refAbsent := true }).power.main = true := hmain
  have hin : (s.dev.onPower fun p => { p with refAbsent := true }).pins.resetIn = false := hreset
  simp only [Dev.clockLost, href, hon, hin, Bool.not_true, Bool.not_false, Bool.and_self, Bool.false_eq_true, if_false,
    if_true] at ht
  obtain ⟨hoff, hp, hready, hcommits, hcount⟩ := Dev.powerFault_spec 0x0C02 ht
  exact ⟨hoff, congrArg (·.fatal) hp, hready, hcommits, hcount⟩

/-- The reference clock lost in Standby. -/
theorem State.clockLost_off (hmain : s.dev.power.main = false) (href : s.dev.power.refUnlocked = true) :
    Becomes .clockLost s { s.dev with power := { s.dev.power with refAbsent := true } } := by
  refine answers_of_effect (f := Dev.clockLost) rfl fun t ht => ?_
  have hon : (s.dev.onPower fun p => { p with refAbsent := true }).power.main = false := hmain
  simp only [Dev.clockLost, href, hon, Bool.not_true, Bool.false_and, Bool.false_eq_true, if_false] at ht
  exact ht

/-- A requested power-down, once no job is open. -/
theorem State.powerDown_due (hdue : s.dev.power.standbyDue = true) (hno : s.dev.noJob = true) :
    Answers .powerDown s fun t => s.dev.Off t ∧ t.pins = s.dev.pins
      ∧ t.power.standbyDue = false ∧ t.power.readyDue = false ∧ t.hub.commits = s.dev.hub.commits
      ∧ (s.dev.logs.count < 2 ^ 64 → t.logs.count = satAdd 64 s.dev.logs.count s.dev.linksUp) := by
  refine answers_of_effect (f := Dev.powerDown) rfl fun t ht => ?_
  obtain ⟨hoff, hpins, hdown, hkept, _, hall⟩ := s.dev.mainOff_spec
  simp only [Dev.powerDown, hdue, hno, Bool.and_self, if_true] at ht
  generalize s.dev.mainOff = m at hoff hpins hdown hkept hall ht
  obtain ⟨_, _, _, _, _, _, _, _, _, hp, hpower, _⟩ := Dev.bare_congr ht
  obtain ⟨_, hcount, hcommits, _⟩ := Dev.bare_congr_rest ht
  exact ⟨Dev.Off.of_bare ht hoff, hp.trans hpins, (congrArg (·.standbyDue) hpower).trans hdown,
    congrArg (·.readyDue) hpower, hcommits.trans hkept, fun h => hcount.trans (hall h)⟩

/-- A power-down waits while a job is open. -/
theorem State.powerDown_waits (hjob : s.dev.noJob = false) : Becomes .powerDown s s.dev := by
  refine answers_of_effect (f := Dev.powerDown) rfl fun t ht => ?_
  simpa only [Dev.powerDown, hjob, Bool.and_false, Bool.false_eq_true, if_false] using ht

end

end Sys2Proof.Machine
end

section
/-!
SUPPORT. The power-up sequence (15_boot_firmware_security.md R427, R428; 16_power_clocks_thermal.md R442), stage by stage, for
Obligations.MainRails.
-/

namespace Sys2Proof.Machine

/-! ## Images in use -/

/-- A boot state that agrees with another in its flash, its directories and the images that run of classes 0 to 4. -/
def Boot.Alike (b b' : Boot) : Prop := b'.flash = b.flash ∧ b'.dirs = b.dirs ∧ b'.running.length = b.running.length
  ∧ ∀ c < 5, b'.running.getD c none = b.running.getD c none

section
variable {b b' b'' : Boot}

theorem Boot.Alike.flash (h : b.Alike b') : b'.flash = b.flash := h.1
theorem Boot.Alike.dirs (h : b.Alike b') : b'.dirs = b.dirs := h.2.1
theorem Boot.Alike.classes (h : b.Alike b') : b'.running.length = b.running.length := h.2.2.1
theorem Boot.Alike.running (h : b.Alike b') : ∀ c < 5, b'.running.getD c none = b.running.getD c none := h.2.2.2

theorem Boot.Alike.trans (h : b.Alike b') (h' : b'.Alike b'') : b.Alike b'' :=
  ⟨h'.flash.trans h.flash, h'.dirs.trans h.dirs, h'.classes.trans h.classes,
    fun c hc => (h'.running c hc).trans (h.running c hc)⟩

theorem Boot.Alike.inUse (h : b.Alike b') {c : Nat} (hc : c < 5) : b'.inUse c = b.inUse c := by
  have h6 : c ≠ 6 := by omega
  simp only [Boot.inUse, if_neg h6, h.running c hc]

theorem Boot.Alike.refl (b : Boot) : b.Alike b := ⟨rfl, rfl, rfl, fun _ _ => rfl⟩

theorem Boot.Alike.staged (h : b.Alike b') (l : List Nat) : b.Alike { b' with stagedVersion := l } :=
  ⟨h.flash, h.dirs, h.classes, h.running⟩

theorem Boot.active_congr (h : b'.dirs = b.dirs) (c : Nat) : b'.active c = b.active c := by
  simp only [Boot.active, Boot.governing, h]

theorem Boot.slotImage_congr (h : b'.flash = b.flash) (slotB : Bool) (c : Nat) : b'.slotImage slotB c = b.slotImage slotB c := by
  simp only [Boot.slotImage, h]

/-- The image that the directory makes active for a class. -/
def Boot.choice (b : Boot) (c : Nat) : RunImage := ⟨b.active c, b.slotImage (b.active c) c⟩

theorem Boot.choice_congr (hf : b'.flash = b.flash) (hd : b'.dirs = b.dirs) (c : Nat) : b'.choice c = b.choice c := by
  simp only [Boot.choice, Boot.active_congr hd, Boot.slotImage_congr hf]

theorem Boot.inUse_use_same (b : Boot) {c : Nat} (hc : c < b.running.length) (h6 : c ≠ 6) (img : RunImage) :
    (b.use c img).inUse c = some img.bytes := by
  simp [Boot.inUse, Boot.use, Boot.loadCores, h6, hc]

theorem Boot.inUse_use_other (b : Boot) {c k : Nat} (h : c ≠ k) (img : RunImage) : (b.use k img).inUse c = b.inUse c := by
  simp [Boot.inUse, Boot.use, Boot.loadCores, List.getD_eq_getElem?_getD, List.getElem?_set_ne (Ne.symm h)]

/-- Using an image of the network class leaves the classes before it as they are. -/
theorem Boot.Alike.use_last (b : Boot) (img : RunImage) : b.Alike (b.use 5 img) := by
  refine ⟨rfl, rfl, by simp [Boot.use, Boot.loadCores], fun c hc => ?_⟩
  have h5 : 5 ≠ c := by omega
  simp [Boot.use, Boot.loadCores, List.getD_eq_getElem?_getD, List.getElem?_set_ne h5]

end

/-! ## A class that boots -/

section
variable {d : Dev}

/-- A device whose active image of a class is sound, and of the bundle of Watch `w`, as the statement has it. -/
def Dev.Sound (d : Dev) (w : List Byte) (c : Nat) : Prop := d.boot.inUse 0 = some w
  ∧ d.fuses.imageFault c (d.boot.choice c).bytes = none ∧ imageBundle (d.boot.choice c).bytes / 256 = imageBundle w / 256

/-- A sound image of a class after the first is verified. -/
theorem Dev.Sound.verified {w : List Byte} {c : Nat} (h : d.Sound w c) :
    d.verifyImage false c (d.boot.choice c).slotB (d.boot.choice c).bytes = none := by
  obtain ⟨hwatch, hsound, hsame⟩ := h
  have hbundle : d.bundleBad false c (d.boot.choice c).slotB (d.boot.choice c).bytes = false := by
    unfold Dev.bundleBad
    rw [hwatch]
    simp [hsame]
  unfold Dev.verifyImage
  rw [hsound]
  exact if_neg (by rw [hbundle]; exact Bool.false_ne_true)

/-- A sound image is the one that boots. -/
theorem Dev.Sound.bootClass {w : List Byte} {c : Nat} (h : d.Sound w c) :
    d.bootClass false c = { d with boot := d.boot.use c (d.boot.choice c) } := by
  have hv : d.verifyImage false c (d.boot.active c) (d.boot.slotImage (d.boot.active c) c) = none := h.verified
  unfold Dev.bootClass
  simp only
  rw [hv]
  rfl

/-- The class that boots last changes what an image of its own changes, and the log. -/
theorem Dev.bootClass_last (d : Dev) : ∃ boot logs k, d.bootClass false 5 = { d with boot := boot, logs := logs, freeCount := k }
    ∧ d.boot.Alike boot := by
  unfold Dev.bootClass
  simp only
  split
  · exact ⟨_, d.logs, d.freeCount, rfl, .use_last _ _⟩
  · split
    · exact ⟨_, _, _, rfl, (Boot.Alike.use_last d.boot _).staged _⟩
    · exact ⟨d.boot, _, d.freeCount, rfl, .refl _⟩

/-! ## Fuses that waited for the power-up -/

/-- A device that differs from another in its fuses, in what waits for them, and in the log. -/
def Dev.Blown (d e : Dev) : Prop := ∃ fuses boot logs, e = { d with fuses := fuses, boot := boot, logs := logs }
  ∧ d.boot.Alike boot ∧ boot.released = d.boot.released ∧ boot.step = d.boot.step

theorem Dev.Blown.refl (d : Dev) : d.Blown d := ⟨_, _, _, rfl, .refl _, rfl, rfl⟩

theorem Dev.Blown.trans {e f : Dev} (h : d.Blown e) (h' : e.Blown f) : d.Blown f := by
  obtain ⟨_, _, _, rfl, hb, hr, hs⟩ := h
  obtain ⟨_, _, _, rfl, hb', hr', hs'⟩ := h'
  exact ⟨_, _, _, rfl, hb.trans hb', hr'.trans hr, hs'.trans hs⟩

/-- A raised rollback count changes fuses, its request and the log. -/
theorem Dev.blown_raiseRollback (d : Dev) (c : Nat) (run : FuseRun) : d.Blown (d.raiseRollback c run) := by
  have hend (e : Dev) (code : Nat) : e.Blown (e.endRequest c code) := by
    unfold Dev.endRequest
    simp only
    split
    · exact ⟨_, _, _, rfl, ⟨rfl, rfl, rfl, fun _ _ => rfl⟩, rfl, rfl⟩
    · exact ⟨_, _, _, rfl, ⟨rfl, rfl, rfl, fun _ _ => rfl⟩, rfl, rfl⟩
  have hconfirm (e : Dev) : e.Blown { e with boot := { e.boot with confirm := none } } :=
    ⟨_, _, _, rfl, ⟨rfl, rfl, rfl, fun _ _ => rfl⟩, rfl, rfl⟩
  have hfuses (fuses : Fuses) : d.Blown { d with fuses := fuses } := ⟨_, _, _, rfl, .refl _, rfl, rfl⟩
  unfold Dev.raiseRollback
  simp only
  split
  · exact ((hfuses _).trans (hconfirm _)).trans (hend _ _)
  · split
    · exact ((hfuses _).trans (hconfirm _)).trans (hend _ _)
    · exact hfuses _

/-- A revoked key changes fuses, its request and the log. -/
theorem Dev.blown_revoke (d : Dev) (k : Nat) (run : FuseRun) : d.Blown (d.revoke k run) := by
  unfold Dev.revoke
  simp only
  split
  · exact ⟨_, _, _, rfl, ⟨rfl, rfl, rfl, fun _ _ => rfl⟩, rfl, rfl⟩
  · split
    · exact ⟨_, _, _, rfl, ⟨rfl, rfl, rfl, fun _ _ => rfl⟩, rfl, rfl⟩
    · exact .refl d

theorem Dev.blown_serveFuses (d : Dev) : d.Blown d.serveFuses := by
  have hretired (e : Dev) : e.Blown e.recordRetired := ⟨_, _, _, rfl, ⟨rfl, rfl, rfl, fun _ _ => rfl⟩, rfl, rfl⟩
  have hrevoke (e : Dev) : e.Blown (match e.boot.revoke with
      | some r => e.revoke (leAt r.1 0 1) r.2.2
      | none => e) := by
    split
    · exact e.blown_revoke _ _
    · exact .refl e
  unfold Dev.serveFuses
  split
  · exact .refl d
  · split
    · exact ((d.blown_raiseRollback _ _).trans (hrevoke _)).trans (hretired _)
    · exact (hrevoke d).trans (hretired _)

/-- The Well's check of its cells changes the Well, and the log, when it has no requests. -/
theorem Dev.wellCheck_spec (h : d.well.requests = []) : ∃ well logs, d.wellCheck = { d with well := well, logs := logs } := by
  unfold Dev.wellCheck
  split
  · simp only [Dev.wellFail, Dev.wellEmpty]
    have hr : (d.event 0x0806 3 0 0 0).well.requests = [] := h
    rw [hr]
    exact ⟨_, _, rfl⟩
  · exact ⟨d.well, d.logs, rfl⟩

end

end Sys2Proof.Machine
end

section
/-!
SUPPORT. The generator checks of a power-up (04_lane_generators.md R123; 15_boot_firmware_security.md R427 step 7), for
Obligations.MainRails: each ACTIVE slot is checked, or FENCED.
-/

namespace Sys2Proof.Machine

/-- A slot after its check: one in Idle is checked, or FENCED and off when its generators are bad. -/
def Slot.afterCheck (isBad : Bool) (t : Slot) : Slot :=
  if t.island == .idle then
    if isBad then { t.off with spare := .fenced } else { t with checked := true, island := .idle }
  else t

/-- A device without crofts whose polynomials have been checked, and whose slots in Idle are ACTIVE. -/
def Dev.ToCheck (d : Dev) : Prop :=
  d.crofts = [] ∧ d.boot.genKat ≠ 0 ∧ ∀ n t, d.slot n = some t → t.island = .idle → t.spare = .active

/-- A device that differs from another in its slots, in what the checks tell of themselves, and in the log. -/
def Dev.Checked (d e : Dev) : Prop :=
  (∃ slots boot logs k, e = { d with slots := slots, boot := boot, logs := logs, freeCount := k })
    ∧ d.boot.Alike e.boot ∧ e.slots.length = d.slots.length

section
variable {d e : Dev}

theorem Dev.ToCheck.idle (h : d.ToCheck) : ∀ n t, d.slot n = some t → t.island = .idle → t.spare = .active := h.2.2

theorem Dev.Checked.length (h : d.Checked e) : e.slots.length = d.slots.length := h.2.2

theorem Dev.Checked.refl (d : Dev) : d.Checked d := ⟨⟨_, _, _, _, rfl⟩, .refl _, rfl⟩

theorem Dev.Checked.trans {f : Dev} (h : d.Checked e) (h' : e.Checked f) : d.Checked f := by
  obtain ⟨⟨_, _, _, _, rfl⟩, ha, hl⟩ := h
  obtain ⟨⟨_, _, _, _, rfl⟩, ha', hl'⟩ := h'
  exact ⟨⟨_, _, _, _, rfl⟩, ha.trans ha', hl'.trans hl⟩

/-- The check of one slot at a power-up. -/
def Dev.checkSlot (bad : List (Fin 80)) (d : Dev) (n : Fin 80) : Dev :=
  match d.slot n with
  | some t => if t.island == .idle then d.generatorCheck (some n) (!bad.contains n) else d
  | none => d

/-- All checks of a power-up: steps 1 to 3, and each slot in turn. -/
theorem Dev.allChecks_eq (bad : List (Fin 80)) (d : Dev) :
    d.allChecks bad = (List.finRange 80).foldl (Dev.checkSlot bad) (d.polysChecked (polyGood false && polyGood true)) := rfl

/-- The polynomials' check at a power-up. -/
theorem Dev.polysChecked_spec (right : Bool) (d : Dev) : d.Checked (d.polysChecked right)
    ∧ (d.polysChecked right).slots = d.slots ∧ (d.polysChecked right).crofts = d.crofts ∧ (d.polysChecked right).boot.genKat ≠ 0 := by
  have hkat : (if right then 1 else 2) ≠ 0 := by cases right <;> decide
  unfold Dev.polysChecked
  generalize (if right then 1 else 2) = kat at hkat ⊢
  simp only
  split
  · exact ⟨⟨⟨_, _, _, _, rfl⟩, ⟨rfl, rfl, rfl, fun _ _ => rfl⟩, rfl⟩, rfl, rfl, hkat⟩
  · exact ⟨⟨⟨_, _, _, _, rfl⟩, ⟨rfl, rfl, rfl, fun _ _ => rfl⟩, rfl⟩, rfl, rfl, hkat⟩

section
variable {n : Fin 80} {t : Slot} (h : d.ToCheck) (ht : d.slot n = some t) (bad : List (Fin 80))

/-- A slot that is not in Idle is left alone. -/
theorem Dev.checkSlot_skips (hidle : ∀ t, d.slot n = some t → t.island ≠ .idle) : d.checkSlot bad n = d := by
  unfold Dev.checkSlot
  split
  · next t ht => exact if_neg (by rw [beq_iff_eq]; exact hidle t ht)
  · rfl

include h ht

/-- A slot in Idle is checked, or fenced. -/
theorem Dev.ToCheck.checkSlot_idle (hidle : t.island = .idle) :
    d.Checked (d.checkSlot bad n) ∧ (d.checkSlot bad n).crofts = [] ∧ (d.checkSlot bad n).boot.genKat ≠ 0
      ∧ ∀ m, (d.checkSlot bad n).slot m = if m = n then some (t.afterCheck (bad.contains n)) else d.slot m := by
  obtain ⟨hno, hkat, hact⟩ := h
  have hcarried : d.carried n = none := by rw [Dev.carried, hno]; rfl
  have hcheck : d.checkable n t = true := by simp [Dev.checkable, hcarried, hkat, hact n t ht hidle, hidle]
  have hisIdle : (t.island == .idle) = true := by rw [hidle]; rfl
  have hnone : ∀ x ∈ d.crofts, ¬ (x.paused = true ∧ x.vacated = some n) :=
    fun x hx => absurd hx (by rw [hno]; exact List.not_mem_nil)
  have hslot (f : Slot → Slot) (m : Fin 80) : (d.onSlot n f).slot m = if m = n then some (f t) else d.slot m := by
    rw [Dev.slot_onSlot]
    split
    · next hmn => rw [hmn, ht, Option.map_some]
    · rfl
  have hstep : d.checkSlot bad n = d.generatorCheck (some n) (!bad.contains n) := by
    unfold Dev.checkSlot
    rw [ht]
    exact if_pos hisIdle
  rw [hstep, Slot.afterCheck, if_pos hisIdle]
  cases bad.contains n with
  | false =>
    rw [Bool.not_false, Dev.generatorCheck_good ht hcheck hnone]
    exact ⟨⟨⟨_, _, _, _, rfl⟩, .refl _, modifyAt_length _ _ _⟩, hno, hkat, hslot _⟩
  | true =>
    rw [Bool.not_true, Dev.generatorCheck_bad ht hcheck hnone]
    exact ⟨⟨⟨_, _, _, _, rfl⟩, ⟨rfl, rfl, rfl, fun _ _ => rfl⟩, modifyAt_length _ _ _⟩, hno, nofun, hslot _⟩

end

/-- A checked slot in Idle is ACTIVE as it was. -/
theorem Slot.afterCheck_idle {isBad : Bool} {t : Slot} (h : (t.afterCheck isBad).island = .idle) :
    t.island = .idle ∧ (t.afterCheck isBad).spare = t.spare := by
  unfold Slot.afterCheck at h ⊢
  split at h
  · next hi =>
    cases isBad with
    | false => exact ⟨beq_iff_eq.mp hi, by simp [hi]⟩
    | true => exact nomatch h
  · next hi => exact ⟨h, by rw [if_neg hi]⟩

/-- The check of one slot checks it or fences it, and leaves the others. -/
theorem Dev.ToCheck.checkSlot (h : d.ToCheck) (bad : List (Fin 80)) (n : Fin 80) :
    d.Checked (d.checkSlot bad n) ∧ (d.checkSlot bad n).ToCheck
      ∧ ∀ m, (d.checkSlot bad n).slot m = if m = n then (d.slot m).map (Slot.afterCheck (bad.contains n)) else d.slot m := by
  by_cases hidle : ∃ t, d.slot n = some t ∧ t.island = .idle
  · obtain ⟨t, ht, hi⟩ := hidle
    obtain ⟨hc, hno, hkat, hslot⟩ := h.checkSlot_idle ht bad hi
    refine ⟨hc, ⟨hno, hkat, fun m u hu hui => ?_⟩, fun m => ?_⟩
    · rw [hslot] at hu
      split at hu
      · obtain rfl := Option.some_inj.mp hu
        obtain ⟨hti, hsp⟩ := Slot.afterCheck_idle hui
        exact hsp.trans (h.idle n t ht hti)
      · exact h.idle m u hu hui
    · rw [hslot]
      split
      · next hmn => rw [hmn, ht, Option.map_some]
      · rfl
  · have hskip := Dev.checkSlot_skips bad fun t ht hi => hidle ⟨t, ht, hi⟩
    rw [hskip]
    refine ⟨.refl d, h, fun m => ?_⟩
    split
    · next hmn =>
      subst hmn
      cases ht : d.slot m with
      | none => rfl
      | some t =>
        have hi : (t.island == .idle) = false := beq_eq_false_iff_ne.mpr fun hi => hidle ⟨t, ht, hi⟩
        simp only [Option.map_some, Slot.afterCheck, hi, Bool.false_eq_true, if_false]
    · rfl

/-- The checks of a list of slots, each once. -/
theorem Dev.ToCheck.foldl (bad l : List (Fin 80)) {d : Dev} (h : d.ToCheck) (hl : l.Nodup) :
    d.Checked (l.foldl (Dev.checkSlot bad) d)
      ∧ ∀ m, (l.foldl (Dev.checkSlot bad) d).slot m = if m ∈ l then (d.slot m).map (Slot.afterCheck (bad.contains m)) else d.slot m := by
  induction l generalizing d with
  | nil => exact ⟨.refl d, fun m => by simp⟩
  | cons n l ih =>
    obtain ⟨hn, hl⟩ := List.nodup_cons.mp hl
    obtain ⟨hc, ht, hs⟩ := h.checkSlot bad n
    obtain ⟨hc', hs'⟩ := ih ht hl
    refine ⟨hc.trans hc', fun m => ?_⟩
    rw [List.foldl_cons, hs', hs]
    by_cases hmn : m = n
    · subst hmn
      simp [hn]
    · simp [hmn]

/-- The checks of a power-up of a device whose slots in Idle are ACTIVE and carry no croft. -/
theorem Dev.allChecks_spec (bad : List (Fin 80)) (hno : d.crofts = [])
    (hidle : ∀ n t, d.slot n = some t → t.island = .idle → t.spare = .active) :
    d.Checked (d.allChecks bad) ∧ ∀ m, (d.allChecks bad).slot m = (d.slot m).map (Slot.afterCheck (bad.contains m)) := by
  rw [Dev.allChecks_eq]
  obtain ⟨hc, hslots, hcrofts, hkat⟩ := Dev.polysChecked_spec (polyGood false && polyGood true) d
  generalize d.polysChecked (polyGood false && polyGood true) = e at hc hslots hcrofts hkat
  have he : e.ToCheck := ⟨hcrofts.trans hno, hkat, fun n t ht => hidle n t ((Dev.slot_congr hslots n).symm.trans ht)⟩
  obtain ⟨hc', hs⟩ := he.foldl bad (List.finRange 80) (List.nodup_finRange 80)
  refine ⟨hc.trans hc', fun m => ?_⟩
  rw [hs, if_pos (List.mem_finRange m), Dev.slot_congr hslots]

end

end Sys2Proof.Machine
end

section
/-!
SUPPORT. The power-up sequence as a whole (15_boot_firmware_security.md R427, R428; 16_power_clocks_thermal.md R442), for
Obligations.MainRails.
-/

namespace Sys2Proof.Machine

/-! ## The slots -/

/-- A slot as the map of the power-up finds it. -/
def Slot.poweredUp (st : SpareState) (t : Slot) : Slot :=
  { t with spare := st, island := if st == .active then .idle else .off, view := [], viewPoison := [], checked := false }

theorem Slot.poweredUp_idle {st : SpareState} {t : Slot} (h : (t.poweredUp st).island = .idle) : st = .active := by
  by_cases ha : st = .active
  · exact ha
  · have hb : (st == .active) = false := beq_eq_false_iff_ne.mpr ha
    simp [Slot.poweredUp, hb] at h

/-- After the checks an ACTIVE slot with bad generators is FENCED, and every other is in the state of the map. -/
theorem Slot.spare_afterCheck_poweredUp (isBad : Bool) (st : SpareState) (t : Slot) :
    (Slot.afterCheck isBad (t.poweredUp st)).spare = if st = .active ∧ isBad = true then .fenced else st := by
  by_cases ha : st = .active
  · subst ha
    cases isBad <;> rfl
  · have hb : (st == .active) = false := beq_eq_false_iff_ne.mpr ha
    simp [Slot.afterCheck, Slot.poweredUp, hb, ha]

/-- After the checks a slot that is ACTIVE is checked and in Idle. -/
theorem Slot.afterCheck_poweredUp_active {isBad : Bool} {st : SpareState} {t : Slot}
    (h : (Slot.afterCheck isBad (t.poweredUp st)).spare = .active) :
    (Slot.afterCheck isBad (t.poweredUp st)).checked = true ∧ (Slot.afterCheck isBad (t.poweredUp st)).island = .idle := by
  rw [Slot.spare_afterCheck_poweredUp] at h
  split at h
  · exact nomatch h
  · next hno =>
    subst h
    cases isBad with
    | false => exact ⟨rfl, rfl⟩
    | true => exact absurd ⟨rfl, rfl⟩ hno

section
variable {d : Dev}

/-- What the statement says of the slots after a power-up: the map, with the bad ones FENCED, and the ACTIVE ones checked. -/
def Dev.SlotsUp (d : Dev) (bad : List (Fin 80)) (slots : List Slot) : Prop :=
  slots.map (·.spare) = ((d.slots.zip (powerUpMap d.fuses.grade d.fuses.slotDisable (d.slots.map (·.spare)))).zipIdx).map
      (fun p => if p.1.2 = .active ∧ ∃ b ∈ bad, b.val = p.2 then .fenced else p.1.2)
    ∧ ∀ u ∈ slots, u.spare = .active → u.checked = true ∧ u.island = .idle

/-- The map and the checks of a power-up. -/
theorem Dev.slotsUp_allChecks (hno : d.crofts = []) (h80 : d.slots.length = 80) (bad : List (Fin 80)) :
    d.powerUpSlots.Checked (d.powerUpSlots.allChecks bad) ∧ d.SlotsUp bad (d.powerUpSlots.allChecks bad).slots := by
  have hslots : d.powerUpSlots.slots = (d.slots.zip (powerUpMap d.fuses.grade d.fuses.slotDisable (d.slots.map (·.spare)))).map
      fun p => p.1.poweredUp p.2 := rfl
  have hget (n : Fin 80) : d.powerUpSlots.slot n
      = ((d.slots.zip (powerUpMap d.fuses.grade d.fuses.slotDisable (d.slots.map (·.spare))))[n.val]?).map
        fun p => p.1.poweredUp p.2 := by
    rw [Dev.slot, hslots, List.getElem?_map]
  have hlen : d.powerUpSlots.slots.length ≤ 80 := by
    rw [hslots, List.length_map, List.length_zip, h80]
    exact Nat.min_le_left _ _
  unfold Dev.SlotsUp
  generalize d.slots.zip _ = pairs at hslots hget ⊢
  have hidle : ∀ n t, d.powerUpSlots.slot n = some t → t.island = .idle → t.spare = .active := by
    intro n t ht hi
    rw [hget] at ht
    obtain ⟨p, _, rfl⟩ := Option.map_eq_some_iff.mp ht
    exact Slot.poweredUp_idle hi
  obtain ⟨hchecked, hs⟩ := Dev.allChecks_spec bad (d := d.powerUpSlots) hno hidle
  have hafter (n : Fin 80) : (d.powerUpSlots.allChecks bad).slot n
      = (pairs[n.val]?).map fun p => Slot.afterCheck (bad.contains n) (p.1.poweredUp p.2) := by
    rw [hs, hget, Option.map_map]
    rfl
  refine ⟨hchecked, List.ext_getElem? fun k => ?_, fun u hu ha => ?_⟩
  · rw [List.getElem?_map, List.getElem?_map, List.getElem?_zipIdx]
    by_cases hk : k < 80
    · have hk' : (d.powerUpSlots.allChecks bad).slots[k]?
          = (pairs[k]?).map fun p => Slot.afterCheck (bad.contains ⟨k, hk⟩) (p.1.poweredUp p.2) := hafter ⟨k, hk⟩
      rw [hk', Option.map_map, Option.map_map]
      refine Option.map_congr fun p _ => ?_
      have hbad : bad.contains (⟨k, hk⟩ : Fin 80) = true ↔ ∃ b ∈ bad, b.val = 0 + k := by
        rw [List.contains_iff_mem, Nat.zero_add]
        exact ⟨fun hm => ⟨_, hm, rfl⟩, fun ⟨b, hm, hb⟩ => by rwa [← Fin.ext (a := b) (b := ⟨k, hk⟩) hb]⟩
      simp only [Function.comp_apply, Slot.spare_afterCheck_poweredUp, hbad]
    · have hpairs : pairs.length ≤ k := by
        rw [hslots, List.length_map] at hlen
        omega
      have hout : (d.powerUpSlots.allChecks bad).slots.length ≤ k := by rw [hchecked.length]; omega
      rw [List.getElem?_eq_none hout, List.getElem?_eq_none hpairs]
      rfl
  · obtain ⟨k, hk⟩ := List.mem_iff_getElem?.mp hu
    have hk80 : k < 80 := by
      obtain ⟨hlt, _⟩ := List.getElem?_eq_some_iff.mp hk
      rw [hchecked.length] at hlt
      omega
    obtain ⟨p, _, rfl⟩ := Option.map_eq_some_iff.mp ((hafter ⟨k, hk80⟩).symm.trans hk)
    exact Slot.afterCheck_poweredUp_active ha

/-- Counting the checks changes versions alone. -/
theorem Dev.countChecks_keeps (before mapped d : Dev) : ∃ hub, Dev.countChecks before mapped d = { d with hub := hub } := by
  unfold Dev.countChecks
  simp only
  split
  · exact ⟨d.hub, rfl⟩
  · exact ⟨_, rfl⟩

/-! ## The sequence, stage by stage -/

/-- The end of the sequence: the monitor runs, and the fuses that waited are blown. -/
def Dev.riseEnd (d : Dev) : Dev :=
  let d := d.releaseMonitor
  Dev.serveFuses { d with boot := { d.boot with step := 8, bundle := d.boot.highestBundle } }

/-- The sequence from the boot of the monitor on. -/
def Dev.riseMonitor (d : Dev) : Dev :=
  let d := d.bootClass false 4
  if !d.boots 4 then d.bootFailed else (d.bootClass false 5).riseEnd

/-- The sequence from the training of the memory on. -/
def Dev.riseMemory (m : MemTraining) (d : Dev) : Dev :=
  let d : Dev := { d with units := d.units.trained d.fuses.grade m }
  let d := Dev.countChecks d d.powerUpSlots (d.powerUpSlots.allChecks m.badSlots)
  Dev.riseMonitor { d with
    power := { d.power with main := true, readyDue := false, readyAsked := false }
    pins := { d.pins with fatal := false }
    well := d.well.powerUp d.settings.wellEnable }

/-- The sequence from the boot of the Reeves on. -/
def Dev.riseReeves (m : MemTraining) (d : Dev) : Dev :=
  let d := d.bootClass false 3
  if !d.boots 3 then d.bootFailed else d.riseMemory m

/-- The sequence from the boot of Bailiff on. -/
def Dev.riseBailiff (m : MemTraining) (d : Dev) : Dev :=
  let d := d.bootClass false 2
  if !d.boots 2 then d.bootFailed else d.riseReeves m

/-- The power-up sequence by its stages. -/
theorem Dev.powerUp_eq (m : MemTraining) (d : Dev) : d.powerUp m
    = if !d.mayPowerUp then d else Dev.riseBailiff m { d with pins := { d.pins with pwrGood := true } } := by
  simp only [Dev.powerUp, Dev.riseBailiff, Dev.riseReeves, Dev.riseMemory, Dev.riseMonitor, Dev.riseEnd]

/-- The map made and every slot checked, with the changes of both counted. -/
def Dev.mapAndCheck (bad : List (Fin 80)) (d : Dev) : Dev := Dev.countChecks d d.powerUpSlots (d.powerUpSlots.allChecks bad)

/-- The main rails on. -/
def Dev.mainOn (d : Dev) : Dev := { d with
  power := { d.power with main := true, readyDue := false, readyAsked := false }
  pins := { d.pins with fatal := false }
  well := d.well.powerUp d.settings.wellEnable }

theorem Dev.riseMemory_eq (m : MemTraining) (d : Dev) : d.riseMemory m
    = (Dev.mapAndCheck m.badSlots { d with units := d.units.trained d.fuses.grade m }).mainOn.riseMonitor := rfl

section
variable {w : List Byte}

/-- A class that boots with a sound image is there to go on with. -/
theorem Dev.Sound.boots {c : Nat} (h : d.Sound w c) (h6 : d.boot.running.length = 6) (hc : c < 6) :
    (d.bootClass false c).boots c = true := by
  have hlt : c < d.boot.running.length := by rw [h6]; exact hc
  rw [h.bootClass]
  simp only [Dev.boots, Boot.inUse_use_same _ hlt (Nat.ne_of_lt hc), Option.isSome_some]

theorem Dev.Sound.riseBailiff (h : d.Sound w 2) (h6 : d.boot.running.length = 6) (m : MemTraining) :
    d.riseBailiff m = Dev.riseReeves m { d with boot := d.boot.use 2 (d.boot.choice 2) } := by
  rw [← h.bootClass]
  exact if_neg (by rw [h.boots h6 (by decide)]; exact Bool.false_ne_true)

theorem Dev.Sound.riseReeves (h : d.Sound w 3) (h6 : d.boot.running.length = 6) (m : MemTraining) :
    d.riseReeves m = Dev.riseMemory m { d with boot := d.boot.use 3 (d.boot.choice 3) } := by
  rw [← h.bootClass]
  exact if_neg (by rw [h.boots h6 (by decide)]; exact Bool.false_ne_true)

/-- The map and the checks change the slots, what the checks tell of themselves, and the log. -/
theorem Dev.mapAndCheck_spec (hno : d.crofts = []) (h80 : d.slots.length = 80) (bad : List (Fin 80)) : ∃ slots boot logs k hub,
    d.mapAndCheck bad = { d with slots := slots, boot := boot, logs := logs, freeCount := k, hub := hub }
      ∧ d.boot.Alike boot ∧ d.SlotsUp bad slots := by
  obtain ⟨⟨⟨slots, boot, logs, k, he⟩, halike, _⟩, hup⟩ := Dev.slotsUp_allChecks hno h80 bad
  obtain ⟨hub, hc⟩ := Dev.countChecks_keeps d d.powerUpSlots (d.powerUpSlots.allChecks bad)
  have halike : d.boot.Alike (d.powerUpSlots.allChecks bad).boot := halike
  unfold Dev.mapAndCheck
  rw [hc]
  rw [he] at halike hup ⊢
  exact ⟨slots, boot, logs, k, hub, rfl, halike, hup⟩

/-- The release of the monitor writes its body. -/
theorem Dev.releaseMonitor_eq {img : List Byte} (h : d.boot.inUse 4 = some img) : d.releaseMonitor
    = { d with
        boot := { d.boot with released := true }
        mem := writeBytes d.mem (Config.monitorAt % (12 * 2 ^ 36)) (slotSlice img 0x200 (imageBody img))
        memPoison := unpoison d.memPoison (Config.monitorAt % (12 * 2 ^ 36)) (slotSlice img 0x200 (imageBody img)).length } := by
  simp only [Dev.releaseMonitor, Dev.write, h, Option.getD_some]

theorem Dev.riseEnd_spec {img : List Byte} (h : d.boot.inUse 4 = some img) : ∃ fuses boot logs poison,
    d.riseEnd = { d with
        fuses := fuses, boot := boot, logs := logs, memPoison := poison
        mem := writeBytes d.mem (Config.monitorAt % (12 * 2 ^ 36)) (slotSlice img 0x200 (imageBody img)) }
      ∧ d.boot.Alike boot ∧ boot.step = 8 ∧ boot.released = true := by
  unfold Dev.riseEnd
  rw [Dev.releaseMonitor_eq h]
  generalize unpoison d.memPoison _ _ = poison
  generalize writeBytes d.mem _ _ = mem
  simp only
  generalize Boot.highestBundle _ = bundle
  obtain ⟨fuses, boot, logs, he, ha, hr, hs⟩ := Dev.blown_serveFuses { d with
    boot := { d.boot with released := true, step := 8, bundle := bundle }, memPoison := poison, mem := mem }
  have halike : d.boot.Alike { d.boot with released := true, step := 8, bundle := bundle } := ⟨rfl, rfl, rfl, fun _ _ => rfl⟩
  exact ⟨fuses, boot, logs, poison, he, halike.trans ha, hs, hr⟩

/-- The monitor boots and is released. -/
theorem Dev.Sound.riseMonitor (h : d.Sound w 4) (h6 : d.boot.running.length = 6) : ∃ fuses boot logs k poison,
    d.riseMonitor = { d with
        fuses := fuses, boot := boot, logs := logs, freeCount := k, memPoison := poison
        mem := writeBytes d.mem (Config.monitorAt % (12 * 2 ^ 36))
          (slotSlice (d.boot.choice 4).bytes 0x200 (imageBody (d.boot.choice 4).bytes)) }
      ∧ (d.boot.use 4 (d.boot.choice 4)).Alike boot ∧ boot.step = 8 ∧ boot.released = true := by
  have hgo : d.riseMonitor = ((d.bootClass false 4).bootClass false 5).riseEnd :=
    if_neg (by rw [h.boots h6 (by decide)]; exact Bool.false_ne_true)
  obtain ⟨last, logs, k, hlast, halike⟩ := Dev.bootClass_last { d with boot := d.boot.use 4 (d.boot.choice 4) }
  have himage : last.inUse 4 = some (d.boot.choice 4).bytes :=
    (halike.inUse (by decide)).trans (Boot.inUse_use_same _ (by rw [h6]; decide) (by decide) _)
  obtain ⟨fuses, boot, logs', poison, he, ha, hs, hr⟩ := Dev.riseEnd_spec (d := { d with boot := last, logs := logs, freeCount := k })
    himage
  rw [hgo, h.bootClass, hlast]
  exact ⟨fuses, boot, logs', k, poison, he, halike.trans ha, hs, hr⟩

end

end

end Sys2Proof.Machine
end

section
/-!
SUPPORT. POWER_UP_SEQUENCE with verified images, and one that may not run (Obligations.MainRails).
-/

namespace Sys2Proof.Machine

section
variable {d : Dev} {w : List Byte} {m : MemTraining}

/-- The images of Bailiff, the Reeves and the monitor are sound, as the statement on the power-up has it. -/
def Dev.ImagesSound (d : Dev) (w : List Byte) : Prop := ∀ c ∈ [2, 3, 4], d.fuses.imageFault c (d.boot.choice c).bytes = none
  ∧ imageBundle (d.boot.choice c).bytes / 256 = imageBundle w / 256

/-- A sound image stays sound on a device with the same fuses, directory and Watch. -/
theorem Dev.ImagesSound.sound {e : Dev} {c : Nat} (h : d.ImagesSound w) (hc : c ∈ [2, 3, 4]) (hfuses : e.fuses = d.fuses)
    (hchoice : e.boot.choice c = d.boot.choice c) (hwatch : e.boot.inUse 0 = some w) : e.Sound w c := by
  obtain ⟨hf, hb⟩ := h c hc
  rw [← hfuses, ← hchoice] at hf
  rw [← hchoice] at hb
  exact ⟨hwatch, hf, hb⟩

/-- A boot state after the boot of Bailiff and the Reeves: their images run, and nothing else of what they are chosen by changed. -/
def Boot.Risen (b b' : Boot) : Prop := b'.flash = b.flash ∧ b'.dirs = b.dirs ∧ b'.running.length = b.running.length
  ∧ b'.inUse 0 = b.inUse 0 ∧ b'.inUse 2 = some (b.choice 2).bytes ∧ b'.inUse 3 = some (b.choice 3).bytes

theorem Boot.Risen.of_use (b : Boot) (h6 : b.running.length = 6) :
    b.Risen ((b.use 2 (b.choice 2)).use 3 ((b.use 2 (b.choice 2)).choice 3)) := by
  have hlen (b : Boot) (c : Nat) (img : RunImage) : (b.use c img).running.length = b.running.length := List.length_set
  have hchoice : (b.use 2 (b.choice 2)).choice 3 = b.choice 3 := Boot.choice_congr rfl rfl 3
  rw [hchoice]
  refine ⟨rfl, rfl, by rw [hlen, hlen], ?_, ?_, ?_⟩
  · rw [Boot.inUse_use_other _ (by decide), Boot.inUse_use_other _ (by decide)]
  · rw [Boot.inUse_use_other _ (by decide), Boot.inUse_use_same _ (by rw [h6]; decide) (by decide)]
  · rw [Boot.inUse_use_same _ (by rw [hlen, h6]; decide) (by decide)]

theorem Boot.Risen.alike {b b' b'' : Boot} (h : b.Risen b') (h' : b'.Alike b'') : b.Risen b'' := by
  obtain ⟨hflash, hdirs, hclasses, hwatch, hbailiff, hreeves⟩ := h
  exact ⟨h'.flash.trans hflash, h'.dirs.trans hdirs, h'.classes.trans hclasses, (h'.inUse (by decide)).trans hwatch,
    (h'.inUse (by decide)).trans hbailiff, (h'.inUse (by decide)).trans hreeves⟩

/-- Bailiff and the Reeves boot. -/
theorem Dev.ImagesSound.riseBailiff (h : d.ImagesSound w) (hw : d.boot.inUse 0 = some w) (h6 : d.boot.running.length = 6)
    (m : MemTraining) : ∃ boot, d.riseBailiff m = Dev.riseMemory m { d with boot := boot } ∧ d.boot.Risen boot := by
  have h2 : d.Sound w 2 := h.sound (by decide) rfl rfl hw
  have h3 : Dev.Sound { d with boot := d.boot.use 2 (d.boot.choice 2) } w 3 :=
    h.sound (by decide) rfl (Boot.choice_congr rfl rfl 3) ((Boot.inUse_use_other _ (by decide) _).trans hw)
  have hlen : (d.boot.use 2 (d.boot.choice 2)).running.length = 6 := List.length_set.trans h6
  refine ⟨_, ?_, .of_use d.boot h6⟩
  rw [h2.riseBailiff h6, h3.riseReeves hlen]

/-- The Well's requests stay over its start. -/
theorem Well.requests_powerUp (x : Well) (enable : Bool) : (x.powerUp enable).requests = x.requests := by
  unfold Well.powerUp
  split <;> rfl

/-- What the power-up sequence with sound images comes to. -/
theorem Dev.ImagesSound.powerUp_sound (h : d.ImagesSound w) (hmay : d.mayPowerUp = true) (h6 : d.boot.running.length = 6)
    (hw : d.boot.inUse 0 = some w) (hreq : d.well.requests = []) (hno : d.crofts = []) (h80 : d.slots.length = 80) (m : MemTraining) :
    ∃ fuses boot logs k poison slots hub well, (d.powerUp m).wellCheck = { d with
        fuses := fuses, boot := boot, logs := logs, freeCount := k, memPoison := poison, slots := slots, hub := hub, well := well
        units := d.units.trained d.fuses.grade m
        power := { d.power with main := true, readyDue := false, readyAsked := false }
        pins := { d.pins with pwrGood := true, fatal := false }
        mem := writeBytes d.mem (Config.monitorAt % (12 * 2 ^ 36))
          (slotSlice (d.boot.choice 4).bytes 0x200 (imageBody (d.boot.choice 4).bytes)) }
      ∧ boot.step = 8 ∧ boot.released = true ∧ boot.flash = d.boot.flash
      ∧ (∀ c ∈ [2, 3, 4], boot.inUse c = some (d.boot.choice c).bytes) ∧ d.SlotsUp m.badSlots slots := by
  obtain ⟨b3, hbailiff, hrisen⟩ := Dev.ImagesSound.riseBailiff (d := { d with pins := { d.pins with pwrGood := true } }) h hw h6 m
  obtain ⟨slots, b, logs, k, hub, hmap, halike, hup⟩ := Dev.mapAndCheck_spec (d := { d with
    pins := { d.pins with pwrGood := true }, boot := b3, units := d.units.trained d.fuses.grade m }) hno h80 m.badSlots
  obtain ⟨hflash, hdirs, hclasses, hwatch, hrunBailiff, hrunReeves⟩ := Boot.Risen.alike hrisen halike
  let e : Dev := Dev.mainOn { d with
    pins := { d.pins with pwrGood := true }, units := d.units.trained d.fuses.grade m
    slots := slots, boot := b, logs := logs, freeCount := k, hub := hub }
  have hchoice : b.choice 4 = d.boot.choice 4 := Boot.choice_congr hflash hdirs 4
  have h4 : e.Sound w 4 := h.sound (by decide) rfl hchoice (hwatch.trans hw)
  obtain ⟨fuses, boot, logs', k', poison, hmonitor, hlast, hstep, hreleased⟩ := h4.riseMonitor (hclasses.trans h6)
  have hrise : d.powerUp m = e.riseMonitor := by
    rw [Dev.powerUp_eq, hmay, Bool.not_true, if_neg Bool.false_ne_true, hbailiff, Dev.riseMemory_eq, hmap]
  have hwell : e.riseMonitor.well.requests = [] := by
    rw [hmonitor]
    exact (Well.requests_powerUp d.well d.settings.wellEnable).trans hreq
  obtain ⟨well, logs'', hcheck⟩ := Dev.wellCheck_spec hwell
  rw [hrise, hcheck, hmonitor]
  have hmonitorUse : (b.use 4 (b.choice 4)).inUse 4 = some (b.choice 4).bytes :=
    Boot.inUse_use_same _ (by rw [hclasses, h6]; decide) (by decide) _
  refine ⟨fuses, boot, logs'', k', poison, slots, hub, well, ?_, hstep, hreleased, hlast.flash.trans hflash, fun c hc => ?_, hup⟩
  · have himage : e.boot.choice 4 = d.boot.choice 4 := hchoice
    have hmem : e.mem = d.mem := rfl
    rw [himage, hmem]
    generalize writeBytes d.mem _ _ = mem
    rfl
  · rw [List.mem_cons, List.mem_cons, List.mem_singleton] at hc
    obtain rfl | rfl | rfl := hc
    · exact (hlast.inUse (by decide)).trans ((Boot.inUse_use_other _ (by decide) _).trans hrunBailiff)
    · exact (hlast.inUse (by decide)).trans ((Boot.inUse_use_other _ (by decide) _).trans hrunReeves)
    · exact (hlast.inUse (by decide)).trans (hmonitorUse.trans (congrArg (fun i => some i.bytes) hchoice))

end

/-- The row repairs left after the training are those that were measured. -/
theorem MemUnits.left_trained (u : MemUnits) (grade : BitVec 2) (m : MemTraining) :
    (u.trained grade m).errors.map (·.left) = (List.range u.errors.length).map fun i => m.left.getD i 0 := by
  refine List.ext_getElem? fun i => ?_
  by_cases hi : i < u.errors.length
  · simp [MemUnits.trained, hi]
  · simp [MemUnits.trained, hi]

section
variable {s : State} {m : MemTraining}

/-- A power-up with sound images makes the device Ready. -/
theorem State.powerUp_ready {w : List Byte} (hmay : s.dev.mayPowerUp = true) (h6 : s.dev.boot.running.length = 6)
    (hw : s.dev.boot.inUse 0 = some w) (hreq : s.dev.well.requests = []) (hno : s.dev.crofts = []) (h80 : s.dev.slots.length = 80)
    (himages : s.dev.ImagesSound w) :
    Answers (.powerUpSequence m) s fun t => t.power.main = true ∧ t.boot.step = 8 ∧ t.power.readyDue = false ∧ t.pins.fatal = false
        ∧ t.pins.pwrGood = true ∧ t.units.hbmPresent = m.hbmTrained ∧ t.units.lpState = m.lpddr.map (·.2)
        ∧ t.units.lpInstalled = m.lpddr.map (fun p => if p.2 = 0 then 0 else p.1)
        ∧ t.units.errors.map (·.left) = (List.range s.dev.units.errors.length).map (fun u => m.left.getD u 0)
        ∧ t.slots.map (·.spare)
          = ((s.dev.slots.zip (powerUpMap s.dev.fuses.grade s.dev.fuses.slotDisable (s.dev.slots.map (·.spare)))).zipIdx).map
            (fun p => if p.1.2 = .active ∧ ∃ b ∈ m.badSlots, b.val = p.2 then .fenced else p.1.2)
        ∧ (∀ u ∈ t.slots, u.spare = .active → u.checked = true ∧ u.island = .idle)
        ∧ t.power.readyAsked = false ∧ t.boot.released = true
        ∧ (∀ c ∈ [2, 3, 4], t.boot.inUse c = some (s.dev.boot.choice c).bytes) ∧ t.jobs = s.dev.jobs
        ∧ t.mem = writeBytes s.dev.mem (Config.monitorAt % (12 * 2 ^ 36))
          (slotSlice (s.dev.boot.choice 4).bytes 0x200 (imageBody (s.dev.boot.choice 4).bytes))
        ∧ t.boot.flash = s.dev.boot.flash := by
  refine answers_of_effect (f := fun d => (d.powerUp m).wellCheck) rfl fun t ht => ?_
  obtain ⟨fuses, boot, logs, k, poison, slots, hub, well, he, hstep, hreleased, hflash, huse, hspare, hactive⟩ :=
    himages.powerUp_sound hmay h6 hw hreq hno h80 m
  rw [he] at ht
  generalize writeBytes s.dev.mem _ _ = mem at ht ⊢
  obtain ⟨_, _, hslots, hjobs, _, _, _, hmem, hunits, hpins, hpower, hboot, _⟩ := Dev.bare_congr ht
  rw [hslots, hjobs, hmem, hunits, hpins, hpower, hboot]
  exact ⟨rfl, hstep, rfl, rfl, rfl, rfl, rfl, rfl, s.dev.units.left_trained s.dev.fuses.grade m, hspare, hactive, rfl, hreleased, huse,
    rfl, rfl, hflash⟩

/-- One that may not run changes nothing, when the Well's start is not to be judged. -/
theorem State.powerUp_skips (hmay : s.dev.mayPowerUp = false)
    (hwell : s.dev.well.phase = .starting → ∃ c ∈ s.dev.well.cells, c.state = .active) : Becomes (.powerUpSequence m) s s.dev := by
  refine answers_of_effect (f := fun d => (d.powerUp m).wellCheck) rfl fun t ht => ?_
  have hskip : s.dev.powerUp m = s.dev := by rw [Dev.powerUp_eq, hmay, Bool.not_false, if_pos rfl]
  have hcheck : s.dev.wellCheck = s.dev := by
    refine if_neg ?_
    rw [Bool.and_eq_true, beq_iff_eq]
    rintro ⟨hstart, hnone⟩
    obtain ⟨c, hc, hact⟩ := hwell hstart
    rw [List.any_eq_true.mpr ⟨c, hc, by rw [hact]; rfl⟩] at hnone
    exact nomatch hnone
  rwa [hskip, hcheck] at ht

end

end Sys2Proof.Machine
end

section
/-!
SUPPORT. A READY request in Standby, through a session (16_power_clocks_thermal.md R443; 11_object_dictionary.md R336 to R340), and
the statement on the main rails (Obligations.MainRails).
-/

namespace Sys2Proof.Machine

/-! ## A request that is executed, and its reply -/

/-- A part of a list that lies within it. -/
theorem slice_eq_take_drop {bs : List Byte} {off n : Nat} (h : off + n ≤ bs.length) : slice bs off n = (bs.drop off).take n := by
  refine List.ext_getElem? fun i => ?_
  simp only [slice, List.getElem?_map, List.getElem?_take, List.getElem?_drop]
  by_cases hi : i < n
  · have hlt : off + i < bs.length := by omega
    simp [hi, hlt]
  · simp [hi]

/-- A reply that carries no data, to a request of kind 2 with a header, as the statements on requests have it. -/
theorem replyBytes_write {m : List Byte} {a : Answer} (hkind : msgKind m = 2) (hlen : 32 ≤ m.length) (hdata : a.data = []) :
    leAt (replyBytes m a) 0 1 = 1 ∧ leAt (replyBytes m a) 1 1 = msgKind m + 0x80
      ∧ leAt (replyBytes m a) 2 1 = a.status % 256 ∧ ((replyBytes m a).drop 4).take 4 = (m.drop 4).take 4
      ∧ (replyBytes m a).drop 32 = [] := by
  rw [← slice_eq_take_drop (bs := m) (by omega)]
  simp [replyBytes, hkind, hdata, leAt, slice, leBytes, leNat, List.range_succ]

section
variable {d : Dev}

/-- Sessions stay open when a request leaves the roles as they are. -/
theorem Dev.dropChanged_same {new : Dev} (h : new.settings = d.settings) : d.dropChanged new = new := by
  refine List.foldl_fixed' (fun k => ?_) _
  split
  · rw [h, BEq.rfl, if_pos rfl]
  · rfl

/-- A request that a session executes: its effect, and the reply. -/
theorem Dev.Executes.serve_session {k : Fin 16} {m : List Byte} {role : Nat} (h : d.Executes (.session k) m role) (run : FuseRun)
    (hset : (d.answer (.session k) role run m).dev.settings = d.settings) :
    d.serve (.session k) m run
      = Dev.send (((d.answer (.session k) role run m).dev.touch (.session k)).keep (.session k)
          ⟨BitVec.ofNat 32 (leAt m 4 4), d.elapsedNs, replyBytes m (d.answer (.session k) role run m)⟩)
        (.reply (.session k) (replyBytes m (d.answer (.session k) role run m))) := by
  unfold Dev.serve
  rw [h.taken, Bool.not_true, if_neg Bool.false_ne_true]
  simp only
  rw [h.fresh, h.inRole]
  simp only
  generalize d.answer (.session k) role run m = a at hset ⊢
  exact Dev.dropChanged_same hset

end

/-- What a session's reply touches beside the effect: the session, and what is sent. -/
theorem Dev.answered_session {e a : Dev} {k : Fin 16} {m bytes : List Byte} {status : Nat} (kept : Kept)
    (hless : a.doorless = e.doorless) (hsent : a.sent = e.sent) (hmail : a.hub.mailbox = e.hub.mailbox)
    (hver : leAt bytes 0 1 = 1) (hkind : leAt bytes 1 1 = msgKind m + 0x80) (hstatus : leAt bytes 2 1 = status)
    (hid : (bytes.drop 4).take 4 = (m.drop 4).take 4) (hdata : bytes.drop 32 = []) :
    e.Answered (.session k) m status [] (((a.touch (.session k)).keep (.session k) kept).send (.reply (.session k) bytes)) := by
  have htouch : (a.touch (.session k)).doorless = a.doorless := rfl
  have hkeep (b : Dev) : (b.keep (.session k) kept).doorless = b.doorless := rfl
  have hsend (b : Dev) (r : Sent) : (b.send r).doorless = b.doorless := rfl
  have hout : (((a.touch (.session k)).keep (.session k) kept).send (.reply (.session k) bytes)).sent
      = e.sent ++ [.reply (.session k) bytes] := congrArg (· ++ [Sent.reply (.session k) bytes]) hsent
  unfold Dev.Answered Dev.Replied
  exact ⟨(hsend _ _).trans ((hkeep _).trans (htouch.trans hless)), bytes, hver, hkind, hstatus, hid, hdata, hout, hmail⟩

/-! ## The row of POWER_REQUEST -/

/-- The entry POWER_REQUEST: a command of two bytes, for the second role. -/
theorem odFind_powerRequest : ∃ r, odFind 0x2031 1 = some r ∧ r.index = 0x2031 ∧ r.lo = 1 ∧ r.access = 4 ∧ r.role = 2
    ∧ r.type = 11 ∧ ∀ d n, r.size d n = 2 :=
  ⟨_, rfl, rfl, rfl, rfl, rfl, rfl, fun _ _ => length_leBytes 2 _⟩

/-- A well-formed write holds its header and the bytes it counts. -/
theorem length_of_formatBad {m : List Byte} (h : formatBad m = false) (hkind : msgKind m = 2) : m.length = 32 + msgCount m := by
  simp only [formatBad, hkind, if_true, Bool.or_eq_false_iff, bne_eq_false_iff_eq] at h
  exact h.2

section
variable {d : Dev} {door : Door} {m : List Byte} {role : Nat}

/-- A READY request in Standby is noted. -/
theorem Dev.powerRequest_ready (hmain : d.power.main = false) (hdue : d.power.standbyDue = false) (hasked : d.power.readyAsked = false) :
    d.powerRequest 2 = .ok (d.onPower fun p => { p with readyDue := true, readyAsked := true }) := by
  simp [Dev.powerRequest, hmain, hdue, hasked]

/-- A write that no check refuses, of any version, answers OK. -/
theorem Dev.answerWrite_ok {run : FuseRun} {r : OdRow} {new : Dev} (hacc : r.access ≠ 0) (hrole : r.role ≤ role)
    (hfree : d.unavailable r (msgSub m) true = false)
    (hlength : r.lengthBad (r.size d (msgSub m - r.lo)) (msgOffset m) (msgCount m) = false)
    (hwrite : d.writeEntry door r (msgSub m) (msgOffset m) (m.drop 32) run = .ok new) (hany : leAt m 0x14 4 = 0) :
    d.answerWrite door role run r m
      = ⟨d.bumped new, stOk, msgIndex m, msgSub m, (d.bumped new).versionFor door r (msgSub m) true, []⟩ := by
  unfold Dev.answerWrite
  simp only [hacc, Nat.not_lt.mpr hrole, hfree, hlength, hwrite, hany, bne_self_eq_false, Bool.false_and, Bool.false_eq_true, if_false]

/-- A device that may take a write of POWER_REQUEST answers a READY request in Standby with OK. -/
theorem Dev.Executes.answer_ready (h : d.Executes door m role) (hrole : 2 ≤ role) (hmain : d.power.main = false)
    (hw : Writes m 0x2031 1 [2, 0]) (hdue : d.power.standbyDue = false) (hasked : d.power.readyAsked = false) : ∃ version,
    d.answer door role wholeRun m
      = ⟨d.bumped (d.onPower fun p => { p with readyDue := true, readyAsked := true }), 0, 0x2031, 1, version, []⟩ := by
  obtain ⟨hkind, ⟨hindex, hsub⟩, hstart, hany, hdata⟩ := hw
  obtain ⟨r, hfind, hri, hlo, hacc, hrr, htype, hsize⟩ := odFind_powerRequest
  have hcount : msgCount m = 2 := by
    have hlen := length_of_formatBad h.formed hkind
    have htail : (m.drop 32).length = 2 := by rw [hdata]; rfl
    rw [List.length_drop] at htail
    omega
  have hfree : d.unavailable r 1 true = false := by simp [Dev.unavailable, standbyWrites, hri]
  have hlength : r.lengthBad (r.size d (1 - r.lo)) 0 2 = false := by simp [OdRow.lengthBad, htype, hri, hsize]
  have hwrite : d.writeEntry door r 1 0 [2, 0] wholeRun
      = .ok (d.onPower fun p => { p with readyDue := true, readyAsked := true }) := by
    have hcommit : isCommit 0x2031 1 = false := by decide
    simp only [Dev.writeEntry, hacc, hri, Dev.writeCommand, hcommit, Bool.false_eq_true, if_false]
    exact Dev.powerRequest_ready hmain hdue hasked
  have hanswer : d.answer door role wholeRun m = d.answerWrite door role wholeRun r m := by
    unfold Dev.answer
    rw [h.formed, hkind, hindex, hsub, hfind]
    rfl
  have hok := Dev.answerWrite_ok (door := door) (run := wholeRun) (m := m) (r := r) (by rw [hacc]; decide) (hrr ▸ hrole)
    (by rwa [hsub]) (by rwa [hsub, hstart, hcount]) (by rw [hsub, hstart, hdata]; exact hwrite) hany
  rw [hindex, hsub] at hok
  exact ⟨_, hanswer.trans hok⟩

end

/-- Nothing is traced while the main rails are off. -/
theorem Dev.traced_off {d : Dev} (h : d.power.main = false) : d.traced = d := by
  unfold Dev.traced
  rw [h, Bool.not_false, Bool.or_true, if_pos rfl]

section
variable {s : State} {k : Fin 16} {m : List Byte} {role : Nat}

/-- A READY request in Standby is noted, and answered. -/
theorem State.powerRequest_ready (h : s.dev.Executes (.session k) m role) (hrole : 2 ≤ role) (hmain : s.dev.power.main = false)
    (hw : Writes m 0x2031 1 [2, 0]) (hdue : s.dev.power.standbyDue = false) (hasked : s.dev.power.readyAsked = false) :
    Answers (.powerRequestReady (.session k) m) s
      (Dev.Answered { s.dev with power := { s.dev.power with readyDue := true, readyAsked := true } } (.session k) m 0 []) := by
  obtain ⟨version, ha⟩ := h.answer_ready hrole hmain hw hdue hasked
  have hlen : 32 ≤ m.length := by
    rw [length_of_formatBad h.formed hw.isWrite]
    exact Nat.le_add_right 32 _
  have hmine : msgKind m = 2 ∧ (msgIndex m == 0x2031 && leNat (m.drop 32) != 1) = true := by
    rw [hw.entry.1, hw.data]
    exact ⟨hw.isWrite, by decide⟩
  have hserve := h.serve_session wholeRun (by rw [ha]; rfl)
  rw [ha] at hserve
  obtain ⟨hver, hkind, hstatus, hid, hdata⟩ := replyBytes_write (a := ⟨s.dev.bumped (s.dev.onPower fun p =>
    { p with readyDue := true, readyAsked := true }), 0, 0x2031, 1, version, []⟩) hw.isWrite hlen rfl
  generalize replyBytes m _ = bytes at hserve hver hkind hstatus hid hdata
  have hserveAt : Dev.serveAt (fun i _ v => i == 0x2031 && leNat v != 1) (.session k) m wholeRun s.dev
      = s.dev.serve (.session k) m wholeRun := if_pos hmine
  obtain ⟨t, ht, hpending, hdev⟩ :=
    effectKept_answers (Dev.serveAt (fun i _ v => i == 0x2031 && leNat v != 1) (.session k) m wholeRun) s
  refine ⟨t, ht, hpending, ?_⟩
  rw [hdev, hserveAt, hserve, Dev.traced_off (by exact hmain)]
  exact Dev.answered_session _ rfl rfl rfl hver hkind hstatus hid hdata

end

/-- Settles O58: the power-up by its stages (`Dev.ImagesSound.powerUp_sound`), the main rails going off (`Dev.mainOff_spec`), and
the request. -/
theorem mainRails : Obligations.MainRails := by
  unfold Obligations.MainRails
  intro s d off leaves
  exact ⟨fun m w hmay h6 hw hreq hno h80 himages => State.powerUp_ready hmay h6 hw hreq hno h80 himages,
    fun m hmay hwell => State.powerUp_skips hmay hwell,
    fun lost hmain hreset => State.powerFail_on lost hmain hreset,
    fun hmain hreset href => State.clockLost_on hmain hreset href,
    fun hmain href => State.clockLost_off hmain href,
    fun hdue hno => State.powerDown_due hdue hno,
    fun hjob => State.powerDown_waits hjob,
    fun k m role hexec hrole hmain hw hdue hasked => State.powerRequest_ready hexec hrole hmain hw hdue hasked⟩

end Sys2Proof.Machine
end

section
/-!
SUPPORT. Little-endian fields of a byte string that was written to memory, and a command that succeeds.
-/

namespace Sys2Proof.Machine

/-! ## Fields of written bytes -/

theorem leNat_leBytes (n v : Nat) : leNat (leBytes n v) = v % 256 ^ n := by
  induction n generalizing v with
  | zero => simp [leBytes, leNat, Nat.mod_one]
  | succ n ih =>
    simp only [leBytes, leNat, ih, BitVec.toNat_ofNat, Nat.reducePow]
    rw [Nat.pow_succ' (m := 256), Nat.mod_mul]

/-- The field that stands behind the bytes `xs`. -/
theorem leAt_leBytes {xs : List Byte} {off : Nat} (h : xs.length = off) (n v : Nat) (ys : List Byte) :
    leAt (xs ++ leBytes n v ++ ys) off n = v % 256 ^ n := by
  have hfield : slice (xs ++ leBytes n v ++ ys) off n = leBytes n v := by
    rw [slice_eq_take_drop (by simp [h]), List.append_assoc, List.drop_left' h, List.take_left' (length_leBytes n v)]
  rw [leAt, hfield, leNat_leBytes]

/-- A part of a range that was just written. -/
theorem readBytes_writeBytes_slice {m : Cells} (hm : Cells.wf m = true) (a : Nat) {bs : List Byte} {off n : Nat}
    (h : off + n ≤ bs.length) : readBytes (writeBytes m a bs) (a + off) n = slice bs off n :=
  List.map_congr_left fun i hi => by
    have hi : i < n := List.mem_range.mp hi
    rw [Nat.add_assoc, readByte_writeBytes_at m a bs hm (by omega)]

/-- Bytes written in one are written part by part. -/
theorem writeBytes_append (m : Cells) (a : Nat) (xs ys : List Byte) :
    writeBytes m a (xs ++ ys) = writeBytes (writeBytes m a xs) (a + xs.length) ys := by
  induction xs generalizing m a with
  | nil => rfl
  | cons x xs ih => rw [List.cons_append, writeBytes, writeBytes, ih, List.length_cons, Nat.add_assoc, Nat.add_comm 1]

/-! ## A command that succeeds (R319, R320) -/

/-- A command that has started is in flight, and its job is open. -/
theorem Dev.started_open {d : Dev} {id opcode : Nat} {c : Cmd} {j : Fin 64} {job : Job}
    (h : d.started id opcode = some (c, j, job)) : d.cmd id = some c ∧ d.job j = some job := by
  unfold Dev.started at h
  split at h
  · cases h
  · next q hq =>
    split at h
    · split at h
      · cases h
      · next k _ =>
        obtain ⟨b, hb, he⟩ := Option.map_eq_some_iff.mp h
        cases he
        exact ⟨hq, hb⟩
    · cases h

/-- The command that succeeded, as the statements show it. -/
theorem Dev.cmd_succeed {d t : Dev} {id : Nat} {c : Cmd} (h : d.cmd id = some c) (n : Nat) (ht : t.cmds = (d.succeed id n).cmds) :
    (t.cmd id).map (fun q => (q.state, q.status, q.result)) = some (.finished, 0, BitVec.ofNat 64 n) := by
  have hid : (c.id == id) = true := List.find?_some (p := fun q : Cmd => q.id == id) h
  have hfound : (d.succeed id n).cmd id = (d.cmd id).map fun q => if q.id == id then
      { q with state := .finished, status := 0, result := BitVec.ofNat 64 n, detail := 0 } else q :=
    find?_map_same _ _ (fun q hq => by simp [hq]) (fun q hq => by simp [hq]) d.cmds
  have hcmd : t.cmd id = (d.succeed id n).cmd id := by simp only [Dev.cmd, ht]
  simp only [hcmd, hfound, h, hid, Option.map_some, if_true]

end Sys2Proof.Machine
end

section
/-!
SUPPORT. A MODEL_LOAD whose model passes its check (05_dense_sampling.md R153 to R155; 12_determinism_and_ledger.md R367).
-/

namespace Sys2Proof.Machine

/-- The image loaded last stands in the ledger, entered now or before. -/
theorem Ledger.loaded_hash (l : Ledger) (e : ModelElem) : ∃ x ∈ (l.loaded e).models, x.hash = e.hash := by
  unfold Ledger.loaded
  dsimp only
  split
  · next h => simpa using h
  · exact ⟨e, by simp, rfl⟩

/-- RESULT of the check of a model of a good format that is loaded (R155). -/
theorem ModelFound.publish_result {s : ModelFound} (h : s.format = false) :
    (s.publish true).result = if s.conflicts = 0 then 0 else 2 := by
  rcases Nat.eq_zero_or_pos s.conflicts with h0 | h0
  · simp [ModelFound.publish, h, h0]
  · simp [ModelFound.publish, h0, Nat.ne_of_gt h0]

/-- A model passes its check (R153, R154): its format is good, its conflicts are overridden, and neither a job in the reference
arithmetic nor a deterministic one meets what it forbids. -/
def ModelFound.Passes (s : ModelFound) (m : ModelHead) (job : Job) : Prop :=
  s.format = false ∧ (s.conflicts = 0 ∨ m.override = true) ∧ (job.reference = true → m.nClasses = 0 ∧ s.conflicts = 0)
    ∧ (job.params.det = true → s.conflicts = 0)

/-- A model that passes its check raises no fault. -/
theorem ModelFound.Passes.no_fault {s : ModelFound} {m : ModelHead} {job : Job} (h : s.Passes m job) : modelFaults m s job = [] := by
  obtain ⟨hformat, hover, href, hdet⟩ := h
  have hclasses : (job.reference && m.nClasses != 0) = false := by
    cases hr : job.reference with
    | false => rfl
    | true => simp [(href hr).1]
  rcases Nat.eq_zero_or_pos s.conflicts with h0 | hpos
  · simp [modelFaults, when_, hformat, hclasses, h0]
  · have hne := Nat.ne_of_gt hpos
    have hr : job.reference = false := by
      by_contra hr
      exact hne (href (by simpa using hr)).2
    have hd : job.params.det = false := by
      by_contra hd
      exact hne (hdet (by simpa using hd))
    simp [modelFaults, when_, hformat, hr, hd, hover.resolve_left hne]

/-- The device with a model loaded by job `j`: its check published, and its image in the job's ledger. -/
def Dev.withModel (d : Dev) (j : Fin 64) (check : ModelCheck) (e : ModelElem) : Dev :=
  Dev.onJob { d with hub := { d.hub with model := check } } j fun q => { q with ledger := q.ledger.loaded e }

/-- The job that loaded the model, with its image entered. -/
theorem Dev.job_withModel {d : Dev} {j : Fin 64} {job : Job} (h : d.job j = some job) (check : ModelCheck) (e : ModelElem) :
    (d.withModel j check e).job j = some { job with ledger := job.ledger.loaded e } := by
  rw [Dev.withModel, Dev.job_onJob, if_pos rfl]
  exact congrArg (Option.map _) h

section
variable {d : Dev} {id : Nat} {c : Cmd} {j : Fin 64} {job : Job} {found : ModelFound} {bytes : List Byte}

/-- A model that passes its check is loaded. -/
theorem Dev.modelLoad_eq (hstart : d.started id 5 = some (c, j, job))
    (hcheck : d.checkModel (leAt c.entry 0x20 8) = .ok (found, bytes))
    (hpass : found.Passes (modelHead (readBytes d.mem (leAt c.entry 0x20 8) 64)) job) : ∃ e : ModelElem, e.hash = sha384 bytes
      ∧ d.modelLoad id = (d.withModel j (found.publish true) e).succeed id found.conflicts := by
  have hnone : lowest (modelFaults (modelHead (d.read (c.arg 0x20 8) 64)) found job) = none := lowest_eq_none.mpr hpass.no_fault
  have hcheck : d.checkModel (c.arg 0x20 8) = .ok (found, bytes) := hcheck
  refine ⟨⟨sha384 bytes, found.conflicts, (modelHead (d.read (c.arg 0x20 8) 64)).nClasses,
    (modelHead (d.read (c.arg 0x20 8) 64)).override⟩, rfl, ?_⟩
  simp only [Dev.modelLoad, hstart, hcheck, hnone]
  rfl

end

section
variable {s : State} {id : Nat} {c : Cmd} {j : Fin 64} {job : Job} {found : ModelFound} {bytes : List Byte}

/-- MODEL_LOAD of a model that passes its check. -/
theorem State.modelLoad_passes (hstart : s.dev.started id 5 = some (c, j, job))
    (hcheck : s.dev.checkModel (leAt c.entry 0x20 8) = .ok (found, bytes))
    (hpass : found.Passes (modelHead (readBytes s.dev.mem (leAt c.entry 0x20 8) 64)) job) :
    Answers (.modelLoad id) s fun t => t.hub.model = found.publish true
      ∧ (∃ q, t.job j = some q ∧ (∃ e ∈ q.ledger.models, e.hash = sha384 bytes) ∧ q.params = job.params)
      ∧ (t.cmd id).map (fun q => (q.state, q.status, q.result)) = some (.finished, 0, BitVec.ofNat 64 found.conflicts)
      ∧ t.mem = s.dev.mem ∧ t.crofts = s.dev.crofts ∧ t.slots = s.dev.slots := by
  refine answers_of_effect (f := Dev.modelLoad id) rfl fun t ht => ?_
  obtain ⟨hcmd, hjob⟩ := Dev.started_open hstart
  obtain ⟨e, hhash, heq⟩ := Dev.modelLoad_eq hstart hcheck hpass
  rw [heq] at ht
  obtain ⟨_, _, hslots, hjobs, hcrofts, hcmds, _, hmem, _⟩ := Dev.bare_congr ht
  obtain ⟨x, hx, hxe⟩ := job.ledger.loaded_hash e
  have hloaded := (Dev.job_congr (e := s.dev.withModel j (found.publish true) e) hjobs j).trans (Dev.job_withModel hjob _ e)
  exact ⟨congrArg (·.hub.model) ht, ⟨_, hloaded, ⟨x, hx, hxe.trans hhash⟩, rfl⟩, Dev.cmd_succeed (by exact hcmd) _ hcmds,
    hmem, hcrofts, hslots⟩

end

end Sys2Proof.Machine
end

section
/-!
SUPPORT. The record that LEDGER_CLOSE writes (12_determinism_and_ledger.md R364, R365, R368), and the statement on MODEL_LOAD and
LEDGER_CLOSE (Obligations.ModelAndLedger).
-/

namespace Sys2Proof.Machine

/-! ## Lengths of hashes and signatures -/

@[simp] theorem length_beBytes (n v : Nat) : (beBytes n v).length = n := by simp [beBytes]

@[simp] theorem length_sha384 (bs : List Byte) : (sha384 bs).length = 48 := by
  unfold sha384
  extract_lets
  simp

/-- A signature has 96 bytes. The definition is opened as a function, not at its arguments: there the kernel would evaluate the
scalar multiplication. -/
@[simp] theorem length_ecSign (key : Nat) (bs : List Byte) : (ecSign key bs).length = 96 := by
  have hopen : ∃ f, ecSign = f ∧ ∀ key bs, (f key bs).length = 96 := by
    refine ⟨_, by delta ecSign; rfl, fun key bs => ?_⟩
    extract_lets h k
    generalize ecMul 384 k (some p384G) = point
    cases point with
    | none => exact List.length_replicate
    | some p => rw [List.length_append, length_beBytes, length_beBytes]
  obtain ⟨f, hf, hlen⟩ := hopen
  exact hf ▸ hlen key bs

/-! ## The fixed part (R365) -/

section
variable (d : Dev) (j : Fin 64) (job : Job) (n seq : Nat)

/-- The fixed part begins with tag, version, section count, LENGTH and handle, and from 0x13C on it ends with the fault record of
the job. -/
theorem Dev.ledgerFixed_ends {declared : List Byte} (h : declared.length = 48) :
    (∃ rest, d.ledgerFixed j job declared n seq
      = leBytes 4 0x5247444C ++ leBytes 2 1 ++ leBytes 2 7 ++ leBytes 4 n ++ leBytes 4 job.params.handle.toNat ++ rest)
    ∧ ∃ front, front.length = 0x13C
      ∧ d.ledgerFixed j job declared n seq = front ++ leBytes 2 (job.fault.getD ⟨0, 0, 0⟩).code ++ leBytes 2 0
        ++ leBytes 8 (job.fault.getD ⟨0, 0, 0⟩).step ++ leBytes 8 (job.fault.getD ⟨0, 0, 0⟩).detail.toNat ++ leBytes 48 0 := by
  unfold Dev.ledgerFixed
  extract_lets p l xs t fr
  refine ⟨?_, _, ?_, rfl⟩
  · simp only [List.append_assoc, List.append_cancel_left_eq]
    exact ⟨_, rfl⟩
  · simp only [List.length_append, length_leBytes, length_sha384, h]

theorem Dev.length_ledgerFixed {declared : List Byte} (h : declared.length = 48) :
    (d.ledgerFixed j job declared n seq).length = 0x180 := by
  obtain ⟨_, front, hfront, he⟩ := d.ledgerFixed_ends j job n seq h
  simp only [he, List.length_append, length_leBytes, hfront]

theorem Dev.length_ledgerBody {declared : List Byte} (h : declared.length = 48) :
    (d.ledgerBody j job declared seq).length + 96 = d.ledgerLength j job := by
  rw [Dev.ledgerBody, List.length_append, d.length_ledgerFixed j job _ seq h, Dev.ledgerLength]

/-- Tag, LENGTH and handle of a record, whatever follows the fixed part. -/
theorem Dev.ledgerFixed_names {declared : List Byte} (h : declared.length = 48) (more : List Byte) :
    let r := d.ledgerFixed j job declared n seq ++ more
    leAt r 0 4 = 0x5247444C ∧ leAt r 8 4 = n % 2 ^ 32 ∧ leAt r 12 4 = job.params.handle.toNat := by
  obtain ⟨⟨rest, he⟩, _⟩ := d.ledgerFixed_ends j job n seq h
  simp only [he, List.append_assoc]
  have htag := leAt_leBytes (xs := []) rfl 4 0x5247444C
  have hlength := leAt_leBytes (xs := leBytes 4 0x5247444C ++ leBytes 2 1 ++ leBytes 2 7) (off := 8) (by simp) 4 n
  have hhandle := leAt_leBytes (xs := leBytes 4 0x5247444C ++ leBytes 2 1 ++ leBytes 2 7 ++ leBytes 4 n) (off := 12) (by simp) 4
    job.params.handle.toNat
  simp only [List.append_assoc, List.nil_append] at htag hlength hhandle
  exact ⟨htag _, hlength _, (hhandle _).trans (Nat.mod_eq_of_lt job.params.handle.isLt)⟩

/-- The fault record of a record, zeros when the job has none, whatever follows the fixed part. -/
theorem Dev.ledgerFixed_fault {declared : List Byte} (h : declared.length = 48) (more : List Byte) :
    let r := d.ledgerFixed j job declared n seq ++ more
    leAt r 0x13C 2 = (job.fault.map (·.code)).getD 0 % 2 ^ 16 ∧ leAt r 0x140 8 = (job.fault.map (·.step)).getD 0 % 2 ^ 64
      ∧ leAt r 0x148 8 = ((job.fault.map FaultRec.detail).getD 0).toNat := by
  obtain ⟨_, front, hfront, he⟩ := d.ledgerFixed_ends j job n seq h
  have hrec : (job.fault.map (·.code)).getD 0 = (job.fault.getD ⟨0, 0, 0⟩).code
      ∧ (job.fault.map (·.step)).getD 0 = (job.fault.getD ⟨0, 0, 0⟩).step
      ∧ (job.fault.map FaultRec.detail).getD 0 = (job.fault.getD ⟨0, 0, 0⟩).detail := by
    cases job.fault <;> exact ⟨rfl, rfl, rfl⟩
  obtain ⟨hcode, hstep, hdetail⟩ := hrec
  rw [he, hcode, hstep, hdetail]
  generalize job.fault.getD ⟨0, 0, 0⟩ = f
  have code := leAt_leBytes (xs := front) hfront 2 f.code
  have step := leAt_leBytes (xs := front ++ leBytes 2 f.code ++ leBytes 2 0) (off := 0x140) (by simp [hfront]) 8 f.step
  have detail := leAt_leBytes (xs := front ++ leBytes 2 f.code ++ leBytes 2 0 ++ leBytes 8 f.step) (off := 0x148)
    (by simp [hfront]) 8 f.detail.toNat
  simp only [List.append_assoc] at code step detail ⊢
  exact ⟨code _, step _, (detail _).trans (Nat.mod_eq_of_lt f.detail.isLt)⟩

end

/-! ## LEDGER_CLOSE of a job with no other command (R316, R364) -/

/-- The device with one more record signed, and that record written at `a`. -/
def Dev.withRecord (d : Dev) (a : Nat) (record : List Byte) : Dev :=
  Dev.write { d with hub := { d.hub with ledgersSigned := d.hub.ledgersSigned + 1 } } a record

/-- Bytes with their signature behind them (R368). -/
def signed (key : Nat) (body : List Byte) : List Byte := body ++ ecSign key body

/-- Writing a record keeps the commands in flight. -/
theorem Dev.cmd_withRecord (d : Dev) (a : Nat) (record : List Byte) (id : Nat) : (d.withRecord a record).cmd id = d.cmd id := by
  rw [Dev.cmd, Dev.withRecord, Dev.write_cmds]
  rfl

/-- Jobs and crofts after a record was written and its command succeeded. -/
theorem Dev.withRecord_keeps (d : Dev) (a : Nat) (record : List Byte) (id n : Nat) :
    ((d.withRecord a record).succeed id n).jobs = d.jobs ∧ ((d.withRecord a record).succeed id n).crofts = d.crofts := by
  rw [Dev.succeed, Dev.onCmd_jobs, Dev.onCmd_crofts, Dev.withRecord, Dev.write_jobs, Dev.write_crofts]
  exact ⟨rfl, rfl⟩

/-- The record that a LEDGER_CLOSE at `a` writes for a job. -/
def Dev.ledgerRecord (d : Dev) (j : Fin 64) (job : Job) (a : Nat) : List Byte :=
  signed d.boot.key (d.ledgerBody j job (readBytes d.mem a 48) (d.hub.ledgersSigned + 1))

/-- LEDGER_CLOSE may write its record of `n` bytes at `a`: the range can be reached, its first 64 bytes are not poisoned, there is
room for it, and the 16 bytes at offset 48 of the caller block are zero (R253, R316, R364, R379). -/
def Dev.RecordFits (d : Dev) (a room n : Nat) : Prop :=
  d.hubRange a (max 64 n) = [] ∧ meetsPoison d.memPoison a 64 = false ∧ n ≤ room
    ∧ ∀ i < 16, readByte d.mem (a + 48 + i) = 0

/-- A record that may be written raises no fault. -/
theorem Dev.RecordFits.no_fault {d : Dev} {a room n : Nat} (h : d.RecordFits a room n) : d.ledgerFaults a room n true = [] := by
  obtain ⟨hrange, hpoison, hroom, hzeroes⟩ := h
  have hzero : ((d.read (a + 48) 16).any fun b => b != 0) = false := by
    rw [List.any_eq_false]
    intro b hb
    obtain ⟨i, hi, rfl⟩ := List.mem_map.mp hb
    simp [hzeroes i (List.mem_range.mp hi)]
  simp only [Dev.ledgerFaults, hrange, hpoison, hzero, Nat.not_lt.mpr hroom, when_, decide_false, Bool.not_true,
    Bool.false_eq_true, if_false, List.append_nil]

/-- What a LEDGER_CLOSE that is alone does. -/
theorem Dev.ledgerClose_eq {d : Dev} {id : Nat} {c : Cmd} {j : Fin 64} {job : Job} (hstart : d.started id 9 = some (c, j, job))
    (halone : ∀ q ∈ d.cmds, q.job = some j → q.id = c.id)
    (hfits : d.RecordFits (leAt c.entry 0x20 8) (leAt c.entry 0x28 4) (d.ledgerLength j job)) :
    d.ledgerClose id true = (d.withRecord (leAt c.entry 0x20 8) (d.ledgerRecord j job (leAt c.entry 0x20 8))).succeed id
      (d.ledgerLength j job) := by
  have hothers : (d.cmds.any fun q => q.id != c.id && q.job == some j) = false := by
    rw [List.any_eq_false]
    intro q hq
    simpa using fun hne hj => hne (halone q hq hj)
  have hnone : lowest (d.ledgerFaults (c.arg 0x20 8) (c.arg 0x28 4) (d.ledgerLength j job) true) = none :=
    lowest_eq_none.mpr hfits.no_fault
  simp only [Dev.ledgerClose, hstart, hothers, hnone, Bool.false_eq_true, if_false]
  rfl

/-- Memory holds at `a` the tag of a record, its length `n`, and the handle and the fault of its job (R365). -/
def Job.RecordAt (job : Job) (n : Nat) (m : Cells) (a : Nat) : Prop :=
  leNat (readBytes m a 4) = 0x5247444C ∧ leNat (readBytes m (a + 8) 4) = n % 2 ^ 32
    ∧ leNat (readBytes m (a + 12) 4) = job.params.handle.toNat
    ∧ leNat (readBytes m (a + 0x13C) 2) = (job.fault.map (·.code)).getD 0 % 2 ^ 16
    ∧ leNat (readBytes m (a + 0x140) 8) = (job.fault.map (·.step)).getD 0 % 2 ^ 64
    ∧ leNat (readBytes m (a + 0x148) 8) = ((job.fault.map FaultRec.detail).getD 0).toNat

/-- A record in memory, whatever follows its body. -/
theorem Dev.ledgerBody_written (d : Dev) (j : Fin 64) (job : Job) (seq : Nat) {declared : List Byte} (h : declared.length = 48)
    {mem : Cells} (hm : Cells.wf mem = true) (a : Nat) (more : List Byte) :
    job.RecordAt (d.ledgerLength j job) (writeBytes mem a (d.ledgerBody j job declared seq ++ more)) a := by
  have hfixed := d.length_ledgerFixed j job (d.ledgerLength j job) seq h
  obtain ⟨htag, hlength, hhandle⟩ := d.ledgerFixed_names j job (d.ledgerLength j job) seq h (d.ledgerSections j job ++ more)
  obtain ⟨hcode, hstep, hdetail⟩ := d.ledgerFixed_fault j job (d.ledgerLength j job) seq h (d.ledgerSections j job ++ more)
  rw [Dev.ledgerBody, List.append_assoc]
  generalize d.ledgerFixed j job declared (d.ledgerLength j job) seq = fixed at *
  generalize d.ledgerSections j job ++ more = rest at *
  have hread (off n : Nat) (hn : off + n ≤ 0x180) :
      leNat (readBytes (writeBytes mem a (fixed ++ rest)) (a + off) n) = leAt (fixed ++ rest) off n := by
    rw [readBytes_writeBytes_slice hm a (by rw [List.length_append]; omega), leAt]
  exact ⟨(hread 0 4 (by decide)).trans htag, (hread 8 4 (by decide)).trans hlength, (hread 12 4 (by decide)).trans hhandle,
    (hread 0x13C 2 (by decide)).trans hcode, (hread 0x140 8 (by decide)).trans hstep, (hread 0x148 8 (by decide)).trans hdetail⟩

/-- A signed record in memory: the signature of the bytes before it, and no byte changed beside it. -/
theorem signed_written {mem : Cells} (hm : Cells.wf mem = true) (a key : Nat) {body : List Byte} {n : Nat} (hn : body.length + 96 = n) :
    let m := writeBytes mem a (signed key body)
    (∀ k, k < a ∨ a + n ≤ k → readByte m k = readByte mem k)
      ∧ ∃ k, readBytes m (a + n - 96) 96 = ecSign key (readBytes m a k) ∧ k + 96 = n := by
  subst hn
  unfold signed
  have hlen : (ecSign key body).length = 96 := length_ecSign key body
  generalize hsig : ecSign key body = sig at hlen ⊢
  obtain ⟨hkeep, hbody, hread⟩ := readBytes_writeBytes_behind hm a body sig
  rw [← writeBytes_append] at hkeep hbody hread
  rw [hlen] at hkeep hread
  exact ⟨hkeep, body.length, by rw [hbody, hsig, ← Nat.add_assoc, Nat.add_sub_cancel, hread], rfl⟩

/-- The record in memory: its fields, its signature, and the bytes beside it. -/
theorem Dev.ledgerRecord_written {d : Dev} (hm : Cells.wf d.mem = true) (j : Fin 64) (job : Job) (a : Nat) :
    let n := d.ledgerLength j job
    let m := writeBytes d.mem a (d.ledgerRecord j job a)
    (∀ k, k < a ∨ a + n ≤ k → readByte m k = readByte d.mem k)
      ∧ job.RecordAt n m a ∧ ∃ k, readBytes m (a + n - 96) 96 = ecSign d.boot.key (readBytes m a k) ∧ k + 96 = n := by
  have hdeclared : (readBytes d.mem a 48).length = 48 := length_readBytes _ _ _
  obtain ⟨hkeep, hsign⟩ := signed_written hm a d.boot.key (d.length_ledgerBody j job (d.hub.ledgersSigned + 1) hdeclared)
  exact ⟨hkeep, d.ledgerBody_written j job (d.hub.ledgersSigned + 1) hdeclared hm a _, hsign⟩

/-- LEDGER_CLOSE, once it is alone. -/
theorem State.ledgerClose_alone {s : State} {id : Nat} {c : Cmd} {j : Fin 64} {job : Job}
    (hstart : s.dev.started id 9 = some (c, j, job)) (halone : ∀ q ∈ s.dev.cmds, q.job = some j → q.id = c.id)
    (hfits : s.dev.RecordFits (leAt c.entry 0x20 8) (leAt c.entry 0x28 4) (s.dev.ledgerLength j job)) :
    Answers (.ledgerClose id true) s fun t =>
      t.mem = writeBytes s.dev.mem (leAt c.entry 0x20 8) (s.dev.ledgerRecord j job (leAt c.entry 0x20 8))
      ∧ t.hub.ledgersSigned = s.dev.hub.ledgersSigned + 1
      ∧ (t.cmd id).map (fun q => (q.state, q.status, q.result))
        = some (.finished, 0, BitVec.ofNat 64 (s.dev.ledgerLength j job))
      ∧ t.crofts = s.dev.crofts ∧ t.jobs = s.dev.jobs := by
  refine answers_of_effect (f := Dev.ledgerClose id true) rfl fun t ht => ?_
  obtain ⟨hcmd, _⟩ := Dev.started_open hstart
  rw [Dev.ledgerClose_eq hstart halone hfits] at ht
  generalize s.dev.ledgerRecord j job (leAt c.entry 0x20 8) = record at ht ⊢
  obtain ⟨_, _, _, hjobs, hcrofts, hcmds, _, hmem, _⟩ := Dev.bare_congr ht
  obtain ⟨hkeptJobs, hkeptCrofts⟩ := s.dev.withRecord_keeps (leAt c.entry 0x20 8) record id (s.dev.ledgerLength j job)
  exact ⟨hmem, congrArg (·.hub.ledgersSigned) ht,
    Dev.cmd_succeed ((s.dev.cmd_withRecord _ record id).trans hcmd) _ hcmds, hcrofts.trans hkeptCrofts, hjobs.trans hkeptJobs⟩

/-- Settles O40: a model that passes its check is loaded (`State.modelLoad_passes`), and a LEDGER_CLOSE that is alone writes its
record (`State.ledgerClose_alone`), whose bytes `Dev.ledgerRecord_written` reads back. -/
theorem modelAndLedger : Obligations.ModelAndLedger := by
  unfold Obligations.ModelAndLedger
  refine ⟨?_, ?_⟩
  · intro s id c j job found bytes hstart a m hcheck hformat hover href hdet
    obtain ⟨t, hnext, hpending, hmodel, hrest⟩ := State.modelLoad_passes hstart hcheck ⟨hformat, hover, href, hdet⟩
    have hpublish := congrArg (fun r => { found.publish true with result := r }) (ModelFound.publish_result hformat)
    exact ⟨t, hnext, hpending, hmodel.trans hpublish, hrest⟩
  · intro s id c j job hstart halone hwf a n hrange hpoison hroom hzero
    obtain ⟨t, hnext, hpending, hmem, hsigned, hcmd, hcrofts, hjobs⟩ :=
      State.ledgerClose_alone hstart halone ⟨hrange, hpoison, hroom, hzero⟩
    obtain ⟨hkeep, hrecord, hsign⟩ := Dev.ledgerRecord_written hwf.mem j job a
    rw [← hmem] at hkeep hrecord hsign
    obtain ⟨htag, hlength, hhandle, hcode, hstep, hdetail⟩ := hrecord
    exact ⟨t, hnext, hpending, hkeep, htag, hlength, hhandle, hcode, hstep, hdetail, hsign, hsigned, hcmd, hcrofts, hjobs⟩

end Sys2Proof.Machine
end
